-- ==== Sys2Proof/Word.lean ====
section
/-! DEFINITION. The plain words of the Yeltus Y1: doublewords, bytes, virtual addresses and register names. -/

namespace Sys2Proof

/-- A 64-bit doubleword (R45). -/
abbrev Word := BitVec 64

/-- A byte of memory. -/
abbrev Byte := BitVec 8

/-- A 72-bit virtual address (R19). -/
abbrev VA := BitVec 72

/-- A vector register's value, 1,024 bits (R46). -/
abbrev VWord := BitVec 1024

/-- A mask register's value, 128 bits (R46). -/
abbrev MWord := BitVec 128

/-- The name of a scalar register x0-x31 (R45). -/
abbrev Reg := BitVec 5

/-- The name of a vector register v0-v15 (R46). -/
abbrev VReg := BitVec 4

/-- The name of a mask register m0-m3 (R46). -/
abbrev MReg := BitVec 2

/-- The name of an accumulator tile acc0-acc3 (R49). -/
abbrev Tile := BitVec 2

end Sys2Proof
end

