-- ==== Sys2Proof/Syntax.lean ====
section
/-! DEFINITION. The syntax of the Yeltus Y1's steps: one constructor of `Instr` for each row of the opcode table,
the 232 instructions first and then the 84 events of the device (spec/95). -/

namespace Sys2Proof

/-- The width of an XLD (R60). -/
inductive LdWidth where
  | b | h | w | d | bu | hu | wu
deriving DecidableEq, Repr, Inhabited

/-- The width of an XST (R60). -/
inductive StWidth where
  | b | h | w | d
deriving DecidableEq, Repr, Inhabited

/-- A scope (R101, R135). -/
inductive Scope where
  | th | co | cl | dv | dm | sy
deriving DecidableEq, Repr, Inhabited

/-- A vector lane type (R63). -/
inductive VTy where
  | f32 | bf16 | f16 | i8 | i16 | i32 | i64
deriving DecidableEq, Repr, Inhabited

/-- A condition of VCMP (R63, R209). -/
inductive Cond where
  | eq | ne | lt | le | ltu | leu
deriving DecidableEq, Repr, Inhabited

/-- A direction to a mesh neighbour (R62, R197). -/
inductive Dir where
  | n | e | s | w
deriving DecidableEq, Repr, Inhabited

/-- The fields of the eight words of a tile command (R65, R227), less its op. -/
structure TileCmd where
  /-- w0[28]: count-trap enable. -/
  ctrap : Bool
  /-- w0[27]: take the formats and bases from the shadow CSRs (R229). -/
  shadow : Bool
  /-- w0[26:25]: the energy class. -/
  ec : BitVec 2
  /-- w0[19:15]: the base register. -/
  base : Reg
  /-- w0[11:7]: the completion register. -/
  xd : Reg
  /-- w1[28:23]. -/
  kb : BitVec 6
  /-- w1[22:18]. -/
  pm1 : BitVec 5
  /-- w1[17:0]. -/
  off1 : BitVec 18
  /-- w2[22:18]. -/
  pm2 : BitVec 5
  /-- w2[17:0]. -/
  off2 : BitVec 18
  /-- w3[17:0]. -/
  off3 : BitVec 18
  /-- w4[17:0]. -/
  off4 : BitVec 18
  /-- w5[1:0]. -/
  tile : Tile
  /-- w6[8]. -/
  sat : Bool
  /-- w6[7:4]. -/
  ofmt : BitVec 4
  /-- w6[3:0]. -/
  ifmt : BitVec 4
  /-- w7[9:0]. -/
  s1 : BitVec 10
  /-- w7[19:10]. -/
  s2 : BitVec 10
deriving DecidableEq, Repr, Inhabited

/-- The op of a tile command (R65). -/
inductive TileOp where
  | mma | mmaz | maccst | maccld | mpack | mxpose | mzero
deriving DecidableEq, Repr, Inhabited

/-- One step of the Yeltus Y1: one constructor for each row of the opcode table. -/
inductive Instr where
  /-- LUI (R191). Loads a 20-bit upper immediate into rd, as RV64I defines. -/
  | lui (rd : Reg) (imm : BitVec 20)
  /-- AUIPC (R191). Adds an upper immediate to the PC into rd, as RV64I defines. -/
  | auipc (rd : Reg) (imm : BitVec 20)
  /-- JAL (R191). Jumps PC-relative and links; a target not a multiple of 4 traps MISALIGN without writing rd. -/
  | jal (rd : Reg) (imm : BitVec 20)
  /-- JALR (R191). Jumps register-indirect and links; a target not a multiple of 4 traps MISALIGN without writing rd. -/
  | jalr (rd rs1 : Reg) (imm : BitVec 12)
  /-- BEQ (R191). Branches if equal; a taken misaligned target traps MISALIGN. -/
  | beq (rs1 rs2 : Reg) (imm : BitVec 12)
  /-- BNE (R191). Branches if not equal; a taken misaligned target traps MISALIGN. -/
  | bne (rs1 rs2 : Reg) (imm : BitVec 12)
  /-- BLT (R191). Branches if signed less than. -/
  | blt (rs1 rs2 : Reg) (imm : BitVec 12)
  /-- BGE (R191). Branches if signed greater or equal. -/
  | bge (rs1 rs2 : Reg) (imm : BitVec 12)
  /-- BLTU (R191). Branches if unsigned less than. -/
  | bltu (rs1 rs2 : Reg) (imm : BitVec 12)
  /-- BGEU (R191). Branches if unsigned greater or equal. -/
  | bgeu (rs1 rs2 : Reg) (imm : BitVec 12)
  /-- LB (R192). Loads a sign-extended byte as XLD.b through window aw0. -/
  | lb (rd rs1 : Reg) (imm : BitVec 12)
  /-- LH (R192). Loads a sign-extended halfword as XLD.h through window aw0. -/
  | lh (rd rs1 : Reg) (imm : BitVec 12)
  /-- LW (R192). Loads a sign-extended word as XLD.w through window aw0. -/
  | lw (rd rs1 : Reg) (imm : BitVec 12)
  /-- LD (R192). Loads a doubleword as XLD.d through window aw0; remote loads are reply-bearing. -/
  | ld (rd rs1 : Reg) (imm : BitVec 12)
  /-- LBU (R192). Loads a zero-extended byte as XLD.bu through window aw0. -/
  | lbu (rd rs1 : Reg) (imm : BitVec 12)
  /-- LHU (R192). Loads a zero-extended halfword as XLD.hu through window aw0. -/
  | lhu (rd rs1 : Reg) (imm : BitVec 12)
  /-- LWU (R192). Loads a zero-extended word as XLD.wu through window aw0. -/
  | lwu (rd rs1 : Reg) (imm : BitVec 12)
  /-- SB (R192). Stores a byte as XST.b through window aw0; remote stores are posted. -/
  | sb (rs2 rs1 : Reg) (imm : BitVec 12)
  /-- SH (R192). Stores a halfword as XST.h through window aw0. -/
  | sh (rs2 rs1 : Reg) (imm : BitVec 12)
  /-- SW (R192). Stores a word as XST.w through window aw0. -/
  | sw (rs2 rs1 : Reg) (imm : BitVec 12)
  /-- SD (R192). Stores a doubleword as XST.d through window aw0. -/
  | sd (rs2 rs1 : Reg) (imm : BitVec 12)
  /-- ADDI (R191). Adds a sign-extended immediate to rs1. -/
  | addi (rd rs1 : Reg) (imm : BitVec 12)
  /-- SLTI (R191). Sets rd if rs1 is signed-less than the immediate. -/
  | slti (rd rs1 : Reg) (imm : BitVec 12)
  /-- SLTIU (R191). Sets rd if rs1 is unsigned-less than the immediate. -/
  | sltiu (rd rs1 : Reg) (imm : BitVec 12)
  /-- XORI (R191). Exclusive-ORs rs1 with an immediate. -/
  | xori (rd rs1 : Reg) (imm : BitVec 12)
  /-- ORI (R191). ORs rs1 with an immediate. -/
  | ori (rd rs1 : Reg) (imm : BitVec 12)
  /-- ANDI (R191). ANDs rs1 with an immediate. -/
  | andi (rd rs1 : Reg) (imm : BitVec 12)
  /-- SLLI (R191). Shifts rs1 left logically by an immediate. -/
  | slli (rd rs1 : Reg) (sh : BitVec 6)
  /-- SRLI (R191). Shifts rs1 right logically by an immediate. -/
  | srli (rd rs1 : Reg) (sh : BitVec 6)
  /-- SRAI (R191). Shifts rs1 right arithmetically by an immediate. -/
  | srai (rd rs1 : Reg) (sh : BitVec 6)
  /-- ADD (R191). Adds two registers. -/
  | add (rd rs1 rs2 : Reg)
  /-- SUB (R191). Subtracts two registers. -/
  | sub (rd rs1 rs2 : Reg)
  /-- SLL (R191). Shifts left logically by a register amount. -/
  | sll (rd rs1 rs2 : Reg)
  /-- SLT (R191). Sets rd on signed less-than. -/
  | slt (rd rs1 rs2 : Reg)
  /-- SLTU (R191). Sets rd on unsigned less-than. -/
  | sltu (rd rs1 rs2 : Reg)
  /-- XOR (R191). Exclusive-ORs two registers. -/
  | xor (rd rs1 rs2 : Reg)
  /-- SRL (R191). Shifts right logically by a register amount. -/
  | srl (rd rs1 rs2 : Reg)
  /-- SRA (R191). Shifts right arithmetically by a register amount. -/
  | sra (rd rs1 rs2 : Reg)
  /-- OR (R191). ORs two registers. -/
  | or (rd rs1 rs2 : Reg)
  /-- AND (R191). ANDs two registers. -/
  | and (rd rs1 rs2 : Reg)
  /-- ADDIW (R191). Adds an immediate in 32 bits and sign-extends. -/
  | addiw (rd rs1 : Reg) (imm : BitVec 12)
  /-- SLLIW (R191). Shifts left in 32 bits by an immediate. -/
  | slliw (rd rs1 : Reg) (sh : BitVec 5)
  /-- SRLIW (R191). Shifts right logically in 32 bits by an immediate. -/
  | srliw (rd rs1 : Reg) (sh : BitVec 5)
  /-- SRAIW (R191). Shifts right arithmetically in 32 bits by an immediate. -/
  | sraiw (rd rs1 : Reg) (sh : BitVec 5)
  /-- ADDW (R191). Adds in 32 bits and sign-extends. -/
  | addw (rd rs1 rs2 : Reg)
  /-- SUBW (R191). Subtracts in 32 bits and sign-extends. -/
  | subw (rd rs1 rs2 : Reg)
  /-- SLLW (R191). Shifts left in 32 bits by a register amount. -/
  | sllw (rd rs1 rs2 : Reg)
  /-- SRLW (R191). Shifts right logically in 32 bits by a register amount. -/
  | srlw (rd rs1 rs2 : Reg)
  /-- SRAW (R191). Shifts right arithmetically in 32 bits by a register amount. -/
  | sraw (rd rs1 rs2 : Reg)
  /-- FENCE (R194). Standard FENCE, acting as fence.dv with the set all whatever its pred, succ and fm. -/
  | fence (fm pred succ : BitVec 4)
  /-- FENCE_I (R194). Waits as fence.dv, then discards the thread's prefetched instruction words. -/
  | fenceI
  /-- ECALL (R195). Traps ECALL precisely with tval 0. -/
  | ecall
  /-- EBREAK (R195). Traps BREAK precisely with tval 0 and SUB 0. -/
  | ebreak
  /-- MUL (R191). Multiplies, low 64 bits. -/
  | mul (rd rs1 rs2 : Reg)
  /-- MULH (R191). Multiplies signed, high 64 bits. -/
  | mulh (rd rs1 rs2 : Reg)
  /-- MULHSU (R191). Multiplies signed by unsigned, high 64 bits. -/
  | mulhsu (rd rs1 rs2 : Reg)
  /-- MULHU (R191). Multiplies unsigned, high 64 bits. -/
  | mulhu (rd rs1 rs2 : Reg)
  /-- DIV (R196). Divides signed; division by zero and overflow give the M-specified values without trapping. -/
  | div (rd rs1 rs2 : Reg)
  /-- DIVU (R196). Divides unsigned without trapping. -/
  | divu (rd rs1 rs2 : Reg)
  /-- REM (R196). Signed remainder without trapping. -/
  | rem (rd rs1 rs2 : Reg)
  /-- REMU (R196). Unsigned remainder without trapping. -/
  | remu (rd rs1 rs2 : Reg)
  /-- MULW (R191). Multiplies in 32 bits and sign-extends. -/
  | mulw (rd rs1 rs2 : Reg)
  /-- DIVW (R196). Divides signed in 32 bits without trapping. -/
  | divw (rd rs1 rs2 : Reg)
  /-- DIVUW (R196). Divides unsigned in 32 bits without trapping. -/
  | divuw (rd rs1 rs2 : Reg)
  /-- REMW (R196). Signed 32-bit remainder without trapping. -/
  | remw (rd rs1 rs2 : Reg)
  /-- REMUW (R196). Unsigned 32-bit remainder without trapping. -/
  | remuw (rd rs1 rs2 : Reg)
  /-- CSRRW (R51). Reads a CSR into rd and writes rs1 to it, subject to the map and level checks at decode. -/
  | csrrw (rd rs1 : Reg) (csr : BitVec 12)
  /-- CSRRS (R51). Reads a CSR and sets the bits in rs1; rs1 = x0 does not write. -/
  | csrrs (rd rs1 : Reg) (csr : BitVec 12)
  /-- CSRRC (R51). Reads a CSR and clears the bits in rs1; rs1 = x0 does not write. -/
  | csrrc (rd rs1 : Reg) (csr : BitVec 12)
  /-- CSRRWI (R51). Reads a CSR and writes a 5-bit immediate to it. -/
  | csrrwi (rd : Reg) (imm : BitVec 5) (csr : BitVec 12)
  /-- CSRRSI (R51). Reads a CSR and sets immediate bits; a zero immediate does not write. -/
  | csrrsi (rd : Reg) (imm : BitVec 5) (csr : BitVec 12)
  /-- CSRRCI (R51). Reads a CSR and clears immediate bits; a zero immediate does not write. -/
  | csrrci (rd : Reg) (imm : BitVec 5) (csr : BitVec 12)
  /-- ADD_UW (R191). Adds the zero-extended low word of rs1 to rs2 (Zba). -/
  | addUw (rd rs1 rs2 : Reg)
  /-- SH1ADD (R191). Shifts rs1 left by 1 and adds rs2 (Zba). -/
  | sh1add (rd rs1 rs2 : Reg)
  /-- SH2ADD (R191). Shifts rs1 left by 2 and adds rs2 (Zba). -/
  | sh2add (rd rs1 rs2 : Reg)
  /-- SH3ADD (R191). Shifts rs1 left by 3 and adds rs2 (Zba). -/
  | sh3add (rd rs1 rs2 : Reg)
  /-- SH1ADD_UW (R191). Zero-extends the low word of rs1, shifts by 1 and adds (Zba). -/
  | sh1addUw (rd rs1 rs2 : Reg)
  /-- SH2ADD_UW (R191). Zero-extends the low word of rs1, shifts by 2 and adds (Zba). -/
  | sh2addUw (rd rs1 rs2 : Reg)
  /-- SH3ADD_UW (R191). Zero-extends the low word of rs1, shifts by 3 and adds (Zba). -/
  | sh3addUw (rd rs1 rs2 : Reg)
  /-- SLLI_UW (R191). Zero-extends the low word of rs1 and shifts left by an immediate (Zba). -/
  | slliUw (rd rs1 : Reg) (sh : BitVec 6)
  /-- ANDN (R191). ANDs rs1 with the complement of rs2 (Zbb). -/
  | andn (rd rs1 rs2 : Reg)
  /-- ORN (R191). ORs rs1 with the complement of rs2 (Zbb). -/
  | orn (rd rs1 rs2 : Reg)
  /-- XNOR (R191). Exclusive-NORs two registers (Zbb). -/
  | xnor (rd rs1 rs2 : Reg)
  /-- CLZ (R191). Counts leading zeros (Zbb). -/
  | clz (rd rs1 : Reg)
  /-- CTZ (R191). Counts trailing zeros (Zbb). -/
  | ctz (rd rs1 : Reg)
  /-- CPOP (R191). Counts set bits (Zbb). -/
  | cpop (rd rs1 : Reg)
  /-- CLZW (R191). Counts leading zeros of the low word (Zbb). -/
  | clzw (rd rs1 : Reg)
  /-- CTZW (R191). Counts trailing zeros of the low word (Zbb). -/
  | ctzw (rd rs1 : Reg)
  /-- CPOPW (R191). Counts set bits of the low word (Zbb). -/
  | cpopw (rd rs1 : Reg)
  /-- MAX (R191). Signed maximum (Zbb). -/
  | max (rd rs1 rs2 : Reg)
  /-- MAXU (R191). Unsigned maximum (Zbb). -/
  | maxu (rd rs1 rs2 : Reg)
  /-- MIN (R191). Signed minimum (Zbb). -/
  | min (rd rs1 rs2 : Reg)
  /-- MINU (R191). Unsigned minimum (Zbb). -/
  | minu (rd rs1 rs2 : Reg)
  /-- SEXT_B (R191). Sign-extends the low byte (Zbb). -/
  | sextB (rd rs1 : Reg)
  /-- SEXT_H (R191). Sign-extends the low halfword (Zbb). -/
  | sextH (rd rs1 : Reg)
  /-- ZEXT_H (R191). Zero-extends the low halfword (Zbb). -/
  | zextH (rd rs1 : Reg)
  /-- ROL (R191). Rotates left by a register amount (Zbb). -/
  | rol (rd rs1 rs2 : Reg)
  /-- ROR (R191). Rotates right by a register amount (Zbb). -/
  | ror (rd rs1 rs2 : Reg)
  /-- RORI (R191). Rotates right by an immediate (Zbb). -/
  | rori (rd rs1 : Reg) (sh : BitVec 6)
  /-- ROLW (R191). Rotates the low word left (Zbb). -/
  | rolw (rd rs1 rs2 : Reg)
  /-- RORW (R191). Rotates the low word right (Zbb). -/
  | rorw (rd rs1 rs2 : Reg)
  /-- RORIW (R191). Rotates the low word right by an immediate (Zbb). -/
  | roriw (rd rs1 : Reg) (sh : BitVec 5)
  /-- ORC_B (R191). OR-combines within each byte (Zbb). -/
  | orcB (rd rs1 : Reg)
  /-- REV8 (R191). Reverses the byte order (Zbb). -/
  | rev8 (rd rs1 : Reg)
  /-- XLD (R100). Ordinary load of a byte to doubleword at a window VA, optionally on a peer; reply-bearing when remote. -/
  | xld (wd : LdWidth) (aw : BitVec 2) (xp rs1 rd : Reg)
  /-- XST (R100). Ordinary store of rd at a window VA, optionally on a peer; posted when remote. -/
  | xst (wd : StWidth) (aw : BitVec 2) (xp rs1 rd : Reg)
  /-- LDAQ (R102). 64-bit acquire load at a scope, leaving the F/E bit unchanged. -/
  | ldaq (sc : Scope) (aw : BitVec 2) (xp rs1 rd : Reg)
  /-- LDFF (R103). Waits at the home until the word is full, reads it, leaves it full; acquire. -/
  | ldff (sc : Scope) (aw : BitVec 2) (xp rs1 rd : Reg)
  /-- LDFE (R103). Waits at the home until the word is full, reads it and empties it; acquire. -/
  | ldfe (sc : Scope) (aw : BitVec 2) (xp rs1 rd : Reg)
  /-- LDV (R111). Reads a view-block header and checks it against the needed version, waiting, faulting or marking stale by policy. -/
  | ldv (sc : Scope) (aw : BitVec 2) (xv rs1 rd : Reg)
  /-- STRL (R102). Release at a scope, then writes a 64-bit word leaving its F/E bit unchanged. -/
  | strl (sc : Scope) (aw : BitVec 2) (xp rs1 rd : Reg)
  /-- STFF (R103). Release at a scope, then writes the word and sets it full without waiting; posted. -/
  | stff (sc : Scope) (aw : BitVec 2) (xp rs1 rd : Reg)
  /-- STEF (R103). Release, then waits at the home until the word is empty, writes it and sets it full; reply-bearing. -/
  | stef (sc : Scope) (aw : BitVec 2) (xp rs1 rd : Reg)
  /-- FEMARK (R103). Release, then sets the word's F/E bit to x[rd][0] without changing data; posted. -/
  | femark (sc : Scope) (aw : BitVec 2) (xp rs1 rd : Reg)
  /-- AMO_ADD (R106). Indivisible add at the home, returning the old value; .ar makes it release and acquire. -/
  | amoAdd (ar : Bool) (aw : BitVec 2) (xp rs1 rd : Reg)
  /-- AMO_AND (R106). Indivisible AND at the home, returning the old value. -/
  | amoAnd (ar : Bool) (aw : BitVec 2) (xp rs1 rd : Reg)
  /-- AMO_OR (R106). Indivisible OR at the home, returning the old value. -/
  | amoOr (ar : Bool) (aw : BitVec 2) (xp rs1 rd : Reg)
  /-- AMO_XOR (R106). Indivisible XOR at the home, returning the old value. -/
  | amoXor (ar : Bool) (aw : BitVec 2) (xp rs1 rd : Reg)
  /-- AMO_MIN (R106). Indivisible signed minimum at the home, returning the old value. -/
  | amoMin (ar : Bool) (aw : BitVec 2) (xp rs1 rd : Reg)
  /-- AMO_MAX (R106). Indivisible signed maximum at the home, returning the old value. -/
  | amoMax (ar : Bool) (aw : BitVec 2) (xp rs1 rd : Reg)
  /-- AMO_MINU (R106). Indivisible unsigned minimum at the home, returning the old value. -/
  | amoMinU (ar : Bool) (aw : BitVec 2) (xp rs1 rd : Reg)
  /-- AMO_MAXU (R106). Indivisible unsigned maximum at the home, returning the old value. -/
  | amoMaxU (ar : Bool) (aw : BitVec 2) (xp rs1 rd : Reg)
  /-- AMO_SWAP (R106). Indivisible swap at the home, returning the old value. -/
  | amoSwap (ar : Bool) (aw : BitVec 2) (xp rs1 rd : Reg)
  /-- AMO_CAS (R106). Compare-and-swap on a word with the even pair rd, rd+1, returning the old value. -/
  | amoCas (ar : Bool) (aw : BitVec 2) (xp rs1 rd : Reg)
  /-- AMO_CAS2 (R106). Compare-and-swap on a 16-byte pair with the register quad rd..rd+3, returning both old words. -/
  | amoCas2 (ar : Bool) (aw : BitVec 2) (xp rs1 rd : Reg)
  /-- RED_ADD (R107). Remote update adding x[rd] to a word, returning nothing; posted when remote. -/
  | redAdd (aw : BitVec 2) (xp rs1 rd : Reg)
  /-- RED_AND (R107). Remote update ANDing x[rd] into a word. -/
  | redAnd (aw : BitVec 2) (xp rs1 rd : Reg)
  /-- RED_OR (R107). Remote update ORing x[rd] into a word. -/
  | redOr (aw : BitVec 2) (xp rs1 rd : Reg)
  /-- RED_XOR (R107). Remote update XORing x[rd] into a word. -/
  | redXor (aw : BitVec 2) (xp rs1 rd : Reg)
  /-- RED_MIN (R107). Remote update taking the signed minimum. -/
  | redMin (aw : BitVec 2) (xp rs1 rd : Reg)
  /-- RED_MAX (R107). Remote update taking the signed maximum. -/
  | redMax (aw : BitVec 2) (xp rs1 rd : Reg)
  /-- RED_MINU (R107). Remote update taking the unsigned minimum. -/
  | redMinU (aw : BitVec 2) (xp rs1 rd : Reg)
  /-- RED_MAXU (R107). Remote update taking the unsigned maximum. -/
  | redMaxU (aw : BitVec 2) (xp rs1 rd : Reg)
  /-- FENCE_S (R109). Scoped fence with set all: later accesses wait for earlier reply-bearing accesses and ack_all at the scope. -/
  | fenceS (sc : Scope)
  /-- FENCE_S_ST (R109). Scoped fence with set stores: later stores, AMOs and REDs wait for ack_all at the scope. -/
  | fenceSSt (sc : Scope)
  /-- FENCE_S_LD (R109). Scoped fence with set loads: later accesses wait for earlier reply-bearing accesses. -/
  | fenceSLd (sc : Scope)
  /-- FESTAT (R105). Reports a word's F/E state without waiting or changing it. -/
  | festat (aw : BitVec 2) (xp rs1 rd : Reg)
  /-- VCOMMIT (R113). Device-scope release declaring master blocks of a view group to hold a new version; the view hart checks and records it. -/
  | vcommit (aw : BitVec 2) (xv rs1 : Reg)
  /-- VRECLAIM (R114). Device-scope release raising a group's reclaim floor. -/
  | vreclaim (aw : BitVec 2) (xv rs1 : Reg)
  /-- WAITP (R129). Waits until a copy promise has passed, then checks the tagged command's completion, trapping PROMISE if incomplete. -/
  | waitp (rs1 : Reg)
  /-- CPYQ (R115). System-scope release that reads a command block and queues it on a copy hart, returning tag and promise. -/
  | cpyq (aw : BitVec 2) (xc rs1 rd : Reg)
  /-- KLOOK (R82). Looks a key up in the core's key-to-slot map. -/
  | klook (rd rs1 : Reg)
  /-- KLOOKP (R82). Looks a key up and pins its entry if found. -/
  | klookp (rd rs1 : Reg)
  /-- KLOOKW (R82). Looks a key up, parking while its entry is PENDING. -/
  | klookw (rd rs1 : Reg)
  /-- KBIND (R83). Binds a key to a FREE slot as PENDING, or reports the existing binding. -/
  | kbind (rd rs1 rs2 : Reg)
  /-- KBINDP (R83). Binds a key as KBIND does and pins the resulting entry. -/
  | kbindp (rd rs1 rs2 : Reg)
  /-- KREADY (R84). Marks a PENDING slot VALID as a core-scope release, waking KLOOKW waiters. -/
  | kready (rd rs2 : Reg)
  /-- KPIN (R86). Increments a bound slot's pin count. -/
  | kpin (rd rs2 : Reg)
  /-- KUNPIN (R86). Decrements a bound slot's pin count. -/
  | kunpin (rd rs2 : Reg)
  /-- KUNBIND (R87). Frees a bound slot whose pin count is zero. -/
  | kunbind (rd rs2 : Reg)
  /-- KINFO (R88). Reads a map entry, its key, or kmcfg without changing anything. -/
  | kinfo (rd rs2 : Reg)
  /-- KVIX (R91). Finds a ring-window index entry and returns its payload offset, or 0 if stale. -/
  | kvix (rd rs1 rs2 : Reg)
  /-- KVIXA (R91). Appends a ring-window index entry by writing its generation header and returns the payload offset. -/
  | kvixa (rd rs1 rs2 : Reg)
  /-- TSEND (R264). Sends a task record to a target core's channel as a release, reserving an inbox place, and returns a handle. -/
  | tsend (rd rs1 rs2 : Reg)
  /-- TSENDS (R264). Sends a task record reply-bearing, reporting a full inbox instead of bouncing. -/
  | tsends (rd rs1 rs2 : Reg)
  /-- TCALL (R264). Sends a task record expecting a continuation, emptying rd until TRET fills it. -/
  | tcall (rd rs1 rs2 : Reg)
  /-- TCANCEL (R271). Withdraws a waiting record sent by TSEND, named by its handle. -/
  | tcancel (rd rs1 : Reg)
  /-- CHBLK (R270). Sets BLOCKED on a channel of the own core. -/
  | chblk (rs1 : Reg)
  /-- CHUNBLK (R270). Clears BLOCKED on a channel of the own core. -/
  | chunblk (rs1 : Reg)
  /-- TEND (R267). Ends the task and empties the position. -/
  | tend
  /-- TRET (R266). Ends the task after sending x[rs1] as the caller's continuation fill. -/
  | tret (rs1 : Reg)
  /-- TYIELD (R269). Saves the context to the run-queue tail if a candidate is ready, otherwise does nothing. -/
  | tyield
  /-- RECV (R268). Takes one record of a channel into local storage, or binds the channel and parks. -/
  | recv (rd rs1 : Reg)
  /-- IRREV (R294). Waits for GVT and earlier commits, performs the task's deferred effects and makes the ordered task irrevocable. -/
  | irrev
  /-- DQPUSH (R272). Copies a record to the bottom of the own deque as a device-scope release. -/
  | dqpush (rd rs1 : Reg)
  /-- DQPOP (R272). Moves the bottom record of the own deque to local storage. -/
  | dqpop (rd rs1 : Reg)
  /-- DQSTEAL (R272). Moves the top record of another core's deque to local storage, subject to a tenant check. -/
  | dqsteal (rd rs1 rs2 : Reg)
  /-- FORKR (R274). Recruits idle cores from a fork descriptor, writes the join cell and sends their records. -/
  | forkr (rd rs1 : Reg)
  /-- JOIN (R275). Decrements the join cell as an acquire-release AMO; only the last part continues. -/
  | join (rd rs1 : Reg)
  /-- BARREG (R277). Binds or unbinds a barrier VA to a combiner and optionally writes its count and scope. -/
  | barreg (rd rs1 rs2 : Reg)
  /-- BARARV (R278). Arrives at a barrier as a release, completing the phase when all parties have arrived. -/
  | bararv (rs1 : Reg)
  /-- BARWAIT (R278). Waits at the home for the barrier phase to move on and returns DONE, FAULTED or LAPPED as an acquire. -/
  | barwait (rd rs1 : Reg)
  /-- BARDROP (R278). Lowers a barrier's party count as a release, completing the phase if enough have arrived. -/
  | bardrop (rs1 : Reg)
  /-- NPUT (R198). Sends a scalar value over a neighbour link to a register of a position on the adjacent core. -/
  | nput (rt : Reg) (dir : Dir) (rs : Reg) (pos : BitVec 3)
  /-- TRAPRET (R315). Returns from a trap to tstat.PL at tepc. -/
  | trapret
  /-- SLEEPT (R316). Parks the thread until cycle reaches x[rs1]. -/
  | sleept (rs1 : Reg)
  /-- CTXSAVE (R318). Operation SAVE: pauses a position and writes its context image to a pinned area, then empties the position. -/
  | ctxsave (rd rs1 rs2 : Reg)
  /-- JREAD (R320). CTXSAVE operation JREAD: copies a posted-store journal entry image to memory. -/
  | jread (rd rs1 rs2 : Reg)
  /-- JRETIRE (R320). CTXSAVE operation JRETIRE: frees a refused journal entry. -/
  | jretire (rd rs1 rs2 : Reg)
  /-- CTXLOAD (R321). Reads a saved context image as an acquire and returns the context to the run queue or its wait. -/
  | ctxload (rd rs1 : Reg)
  /-- MIGRC (R322). Moves a running context to an empty position of another core, leaving a forwarding entry. -/
  | migrc (rd rs1 rs2 : Reg)
  /-- TLBI (R39). Invalidates cached translations by kind and scope after acknowledging earlier stores, waiting for running walks. -/
  | tlbi (aw : BitVec 2) (rd rs1 rs2 : Reg)
  /-- SCRUB (R326). Zeroes a range of memory and sets its words full, as posted stores under tenant 0. -/
  | scrub (rs1 rs2 : Reg)
  /-- MARK (R327). Writes a mark record to the trace stream when marks are enabled. -/
  | mark (rs1 : Reg)
  /-- VADD (R204). Element-wise add of enabled lanes. -/
  | vadd (ty : VTy) (vd vs1 vs2 : VReg) (m : MReg)
  /-- VSUB (R204). Element-wise subtract. -/
  | vsub (ty : VTy) (vd vs1 vs2 : VReg) (m : MReg)
  /-- VMUL (R204). Element-wise multiply. -/
  | vmul (ty : VTy) (vd vs1 vs2 : VReg) (m : MReg)
  /-- VFMA (R205). Fused multiply-add into vd with one rounding. -/
  | vfma (ty : VTy) (vd vs1 vs2 : VReg) (m : MReg)
  /-- VMIN (R204). Element-wise minimum. -/
  | vmin (ty : VTy) (vd vs1 vs2 : VReg) (m : MReg)
  /-- VMAX (R204). Element-wise maximum. -/
  | vmax (ty : VTy) (vd vs1 vs2 : VReg) (m : MReg)
  /-- VMINU (R204). Element-wise unsigned minimum. -/
  | vminu (ty : VTy) (vd vs1 vs2 : VReg) (m : MReg)
  /-- VMAXU (R204). Element-wise unsigned maximum. -/
  | vmaxu (ty : VTy) (vd vs1 vs2 : VReg) (m : MReg)
  /-- VDIV (R204). Element-wise divide; multi-rotation. -/
  | vdiv (ty : VTy) (vd vs1 vs2 : VReg) (m : MReg)
  /-- VAND (R204). Bitwise AND of lanes. -/
  | vand (ty : VTy) (vd vs1 vs2 : VReg) (m : MReg)
  /-- VOR (R204). Bitwise OR of lanes. -/
  | vor (ty : VTy) (vd vs1 vs2 : VReg) (m : MReg)
  /-- VXOR (R204). Bitwise XOR of lanes. -/
  | vxor (ty : VTy) (vd vs1 vs2 : VReg) (m : MReg)
  /-- VSHL (R204). Lane shift left. -/
  | vshl (ty : VTy) (vd vs1 vs2 : VReg) (m : MReg)
  /-- VSHR (R204). Lane arithmetic shift right. -/
  | vshr (ty : VTy) (vd vs1 vs2 : VReg) (m : MReg)
  /-- VSHRL (R204). Lane logical shift right. -/
  | vshrl (ty : VTy) (vd vs1 vs2 : VReg) (m : MReg)
  /-- VCMP (R209). Compares lanes under a condition and writes a mask register. -/
  | vcmp (cc : Cond) (ty : VTy) (md : MReg) (vs1 vs2 : VReg) (m : MReg)
  /-- VSEL (R210). Selects lanes from vs1 or vs2 by a mask. -/
  | vsel (ty : VTy) (vd vs1 vs2 : VReg) (m : MReg)
  /-- VCVT (R211). Converts lanes between types with RNE or RTZ rounding. -/
  | vcvt (dst src : VTy) (rtz : Bool) (vd vs1 : VReg) (m : MReg)
  /-- VREDSUM (R212). Sums lanes by the fixed reduction tree into lane 0. -/
  | vredsum (ty : VTy) (vd vs1 : VReg) (m : MReg)
  /-- VREDMAX (R212). Maximum of lanes by the fixed reduction tree into lane 0. -/
  | vredmax (ty : VTy) (vd vs1 : VReg) (m : MReg)
  /-- VBCAST (R213). Broadcasts a scalar to every enabled lane. -/
  | vbcast (ty : VTy) (vd : VReg) (rs1 : Reg) (m : MReg)
  /-- VEXTR (R213). Extracts one lane into a scalar register. -/
  | vextr (ty : VTy) (rd : Reg) (vs1 : VReg) (rs2 : Reg)
  /-- VINS (R213). Inserts a scalar into one lane. -/
  | vins (ty : VTy) (vd : VReg) (rs1 rs2 : Reg)
  /-- VLD (R215). Loads 128 bytes as 16 words under a mask; a split load when remote. -/
  | vld (aw : BitVec 2) (vd : VReg) (rs1 : Reg) (m : MReg)
  /-- VST (R215). Stores 128 bytes as 16 words under a mask; remote words are posted. -/
  | vst (aw : BitVec 2) (vs3 : VReg) (rs1 : Reg) (m : MReg)
  /-- VLDX (R216). Gathers lanes from base plus per-lane offsets. -/
  | vldx (dw : Bool) (aw : BitVec 2) (vd : VReg) (rs1 : Reg) (vs2 : VReg) (m : MReg)
  /-- VSTX (R216). Scatters lanes to base plus per-lane offsets in ascending lane order. -/
  | vstx (dw : Bool) (aw : BitVec 2) (vs3 : VReg) (rs1 : Reg) (vs2 : VReg) (m : MReg)
  /-- VPERM (R214). Permutes lanes by indices in vs2. -/
  | vperm (ty : VTy) (vd vs1 vs2 : VReg) (m : MReg)
  /-- VQUANT (R219). Quantises float lanes into blocks of the fmt element format with E8M0 scales. -/
  | vquant (ty : VTy) (vd vs1 : VReg) (m : MReg)
  /-- VDEQ (R220). Dequantises packed blocks into float lanes. -/
  | vdeq (ty : VTy) (vd vs1 : VReg) (m : MReg)
  /-- VNPUT (R200). Sends a vector register over a neighbour link to a position on the adjacent core. -/
  | vnput (dir : Dir) (pos : BitVec 3) (vt vs1 : VReg)
  /-- VSQRT (R207). Correctly rounded square root of lanes. -/
  | vsqrt (ty : VTy) (vd vs1 : VReg) (m : MReg)
  /-- VRSQRT (R207). Correctly rounded reciprocal square root of lanes. -/
  | vrsqrt (ty : VTy) (vd vs1 : VReg) (m : MReg)
  /-- VEXP2 (R207). Correctly rounded 2 to the power of each lane. -/
  | vexp2 (ty : VTy) (vd vs1 : VReg) (m : MReg)
  /-- VLOG2 (R207). Correctly rounded base-2 logarithm of lanes. -/
  | vlog2 (ty : VTy) (vd vs1 : VReg) (m : MReg)
  /-- VABS (R207). Absolute value of lanes. -/
  | vabs (ty : VTy) (vd vs1 : VReg) (m : MReg)
  /-- VNEG (R207). Negation of lanes. -/
  | vneg (ty : VTy) (vd vs1 : VReg) (m : MReg)
  /-- VQAPP (R222). Appends a 32-column f32 token to a partial block record, raising column scales as needed. -/
  | vqapp (vs : VReg) (rs1 : Reg) (m : MReg)
  /-- VMOVA (R223). Reads an accumulator tile row into a vector register through the matrix queue. -/
  | vmova (ty : VTy) (vd : VReg) (acc : Tile) (rs1 : Reg)
  /-- VMOVAW (R224). Writes a vector register into an accumulator tile row through the matrix queue. -/
  | vmovaw (ty : VTy) (acc : Tile) (rs1 : Reg) (vs : VReg)
  /-- VSCALE (R208). Multiplies lanes by 2 to the integer power held in vd. -/
  | vscale (ty : VTy) (vd vs1 : VReg) (m : MReg)
  /-- MMA (R236). Pushes a plane-form matrix multiply that accumulates into a tile. -/
  | mma (c : TileCmd)
  /-- MMAZ (R236). Pushes a plane-form matrix multiply that starts the tile from zero. -/
  | mmaz (c : TileCmd)
  /-- MACCST (R237). Pushes a store of an accumulator tile in an output format. -/
  | maccst (c : TileCmd)
  /-- MACCLD (R238). Pushes a load of an A96 tile image into an accumulator tile. -/
  | maccld (c : TileCmd)
  /-- MPACK (R239). Pushes a pack of a row tile into a plane tile with block exponents. -/
  | mpack (c : TileCmd)
  /-- MXPOSE (R240). Pushes a transpose of a 32 x 32 tile. -/
  | mxpose (c : TileCmd)
  /-- MZERO (R241). Pushes a clear of an accumulator tile to canonical zero. -/
  | mzero (c : TileCmd)
  /-- UNASSIGNED_ENCODING (R58). A fetched word whose opcode, sub-code or type is unassigned, or whose bits [1:0] are not 0b11, traps ILLEGAL precisely. -/
  | unassignedEncoding (word : BitVec 32)
  /-- TILE_COMMAND_EXECUTION (R233). The command at the head of the matrix queue executes on the array and frees its place. -/
  | tileCommandExecution
  /-- TILE_COMMAND_COMPLETION (R234). The unit adds the command's counts to mcnt and fills xd with the completion word. -/
  | tileCommandCompletion
  /-- VECTOR_COMPLETION (R202). A multi-rotation vector instruction completes, filling its destination and updating vflags and mcnt. -/
  | vectorCompletion
  /-- REGISTER_WRITE (R51). A write to a CSR or device register that has no row of its own. -/
  | registerWrite (host : Bool) (reg : BitVec 16) (v : BitVec 64)
  /-- KMCFG_WRITE (R76). A write to kmcfg validates the slot configuration and sets every map entry FREE, waking KLOOKW waiters. -/
  | kmcfgWrite (v : BitVec 64)
  /-- XEMPTY_WRITE (R54). A write to xempty empties the named scalar registers, letting held fills land. -/
  | xemptyWrite (v : BitVec 64)
  /-- VEMPTY_WRITE (R54). A write to vempty empties the named vector and mask registers, letting held fills land. -/
  | vemptyWrite (v : BitVec 64)
  /-- CHTAB_WRITE (R255). A write to chtab loads the channel table into the scheduler and clears BLOCKED. -/
  | chtabWrite (v : BitVec 64)
  /-- CTXBASE_WRITE (R262). A write to ctxbase moves the context-record area and re-enables eviction of contexts whose save failed. -/
  | ctxbaseWrite (v : BitVec 64)
  /-- GVTPER_WRITE (R253). A write to gvtper sets the GVT period, trapping ILLEGAL outside 2-64. -/
  | gvtperWrite (v : BitVec 64)
  /-- DEQBASE_WRITE (R253). A write to deqbase sets the deque capacity, trapping outside 1-256. -/
  | deqbaseWrite (v : BitVec 64)
  /-- INBASE_WRITE (R253). A write to inbase sets the inbox capacity, trapping outside 1-256. -/
  | inbaseWrite (v : BitVec 64)
  /-- SAMPCFG_WRITE (R350). A write to sampcfg loads the observation control block, fencing and releasing rectangles on VCN 0. -/
  | sampcfgWrite (v : BitVec 64)
  /-- NVME_BINDING_WRITE (R44). A supervisor write of an NVMe binding entry with V = 1 makes the I/O die set LBS and CAP, or clear V if the namespace is absent. -/
  | nvmeBindingWrite (port : BitVec 2) (v : BitVec 64)
  /-- LAUNCH_CONFIG_WRITE (R279). A store to kick register +0x08 sets EN, TEN and LSZ and clears OVR or LFLT, or is ignored for LSZ 17-31. -/
  | launchConfigWrite (hart : BitVec 2) (v : BitVec 64)
  /-- TAIL_STORE (R279). A store of TAIL appends or withdraws launch records, or is ignored and sets OVR. -/
  | tailStore (hart : BitVec 2) (v : BitVec 64)
  /-- LAUNCH_RECORD_READ (R279). The launch hart reads a ring record into its pending store and advances HEAD. -/
  | launchRecordRead (hart : BitVec 2)
  /-- LAUNCH (R281). The launch hart serves a pending launch record: checks it, writes images and delivers unit records, then writes the mailbox status. -/
  | launch (hart : BitVec 2)
  /-- LAUNCH_DELIVERY (R281). A waiting unit delivery is accepted at its core once the core tenant or inbox allows. -/
  | launchDelivery (hart : BitVec 2) (n : Nat)
  /-- DOMAIN_LAUNCH_SHARE (R338). A peer launch hart accepts or refuses its share of a domain-wide launch. -/
  | domainLaunchShare (n : Nat)
  /-- HWAKE_WRITE (R343). The host writes HWAKE to arm or disarm the wake that holds off DEADLOCK. -/
  | hwakeWrite (v : BitVec 64)
  /-- HWAKE_EXPIRY (R343). ARM clears itself in the first tick in which cycle reaches UNTIL. -/
  | hwakeExpiry
  /-- CXLBASE_WRITE (R344). A write of CXLBASE moves the CXL window for later accesses. -/
  | cxlbaseWrite (v : BitVec 64)
  /-- CXLSIZE_WRITE (R344). A write of CXLSIZE resizes the CXL window for later accesses. -/
  | cxlsizeWrite (v : BitVec 64)
  /-- HOST_READ (R341). A host read through BAR2 is translated under tenant 0 needing PR, completing with Completer Abort if refused. -/
  | hostRead (off : BitVec 64)
  /-- HOST_WRITE (R341). A host write through BAR2 is translated needing PW and performed in arrival order, or dropped and logged. -/
  | hostWrite (off v : BitVec 64)
  /-- ATTEST (R373). Management command returning a signed attestation report for a nonce. -/
  | attest
  /-- TENKEY (R372). Management command installing a wrapped tenant key, making the tenant confidential. -/
  | tenkey
  /-- TENCLR (R373). Management command removing a tenant's key. -/
  | tenclr
  /-- LOGHEAD (R373). Management command writing a new signed log head record. -/
  | loghead
  /-- RESET (R373). Management command causing a cold reset. -/
  | reset
  /-- IDENTITY (R371). Management command returning public keys and the certificate chain. -/
  | identity
  /-- UPDATE (R373). Management command verifying a staged image and writing it to flash for the next reset. -/
  | update
  /-- HOME_SERVICE (R131). A remote access reaches its home and is performed there, or joins the word's waiting list. -/
  | homeService (n : Nat)
  /-- STEAL_SERVICE (R273). A DQSTEAL reaches the victim's deque port and takes the top record or reports EMPTY or REFUSED. -/
  | stealService (n : Nat)
  /-- REPLY_LANDS (R96). A reply to a remote reply-bearing access lands and fills its destination registers. -/
  | replyLands (n : Nat)
  /-- ACKNOWLEDGEMENT_LANDS (R97). A home's acknowledgement of a posted store lands and frees its journal entry. -/
  | acknowledgementLands (n : Nat)
  /-- POSTED_STORE_REFUSED (R99). A NACK to a posted store marks its journal entry refused and raises a pending POSTREFUSE. -/
  | postedStoreRefused (n : Nat)
  /-- ASYNCHRONOUS_TRAP (R311). A pending asynchronous trap such as POSTREFUSE is taken at the next task-level instruction boundary. -/
  | asynchronousTrap
  /-- SPLIT_LOAD_WORD_LANDS (R134). A word of a split load lands; the destination fills when the last word has landed. -/
  | splitLoadWordLands (n : Nat)
  /-- PAGE_WALK (R30). A TLB miss is served by a walker reading the tenant descriptor and each level, caching a valid leaf or faulting. -/
  | pageWalk (cl : Nat) (ten : BitVec 8) (va : BitVec 72) (drop : Nat)
  /-- EXTERNAL_FILL_ARRIVAL (R48). A TRET, FILLREG or forwarded fill arrives for a context and lands or is held. -/
  | externalFillArrival (n : Nat)
  /-- NEIGHBOUR_FILL_ARRIVAL (R199). An NPUT or VNPUT fill reaches the target core and is bound, landed, held or discarded. -/
  | neighbourFillArrival (n : Nat)
  /-- KLOOKW_WAKE (R82). A parked KLOOKW re-tests at its position's turn after its key's entry changes and takes effect or parks again. -/
  | klookwWake
  /-- RECORD_ARRIVAL (R265). A task record arrives at its target core and is refused, delivered to RECV, placed in the inbox or bounced. -/
  | recordArrival (n : Nat)
  /-- ROLLBACK_END (R295). The rollback finishes, places the straggler in the inbox and leaves ROLLBACK state. -/
  | rollbackEnd (ch : BitVec 6)
  /-- ANTI_MESSAGE_ARRIVAL (R297). An anti-message arrives and annihilates its twin, rolls back, or waits in the inbox. -/
  | antiMessageArrival (n : Nat)
  /-- ORDERED_RESEND (R300). A bounced ordered record is sent again 256 ticks after the bounce. -/
  | orderedResend (n : Nat)
  /-- DISPATCH_CHOICE (R259). In an empty position's turn the scheduler chooses the run-queue head or a channel head by effective priority. -/
  | dispatchChoice
  /-- EVICTION (R262). The scheduler saves the longest-parked evictable context to its record and registers its wait. -/
  | eviction
  /-- WAIT_END (R262). The event an evicted context awaits happens and the context joins the run-queue tail. -/
  | waitEnd (cid : Nat)
  /-- EBUDGET_REFILL (R242). Every 1,400 ticks each resident context's ebudget is reset to REFILL. -/
  | ebudgetRefill
  /-- SLEEPT_EXPIRY (R316). cycle reaches a sleeping thread's deadline and SLEEPT retires. -/
  | sleeptExpiry
  /-- WAITP_PROMISE_EXPIRY (R129). A waiting WAITP's promise passes and its completion check is made. -/
  | waitpPromiseExpiry
  /-- DEADLOCK (R283). The device traps DEADLOCK when every core is all-parked, the network and engines are idle, and no wake or timer is pending. -/
  | deadlock
  /-- GVT_ROUND_START (R298). Every PER µs the root broadcasts START and each core switches its send colour. -/
  | gvtRoundStart
  /-- GVT_PASS (R299). The tree collects each core's minimum key and received count; the round closes when received equals sent. -/
  | gvtPass
  /-- JUBILEE (R301). In the tick after a publication each core commits its ordered tasks below the GVT key, performing deferred effects in key order. -/
  | jubilee
  /-- COPY (R118). The copy hart runs a strided row copy from source to destination. -/
  | copy (hart k : Nat)
  /-- DEAL (R93). The copy hart deals source blocks block-cyclically to many cores' local storage. -/
  | deal (hart k : Nat)
  /-- GATHER (R118). The copy hart copies rows selected by an index list. -/
  | gather (hart k : Nat)
  /-- POOL (R119). The copy hart computes weighted pooled rows of a versioned table in fixed order. -/
  | pool (hart : Nat)
  /-- MIGRATE (R120). The copy hart moves a page between tiers with MIG set, then switches the leaf by CAS and invalidates. -/
  | migrate (hart : Nat)
  /-- FILLREG (R121). The copy hart fills registers of a context as external fills. -/
  | fillreg (hart : Nat)
  /-- FILL (R118). The copy hart writes a repeated byte pattern over a range. -/
  | fill (hart k : Nat)
  /-- VIEWREG (R179). The copy hart installs a registration image in the view table and the view hart registers or deregisters the view. -/
  | viewreg (hart : Nat)
  /-- VIEW_BLOCK_BUILD (R182). The view hart builds a pending view block into the spare buffer and publishes its header. -/
  | viewBlockBuild (hart : Nat)
  /-- SAMPLE (R364). The sampling count expires and marks the next fetched instruction for a trace record. -/
  | sample
  /-- ALMANAC_SNAPSHOT (R363). Every 1,400·2^K ticks routers latch their counters and the I/O die writes a snapshot slot. -/
  | almanacSnapshot
  /-- LOG_HEAD_RECORD (R362). After 2^32 ticks with new entries the security controller writes a signed head record and signals MSI-X. -/
  | logHeadRecord
  /-- SOFT_ERROR_CORRECTED (R361). A corrected SRAM or DRAM error is appended to the corrected-error log. -/
  | softErrorCorrected (kind sub : BitVec 8) (addr syn : BitVec 64)
  /-- UNCORRECTABLE_SOFT_ERROR (R361). An uncorrectable error poisons the data and is logged. -/
  | uncorrectableSoftError (loc : Nat) (addr : BitVec 64)
  /-- MEMBERSHIP_CHANGE (R335). A device's membership bit clears or sets; outstanding requests to a down device are answered with NACK 6. -/
  | membershipChange (peer : Nat) (up : Bool)
  /-- LANE_RETRAIN (R376). A Feltum lane needing retraining takes its port out of service and flits deflect. -/
  | laneRetrain (port : Nat)
  /-- DROOP (R374). A detected droop makes the cluster withhold whole rotations until voltage recovers. -/
  | droop (cl : Nat)
  /-- POWER_CAP (R374). Package power above PCAP makes the controller withhold rotations on every cluster. -/
  | powerCap
  /-- THERMAL_LIMIT (R375). At the junction-temperature limit rotations are withheld device-wide. -/
  | thermalLimit
  /-- THERMAL_TRIP (R375). At the trip temperature the event is logged and a cold reset follows. -/
  | thermalTrip
  /-- POWER_ON (R367). Power-on causes a cold reset. -/
  | powerOn
  /-- PERST (R367). PCIe fundamental reset causes a cold reset. -/
  | perst
  /-- VOLTAGE_RECOVERS (R374). The cluster's voltage recovers after a droop and the cluster stops withholding rotations. -/
  | voltageRecovers (cl : Nat)
  /-- POWER_BELOW_PCAP (R374). Measured package power falls below PCAP and the controller stops withholding rotations. -/
  | powerBelowPcap
  /-- FULL_RETRAINING_DONE (R376). A Feltum lane's full retraining completes and its port returns to service. -/
  | fullRetrainingDone (port : Nat)
deriving DecidableEq, Repr, Inhabited

end Sys2Proof
end

