-- ==== Sys2Proof/Config.lean ====
section
/-! DEFINITION. What the manual leaves open and a machine fixes: who moves next, the bytes of host memory, and the outcomes of
the cryptographic functions whose keys and images the manual does not print. No definition here has a body: nothing in Lean
can evaluate one (DESIGN CHOICE, log entries 2, 6, 7, 18, 19). -/

namespace Sys2Proof

/-- One move of the machine (DESIGN CHOICE, log entry 2): `dt` ticks of device `dev` pass, and then either a row of the table of events
happens at core `vcn`, or, with none, that core's barrel position of the tick has its turn (R17). -/
structure Move where
  /-- The device that moves. -/
  dev : Nat
  /-- The core concerned. -/
  vcn : Nat
  /-- Ticks of the device's `cycle` that pass first. -/
  dt : Nat
  /-- The event, or none for a turn. -/
  event : Option Instr
  /-- Checker or residue mismatches that the move meets (R351, R352): 1 is repaired by a repetition, 2 fails the part. -/
  mismatches : Nat
  /-- Words after the fetched one that the fetch unit fetches ahead for the thread (R194). -/
  ahead : Nat
  /-- The pieces of an engine's or unit's work that the event does: empty for all that is left of it. -/
  part : List Nat
deriving DecidableEq, Repr, Inhabited

/-- The n-th move where the agenda names none: the order of steps is not fixed (R132, R332; DESIGN CHOICE, log entry 2). -/
opaque Config.freeMove : Nat → Move

/-- The n-th free doubleword (DESIGN CHOICE, log entry 18): LFSR draws, counts of routes, what power and training measure. -/
opaque Config.freeWord : Nat → Word

/-- The code of a finite token that VQAPP appends to a column whose scale byte is NaN, from the format and the token's f32 bits (R170;
DESIGN CHOICE, log entry 23). -/
opaque Config.unscaled : Nat → Nat → Nat

/-- The byte that host memory holds at a CXL-tier place nothing has written (R344; DESIGN CHOICE, log entry 7). -/
opaque Config.hostByte : Nat → Byte

/-- Whether an ECDSA P-384 signature over a digest verifies under an Oxhorn root key (R369; DESIGN CHOICE, log entry 6). -/
opaque Config.ecdsaVerifies : List Byte → List Byte → Bool

/-- Whether an LMS signature over a digest verifies under an Oxhorn root key (R369; DESIGN CHOICE, log entry 6). -/
opaque Config.lmsVerifies : List Byte → List Byte → Bool

/-- The ECDSA P-384 signature of a device's security controller over a message, 96 bytes (R362, R371; DESIGN CHOICE, log entry 6). -/
opaque Config.ecdsaSign : Nat → List Byte → Vector Byte 96

/-- The LMS signature of a device's controller over a message, 1,020 bytes: which of its LMS keys, which leaf (R362, R371; DESIGN
CHOICE, log entry 6). -/
opaque Config.lmsSign : Nat → Nat → Nat → List Byte → Vector Byte 1020

/-- The public LMS key of a device's controller, by its number (R371; DESIGN CHOICE, log entry 6). -/
opaque Config.lmsPublic : Nat → Nat → List Byte

/-- The public ECDSA and ECDH keys of a device's controller, and Oxhorn's certificate of its first keys (R371; DESIGN CHOICE, log entry 6). -/
opaque Config.certified : Nat → List Byte

/-- The 256-bit tenant key inside a key wrapped to a device's ECDH key, or none when it does not unwrap there (R372; DESIGN CHOICE, log
entry 6). -/
opaque Config.unwrapKey : Nat → List Byte → Option (Vector Byte 32)

/-- What the drive of a root port reports of a namespace: log2 of its block size, and its bytes (R44; DESIGN CHOICE, log entry 19). -/
opaque Config.nvmeNamespace : Nat → Nat → Option (Nat × Nat)

/-- A byte on the drive of a root port that no MIGRATE has written (R44; DESIGN CHOICE, log entry 19). -/
opaque Config.driveByte : Nat → Byte

/-- What the signed configuration image supplies beside its SECVER (R370). -/
structure BootCfg where
  /-- TRIM: voltage, droop detectors and SRAM timing of each cluster. -/
  trim : List Word
  /-- REMAP: for each cluster the physical core of each virtual index (R15). -/
  remap : List (List Nat)
  /-- DOMAIN: the own device number (R333). -/
  num : Nat
  /-- DOMAIN: the extents (R333). -/
  ex : Nat
  ey : Nat
  ez : Nat
  /-- BAR2 base and size (R341). -/
  bar2Base : Nat
  bar2Size : Nat
  /-- Log region: HBM offset and size (R359). -/
  logBase : Nat
  logSize : Nat
  /-- Tenant descriptor 0. -/
  ten0 : Word
  /-- The boot context's entry and tvec. -/
  bootPC : Word
  bootVec : Word
  /-- PCAP, in watts. -/
  pcap : Nat
  /-- The VA of the image's copy that a0 receives. -/
  imgVA : Word
  /-- BOOTIMG: HBM offset and bytes of each segment. -/
  segs : List (Nat × List Byte)
deriving DecidableEq, Repr, Inhabited

/-- SECVER, which the signed body of an image supplies (R369, R370; DESIGN CHOICE, log entry 4). -/
opaque Config.secver : List Byte → Nat

/-- What the body of a configuration image supplies (R370; DESIGN CHOICE, log entry 4). -/
opaque Config.bootCfg : List Byte → BootCfg

/-- The layout of the report that ATTEST returns, from the parts it holds (R373; DESIGN CHOICE, log entry 6). -/
opaque Config.report : List (List Byte) → List Byte

end Sys2Proof
end

