-- ==== Sys2Proof/Machine/Aes.lean ====
section
/-! DEFINITION. AES-256 (FIPS 197) and its Galois/counter mode (NIST SP 800-38D), under which a confidential tenant's trace records are
sealed (R365). Bytes are naturals below 256. -/

namespace Sys2Proof.Machine

/-! ## Bytes as elements of GF(2^8) -/

/-- Twice an element. -/
def gfDouble (a : Nat) : Nat := if a < 128 then 2 * a else (2 * a) ^^^ 0x11B

/-- The product of two elements. -/
def gfMul (a b : Nat) : Nat :=
  ((List.range 8).foldl (fun (p : Nat × Nat) k => (if b.testBit k then p.1 ^^^ p.2 else p.1, gfDouble p.2)) (0, a)).1

/-- The inverse of an element, its 254th power; 0 of 0. -/
def gfInv (a : Nat) : Nat := (List.range 7).foldl (fun r _ => let s := gfMul r a; gfMul s s) 1

/-- A byte turned left by k bits. -/
def turnByte (a k : Nat) : Nat := (a * 2 ^ k + a / 2 ^ (8 - k)) % 256

/-- The S-box. -/
def aesSub (a : Nat) : Nat :=
  let i := gfInv a
  i ^^^ turnByte i 1 ^^^ turnByte i 2 ^^^ turnByte i 3 ^^^ turnByte i 4 ^^^ 0x63

/-- Exclusive or, byte by byte. -/
def xorBytes (a b : List Nat) : List Nat := a.zipWith (· ^^^ ·) b

/-! ## The block cipher -/

/-- The next word of the key schedule, from the words so far, last first. -/
def aesNextWord (w : List (List Nat)) : List Nat :=
  let i := w.length
  let t := w.headD []
  let t := if i % 8 = 0 then
      xorBytes ((t.drop 1 ++ t.take 1).map aesSub) [(List.range (i / 8 - 1)).foldl (fun a _ => gfDouble a) 1, 0, 0, 0]
    else if i % 8 = 4 then t.map aesSub else t
  xorBytes (w.getD 7 []) t

/-- The 60 words of the schedule of a 32-byte key, as 15 round keys. -/
def aesKeys (key : List Nat) : List (List Nat) :=
  let first := ((List.range 8).map fun k => (key.drop (4 * k)).take 4).reverse
  let all := ((List.range 52).foldl (fun w _ => aesNextWord w :: w) first).reverse
  (List.range 15).map fun r => ((all.drop (4 * r)).take 4).flatten

/-- ShiftRows on sixteen bytes in columns. -/
def aesShift (b : List Nat) : List Nat := (List.range 16).map fun n => b.getD ((n + 4 * (n % 4)) % 16) 0

/-- MixColumns. -/
def aesMix (b : List Nat) : List Nat :=
  (List.range 16).map fun n =>
    let at_ := fun (k : Nat) => b.getD (n / 4 * 4 + (n + k) % 4) 0
    gfDouble (at_ 0) ^^^ (gfDouble (at_ 1) ^^^ at_ 1) ^^^ at_ 2 ^^^ at_ 3

/-- A block of sixteen bytes under a schedule. -/
def aesBlock (keys : List (List Nat)) (b : List Nat) : List Nat :=
  let start := xorBytes b (keys.headD [])
  (List.range 14).foldl (fun s r =>
    let t := aesShift (s.map aesSub)
    xorBytes (if r = 13 then t else aesMix t) (keys.getD (r + 1) [])) start

/-! ## Galois/counter mode -/

/-- Bytes as a number, the first highest. -/
def bytesBE (b : List Nat) : Nat := b.foldl (fun a x => a * 256 + x) 0

/-- A number as sixteen bytes, the highest first. -/
def blockBE (n : Nat) : List Nat := (List.range 16).map fun k => n / 256 ^ (15 - k) % 256

/-- The product of two blocks. -/
def ghashMul (x y : Nat) : Nat :=
  ((List.range 128).foldl (fun (p : Nat × Nat) k =>
    (if x.testBit (127 - k) then p.1 ^^^ p.2 else p.1, if p.2 % 2 = 1 then p.2 / 2 ^^^ 0xE1 * 2 ^ 120 else p.2 / 2)) (0, y)).1

/-- Blocks of sixteen bytes, the last filled with zeros. -/
def blocksOf : Nat → List Nat → List (List Nat)
  | 0, _ => []
  | n + 1, l => if l = [] then [] else (l.take 16 ++ List.replicate (16 - l.length) 0) :: blocksOf n (l.drop 16)

/-- Ciphertext and tag of a text under a 32-byte key, a 12-byte IV and associated data. -/
def aesGcm (key iv aad text : List Nat) : List Nat :=
  let keys := aesKeys key
  let h := bytesBE (aesBlock keys (List.replicate 16 0))
  let ctr := fun (k : Nat) => iv ++ [k / 2 ^ 24 % 256, k / 2 ^ 16 % 256, k / 2 ^ 8 % 256, k % 256]
  let blocks := blocksOf text.length text
  let c := ((List.range blocks.length).flatMap fun k => xorBytes (blocks.getD k []) (aesBlock keys (ctr (k + 2)))).take text.length
  let lens := blockBE (8 * aad.length * 2 ^ 64 + 8 * c.length)
  let s := (blocksOf aad.length aad ++ blocksOf c.length c ++ [lens]).foldl (fun a b => ghashMul (a ^^^ bytesBE b) h) 0
  c ++ xorBytes (blockBE s) (aesBlock keys (ctr 1))

/-- The same on bytes. -/
def aesSeal (key iv aad text : List Byte) : List Byte :=
  (aesGcm (key.map (·.toNat)) (iv.map (·.toNat)) (aad.map (·.toNat)) (text.map (·.toNat))).map (BitVec.ofNat 8)

end Sys2Proof.Machine
end

