-- ==== Sys2Proof/Machine/State.lean ====
section
/-! DEFINITION. The state of a Yeltus Y1 domain as plain data, and the machine right after reset (R367). Numbers of things
(devices, VCNs, CIDs, places in memory) are naturals; register contents are bit vectors. A table is a list of pairs in rising
order of key; an absent key has the value after reset. -/

namespace Sys2Proof.Machine

/-! ## Tables -/

/-- A list of pairs in rising order of key. -/
abbrev Table (α : Type) := List (Nat × α)

/-- The value at key k, if listed. -/
def Table.find {α : Type} : Table α → Nat → Option α
  | [], _ => none
  | (j, a) :: t, k => if k < j then none else if j = k then some a else Table.find t k

/-- Set the value at key k. -/
def Table.set {α : Type} : Table α → Nat → α → Table α
  | [], k, a => [(k, a)]
  | (j, b) :: t, k, a => if k < j then (k, a) :: (j, b) :: t else if j = k then (k, a) :: t else (j, b) :: Table.set t k a

/-- Remove key k. -/
def Table.erase {α : Type} : Table α → Nat → Table α
  | [], _ => []
  | (j, b) :: t, k => if j = k then t else (j, b) :: Table.erase t k

/-! ## Accesses, messages and waits -/

/-- The operations of AMO and RED (R106, R107). -/
inductive AmoOp where
  | add | and | or | xor | min | max | minu | maxu | swap | cas | cas2
deriving DecidableEq, Repr, Inhabited

/-- An access as its home performs it, in one service step (R131). -/
inductive Acc where
  /-- An ordinary read of n bytes, sign-extended or not (R100, R102). -/
  | load (n : Nat) (sgn : Bool)
  /-- LDFF (R103). -/
  | ldff
  /-- LDFE (R103). -/
  | ldfe
  /-- LDV that needs a version (R111). -/
  | ldv (need : BitVec 40)
  /-- FESTAT (R105). -/
  | festat
  /-- An ordinary write of n bytes (R100, R102). -/
  | store (n : Nat) (d : Word)
  /-- STFF (R103). -/
  | stff (d : Word)
  /-- STEF (R103). -/
  | stef (d : Word)
  /-- FEMARK (R103). -/
  | femark (b : Bool)
  /-- AMO with the registers of its group (R106). -/
  | amo (op : AmoOp) (a b c d : Word)
  /-- RED (R107). -/
  | red (op : AmoOp) (a : Word)
  /-- The conditional decrement of JOIN (R275). -/
  | join
  /-- BARREG that sets COUNT (R277). -/
  | barset (sc : BitVec 3) (count : BitVec 23)
  /-- An arrival at a barrier (R278). -/
  | bararv (faulted : Bool)
  /-- A wait for the end of a phase (R278). -/
  | barwait (ph : BitVec 13)
  /-- BARDROP (R278). -/
  | bardrop
  /-- A SCRUB write (R326). -/
  | scrub
deriving DecidableEq, Repr, Inhabited

/-- Who issued an access or a message. -/
structure Issuer where
  /-- Device. -/
  dev : Nat
  /-- VCN of the core it left. -/
  vcn : Nat
  /-- CID of the context. -/
  cid : Nat
  /-- The context was at supervisor level. -/
  sup : Bool
  /-- The context's tenant. -/
  tenant : Nat
deriving DecidableEq, Repr, Inhabited

/-- The answer to a reply-bearing access. -/
inductive Ans where
  /-- Values for the destination. -/
  | vals (l : List Word)
  /-- A NACK with its subcode (R336). -/
  | nack (n : Nat)
  /-- A trap that the served access finds: cause, tval, subcode, view fault code, VAHI (R111, R113, R117, R129). -/
  | trap (cause : Nat) (tval : Word) (sub : Nat) (fcode : Nat) (vahi : Byte)
deriving DecidableEq, Repr, Inhabited

/-- What the landing of an answer does beside retiring the instruction. -/
inductive Fin where
  /-- Nothing. -/
  | none
  /-- Fill one register. -/
  | reg (rd : Reg)
  /-- Fill an even pair (CAS2). -/
  | pair (rd : Reg)
  /-- Fill rd with a view header and, with a second value 1, set vstale (R111). -/
  | ldv (rd : Reg)
  /-- Write a stolen record to a record offset and fill rd with the code (R272). -/
  | steal (rd : Reg) (off : Nat)
  /-- Fill rd from the old value of a join cell, or end the task (R275). -/
  | join (rd : Reg)
  /-- Set the arrival record (R278). -/
  | arrive (va : VA)
  /-- Fill rd with DONE, FAULTED or LAPPED and clear the arrival record (R278). -/
  | barwait (rd : Reg)
  /-- Fill rd with a combiner's index (R277); `old` is what the combiner bound before, for a refusal. -/
  | bind (rd : Reg) (idx : Nat) (old : Option (VA × BitVec 3))
deriving DecidableEq, Repr, Inhabited

/-- Where the answer of an access goes. -/
inductive Route where
  /-- To the thread parked on its reply. -/
  | reply
  /-- To an entry of the issuing core's posted-store journal (R97). -/
  | journal (idx : Nat)
  /-- To byte `pos` of the destination of the thread's split load, n bytes (R134); the flit of a 64-byte line goes with the word that is
  marked (R337). -/
  | split (pos n : Nat) (flit : Bool)
  /-- To the copy hart that issued it: the write of byte `off` of its command in unit order (R118, R123); the flit of 64 bytes goes with
  the write that is marked (R337). -/
  | copy (off : Nat) (flit : Bool)
  /-- Nowhere: an engine's own access, or one whose issuer has gone. -/
  | nowhere
deriving DecidableEq, Repr, Inhabited

/-- An access on its way to its home, or waiting there. -/
structure Req where
  /-- The issuer. -/
  who : Issuer
  /-- The device that holds the home. -/
  dst : Nat
  /-- The whole VA. -/
  va : VA
  /-- The place, when translated at issue (own device); none when the peer translates (R28). -/
  loc : Option Nat
  /-- Whether the word carries a usable F/E bit (R105). -/
  feOk : Bool
  /-- The access. -/
  acc : Acc
  /-- Where its answer goes. -/
  route : Route
deriving DecidableEq, Repr, Inhabited

/-- A task record, dwords d0 to d7 (R257). -/
structure Rec where
  d0 : Word
  d1 : Word
  d2 : Word
  d3 : Word
  d4 : Word
  d5 : Word
  d6 : Word
  d7 : Word
deriving DecidableEq, Repr, Inhabited

/-- A delivery of a launch that waits for its core (R281). -/
structure Delivery where
  /-- Target core. -/
  vcn : Nat
  /-- The unit record. -/
  record : Rec
  /-- Its position binding. -/
  binding : Option (BitVec 3)
deriving DecidableEq, Repr, Inhabited

/-- How a record was sent, which decides how it is answered (R264, R265, R281, R301). -/
inductive SendKind where
  /-- TSEND, a FORKR part or a deferred send, with its journal entry. -/
  | tsend (idx : Nat)
  /-- TCALL, with its journal entry. -/
  | tcall (idx : Nat)
  /-- TSENDS: the sender waits for the answer. -/
  | tsends
  /-- An anti-message (R296). -/
  | anti
  /-- A record of FORKR, with its journal entry (R274). -/
  | fork (idx : Nat)
deriving DecidableEq, Repr, Inhabited

/-- A record on its way to its target core. -/
structure RecMsg where
  /-- The sender. -/
  who : Issuer
  /-- Target device. -/
  dst : Nat
  /-- Target VCN; 0x1FFF for an idle core (R265). -/
  vcn : Nat
  /-- The record. -/
  record : Rec
  /-- How it was sent. -/
  kind : SendKind
  /-- The sender is an ordered task (R286). -/
  ordSender : Bool
  /-- The sender counted it as an ordered record (R299). -/
  counted : Bool
deriving DecidableEq, Repr, Inhabited

/-- A request to an engine of the own device that a thread waits on. -/
inductive EngOp where
  /-- CPYQ: the copy hart's VCN, the place and the VA of the block (R115). -/
  | cpyq (xc : Word) (loc : Nat) (va : VA)
  /-- The completion check of WAITP on an operand (R129). -/
  | waitp (t : Word)
  /-- VCOMMIT: the place of the descriptor and x[xv] (R113). -/
  | vcommit (loc : Nat) (xv : Word)
  /-- VRECLAIM (R114). -/
  | vreclaim (loc : Nat) (xv : Word)
deriving DecidableEq, Repr, Inhabited

/-- A message in flight; messages are delivered in any order (R332). -/
inductive Msg where
  /-- An access to its home. -/
  | req (r : Req)
  /-- A request to an engine. -/
  | eng (who : Issuer) (op : EngOp)
  /-- An answer to an issuer, from the part with core key `src` (R335). -/
  | ans (src : Nat) (who : Issuer) (route : Route) (a : Ans)
  /-- A task record or an anti-message. -/
  | record (r : RecMsg)
  /-- A DQSTEAL to its victim's port (R273). -/
  | steal (who : Issuer) (vcn : Nat)
  /-- A TCANCEL with its handle (R271). -/
  | cancel (who : Issuer) (h : Word)
  /-- An external fill from device `src` to a context, addressed to a core: scalar or vector file, register, value; for TRET, `tret`
  is set (R48, R266). -/
  | fill (src dev vcn cid : Nat) (vec : Bool) (r : Nat) (v : VWord) (tret : Bool)
  /-- A neighbour fill to position `pos` of core `vcn`, over its link from direction `dir`, due at a tick (R199). -/
  | nfill (dev vcn : Nat) (dir : Dir) (pos : Nat) (vec : Bool) (r : Nat) (v : VWord) (tenant tick : Nat)
  /-- A share of a domain-wide launch for launch hart `hart` of device `dst` (R338): number of the launch, tenant, image, unit
  deliveries. -/
  | share (src dst hart job ten : Nat) (img : List Byte) (units : List Delivery)
  /-- The answer of device `src` to a share: units accepted (R338). -/
  | shareAns (src dst hart job : Nat) (moved total : Nat)
deriving DecidableEq, Repr, Inhabited

/-- A condition on which a parked instruction is issued again (R249, R317). -/
inductive WaitOn where
  /-- A scalar register (kind 2). -/
  | reg (r : Reg)
  /-- A vector register (kind 2). -/
  | vreg (r : VReg)
  /-- A mask register (kind 2). -/
  | mreg (r : MReg)
  /-- A key-map lookup (kind 3). -/
  | key (k : Word)
  /-- A tick (kind 4). -/
  | tick (t : Word)
  /-- The promise of a WAITP, modulo 2^48 (kind 4). -/
  | promise (t : Word)
  /-- Ring space of a channel's ring 1 to 3 (kind 6). -/
  | ring (ch n : Nat)
  /-- GVT, for IRREV (kind 6). -/
  | gvt
  /-- Acknowledgements in a scope (kind 7). -/
  | acks (sc : Scope)
  /-- The retiring of a refused store in a scope, before a release of a supervisor-level thread (kind 7, R99). -/
  | refused (sc : Scope)
  /-- A free journal entry (kind 7). -/
  | journal
  /-- An open journal entry for the same word (kind 7, R98). -/
  | matching (dev : Nat) (va : VA)
  /-- An inbox place for a send (kind 7). -/
  | inbox
  /-- A matrix-unit queue place (kind 7). -/
  | queue
  /-- The energy budget (kind 7). -/
  | budget
  /-- The thread's own split load (kind 7, R134). -/
  | split
  /-- Completion of the thread's vector and tile instructions (kind 7). -/
  | drain
  /-- A place on a neighbour link (kind 7, R199). -/
  | link (dir : Dir)
  /-- Unanswered sends of the thread to a core (kind 7, R271). -/
  | sends (dev vcn : Nat)
  /-- The answers of a FORKR's records (kind 5). -/
  | fork
  /-- Position p of the core is not DISPATCHING, and its vector and tile instructions are complete (kind 7, R318, R322). -/
  | pos (p : Nat)
  /-- Completion of the thread's command with w0[28] (kind 7, R232). -/
  | counts
  /-- What the walk for a VA, or a read there, meets at a home that holds it (kind 7, R38, R41). -/
  | held (va : VA)
  /-- The walks of a TLBI's scope that began before its drop (kind 7, R39). -/
  | walks (scope : Nat)
  /-- The F/E bit of a word that a loaded image names as a word at a home (kind 1, R321). -/
  | full (va : VA)
  /-- Nothing: the instruction goes on at the next turn (kind 7). -/
  | other
deriving DecidableEq, Repr, Inhabited

/-- What a parked context waits for. -/
inductive Wait where
  /-- The instruction of these words is issued again when its condition may hold. -/
  | again (on : WaitOn) (words : List (BitVec 32))
  /-- The service of an access that may wait at its home (R104). -/
  | word (va : VA) (fin : Fin)
  /-- A reply (R96). -/
  | reply (va : VA) (fin : Fin)
  /-- A record of a channel, to be written at an offset (R268). -/
  | recv (ch : BitVec 6) (off : Nat) (rd : Reg)
deriving DecidableEq, Repr, Inhabited

/-- A synchronising access in the waiting list of its home, in arrival order (R104). -/
structure Waiter where
  /-- The access, with its place. -/
  req : Req
  /-- A local access: the answer lands at once. -/
  isLocal : Bool
deriving DecidableEq, Repr, Inhabited

/-! ## Contexts -/

/-- A pending asynchronous trap (R311). -/
inductive AsyncTrap where
  /-- POSTREFUSE with its journal entry and subcode (R99). -/
  | postrefuse (core idx sub : Nat)
  /-- A refused split load (R217). -/
  | splitNack (va : VA) (sub : Nat)
deriving DecidableEq, Repr, Inhabited

/-- An external fill held for its register (R48); `link` names the core and direction whose place it takes (R199). -/
structure HeldFill where
  /-- Vector file. -/
  vec : Bool
  /-- Register number. -/
  reg : Nat
  /-- Value. -/
  val : VWord
  /-- The link it holds a place of. -/
  link : Option (Nat × Dir)
  /-- It came while a save or a move of its context was in progress, and lands when that ends (R325). -/
  late : Bool
deriving DecidableEq, Repr, Inhabited

/-- An outstanding split load (R134). -/
structure Split where
  /-- Destination. -/
  vd : VReg
  /-- Bytes landed so far over the old value. -/
  val : VWord
  /-- Words still to land. -/
  left : Nat
  /-- The words it reads, each with its byte position in the register. -/
  vas : List (Nat × VA)
  /-- The refused word of lowest address and its subcode (R217). -/
  bad : Option (VA × Nat)
deriving DecidableEq, Repr, Inhabited

/-- The barrier arrival record (R284). -/
structure Arrival where
  /-- The barrier's VA. -/
  va : VA
  /-- The phase of the arrival. -/
  ph : BitVec 13
deriving DecidableEq, Repr, Inhabited

/-- A FORKR in progress (R274). -/
structure Fork where
  /-- Cores and records still to be sent. -/
  todo : List (Nat × Rec)
  /-- Records sent and not yet answered. -/
  left : Nat
  /-- The value rd receives. -/
  result : Word
deriving DecidableEq, Repr

/-- What a TSEND or TCALL has done before it parked (R6, R264): the SEQ that it took, the continuation register that it emptied and the
continuation that it counted, if any, and the inbox place that it reserved. -/
structure Sending where
  seq : BitVec 39
  creg : Option Reg
  resv : Bool
deriving DecidableEq, Repr

/-- Where a context is (R251, R252, R262, R318). -/
inductive Place where
  /-- The CID names no context. -/
  | free
  /-- In a barrel position. -/
  | resident
  /-- On its core's run queue since a tick. -/
  | runq (since : Nat)
  /-- Evicted and waiting. -/
  | evicted
  /-- Saved by CTXSAVE. -/
  | saved
  /-- Ended with outstanding TCALL continuations (R251). -/
  | ended
deriving DecidableEq, Repr, Inhabited

/-- What has landed for a context that is not resident (R324). -/
inductive Landed where
  /-- Nothing yet. -/
  | no
  /-- The answer stands in the image; the instruction has taken effect. -/
  | written
  /-- An answer to be applied at the resumption. -/
  | ans (a : Ans)
deriving DecidableEq, Repr, Inhabited

/-- A context: the whole state of a thread (R251). -/
structure Ctx where
  /-- The program counter. -/
  pc : Word
  /-- x0 to x31 (R45). -/
  x : Vector Word 32
  /-- v0 to v15 (R46). -/
  v : Vector VWord 16
  /-- m0 to m3 (R46). -/
  m : Vector MWord 4
  /-- F bits of x, 1 full (R47). -/
  xf : BitVec 32
  /-- F bits of v. -/
  vf : BitVec 16
  /-- F bits of m. -/
  mf : BitVec 4
  /-- Registers of x reserved for the thread's own results (R48). -/
  xr : BitVec 32
  /-- Registers of v reserved. -/
  vr : BitVec 16
  /-- Registers of x reserved for the TRET of a TCALL (R48). -/
  xc : BitVec 32
  /-- aw0 to aw3 (R19). -/
  aw : Vector Byte 4
  /-- fmt (R230). -/
  fmt : Word
  /-- sclp (R230). -/
  sclp : Word
  /-- ebudget (R242). -/
  ebudget : Word
  /-- vflags (R53). -/
  vflags : Word
  /-- vstale (R53). -/
  vstale : Word
  /-- mcnt (R243). -/
  mcnt : Word
  /-- mthr (R243). -/
  mthr : Word
  /-- tcause (R309). -/
  tcause : Word
  /-- tval (R309). -/
  tval : Word
  /-- tepc (R309). -/
  tepc : Word
  /-- tstat (R309). -/
  tstat : Word
  /-- tscratch (R309). -/
  tscratch : Word
  /-- vtime (R260). -/
  vtime : Word
  /-- chan (R260). -/
  chan : BitVec 6
  /-- prio (R260). -/
  prio : BitVec 6
  /-- tenant (R29). -/
  tenant : BitVec 8
  /-- Supervisor level. -/
  sup : Bool
  /-- Pending MCOUNT and the lowest crossing counter (R244). -/
  mcp : Option (BitVec 8)
  /-- Barrier arrival record. -/
  arrival : Option Arrival
  /-- Pending asynchronous traps, oldest first (R311). -/
  pend : List AsyncTrap
  /-- Outstanding TCALL continuations (R266). -/
  conts : Nat
  /-- What a parked context waits for. -/
  wait : Option Wait
  /-- The tick at which it parked (R262). -/
  parkedAt : Nat
  /-- Words or lanes that the instruction being issued has already sent: a vector store or a SCRUB waits between them for
  journal entries and for matching stores (R97, R98). -/
  sent : Nat
  /-- The scope of a FENCE with set stores whose condition later stores, AMOs and REDs still have to meet (R109). -/
  storeFence : Option Scope
  /-- What landed while it was not resident. -/
  landed : Landed
  /-- Held external fills, oldest first. -/
  held : List HeldFill
  /-- The outstanding split load. -/
  split : Option Split
  /-- The FORKR being executed. -/
  fork : Option Fork
  /-- The send that waits for a place or for acknowledgements (R264). -/
  sending : Option Sending
  /-- Mismatches that the checker has met in the instruction being executed, over several turns (R353). -/
  mism : Nat
  /-- The record it was dispatched from. -/
  record : Rec
  /-- It was dispatched from an ordered channel (R285). -/
  ordered : Bool
  /-- It is a revocable ordered task (R291). -/
  revocable : Bool
  /-- Position binding (R281). -/
  binding : Option (BitVec 3)
  /-- The tick of the choice that dispatched its task, until its first instruction is fetched (R364). -/
  chosenAt : Option Nat
  /-- The map instruction at the pc has found the key map enabled and waits (R81). -/
  enTested : Bool
  /-- The instruction at the pc is not matched by a breakpoint (R366). -/
  stepOver : Bool
  /-- `stepOver` as it was when the instruction was fetched, for one that stalls and is fetched again. -/
  wasOver : Bool
  /-- Instruction words fetched ahead, by address (R194). -/
  ahead : List (Word × BitVec 32)
  /-- The core that holds the context. -/
  core : Nat
  /-- Its position, when resident. -/
  pos : Nat
  /-- Where it is. -/
  place : Place
  /-- The VA of its image, when it is not resident. -/
  area : VA
  /-- It was dispatched at supervisor level. -/
  supTask : Bool
deriving DecidableEq, Repr

/-- The record with every dword 0. -/
def Rec.zero : Rec := ⟨0, 0, 0, 0, 0, 0, 0, 0⟩

/-- A CID with no context; the values of DESIGN CHOICE, log entry 1. -/
def Ctx.reset : Ctx where
  pc := 0
  x := Vector.replicate 32 0
  v := Vector.replicate 16 0
  m := ⟨#[BitVec.allOnes 128, 0, 0, 0], rfl⟩
  xf := BitVec.allOnes 32
  vf := BitVec.allOnes 16
  mf := BitVec.allOnes 4
  xr := 0
  vr := 0
  xc := 0
  aw := ⟨#[0x00#8, 0x80#8, 0x90#8, 0xA0#8], rfl⟩
  fmt := 0
  sclp := 0
  ebudget := 0
  vflags := 0
  vstale := 0
  mcnt := 0
  mthr := 0
  tcause := 0
  tval := 0
  tepc := 0
  tstat := 0
  tscratch := 0
  vtime := 0
  chan := 0
  prio := 0
  tenant := 0
  sup := false
  mcp := none
  arrival := none
  pend := []
  conts := 0
  wait := none
  parkedAt := 0
  sent := 0
  storeFence := none
  landed := .no
  held := []
  split := none
  fork := none
  sending := none
  mism := 0
  record := Rec.zero
  ordered := false
  revocable := false
  binding := none
  chosenAt := none
  enTested := false
  stepOver := false
  wasOver := false
  ahead := []
  core := 0
  pos := 0
  place := .free
  area := 0
  supTask := false

/-! ## Cores -/

/-- The state of a barrel position (R250). -/
inductive PosState where
  | empty
  /-- Until the tick of its first issue (R260). -/
  | dispatching (until_ : Nat)
  | running
  | parked
deriving DecidableEq, Repr, Inhabited

/-- A barrel position. -/
structure Pos where
  /-- Its state. -/
  st : PosState
  /-- The CID of its context, when not EMPTY. -/
  cid : Nat
deriving DecidableEq, Repr

/-- A position after reset. -/
def Pos.reset : Pos := ⟨.empty, 0⟩

/-- The state of a key-map entry (R77). -/
inductive KState where
  | free | pending | valid
deriving DecidableEq, Repr, Inhabited

/-- A key-map entry (R77). -/
structure KEntry where
  /-- The key; all ones when FREE. -/
  key : Word
  /-- The state. -/
  st : KState
  /-- The pin count. -/
  pin : BitVec 8
deriving DecidableEq, Repr

/-- A FREE entry. -/
def KEntry.free : KEntry := ⟨BitVec.allOnes 64, .free, 0⟩

/-- An A96 value q·2^x (R166). -/
structure A96 where
  /-- The 96-bit two's-complement q. -/
  q : BitVec 96
  /-- The 16-bit two's-complement x. -/
  x : BitVec 16
deriving DecidableEq, Repr

/-- Canonical zero {0, -32768} (R167). -/
def A96.zero : A96 := ⟨0, 0x8000#16⟩

/-- Counts of format events: SAT, NAN, SCALEOVF, FORMAT, REQUANT (R171). -/
structure Counts where
  sat : Nat
  nan : Nat
  ovf : Nat
  fmt : Nat
  req : Nat
deriving DecidableEq, Repr

/-- No events. -/
def Counts.zero : Counts := ⟨0, 0, 0, 0, 0⟩

/-- A pushed tile command with its resolved fields (R229, R231). -/
structure TileJob where
  /-- The pushing context. -/
  cid : Nat
  /-- The op. -/
  op : TileOp
  /-- w0[28]. -/
  ctrap : Bool
  /-- The completion register. -/
  xd : Reg
  /-- The tile. -/
  tile : Tile
  /-- Effective offsets 1 to 4. -/
  o1 : Nat
  o2 : Nat
  o3 : Nat
  o4 : Nat
  /-- KB. -/
  kb : Nat
  /-- Plane counts: pa or P, and pb. -/
  pa : Nat
  pb : Nat
  /-- Output and input formats and the saturate bit. -/
  ofmt : BitVec 4
  ifmt : BitVec 4
  sat : Bool
  /-- Strides in bytes: of the first and the second operand. -/
  s1 : Nat
  s2 : Nat
  /-- The address of w0. -/
  pc : Word
  /-- Journal entries of the pushing thread, by core and index, that were open at the push and are not yet acknowledged; a split load of it
  that was (R140). -/
  stores : List (Nat × Nat)
  split : Bool
  /-- Words of local storage that the command has read, by offset (R140). -/
  got : Table Word
  /-- Once it has computed: pieces of words still to be written, by offset, and its counts (R140). -/
  out : Option (List (Nat × List Byte) × Counts)
  /-- Residue mismatches met so far (R352, R353). -/
  mism : Nat
  /-- The tenant of the pushing context, whose context may end before the command (R372). -/
  tenant : Nat
deriving DecidableEq, Repr

/-- An entry of the matrix unit's queue (R233, R225). -/
inductive MJob where
  /-- A tile command. -/
  | tile (j : TileJob)
  /-- VMOVA (R223). -/
  | mova (cid : Nat) (ty : VTy) (vd : VReg) (tile : Tile) (row : Nat)
  /-- VMOVAW (R224). -/
  | movaw (cid : Nat) (ty : VTy) (tile : Tile) (row : Nat) (vs : VWord)
deriving DecidableEq, Repr

/-- A tile command that has executed and not completed (R234). -/
structure TileDone where
  /-- The pushing context. -/
  cid : Nat
  /-- w0[28]. -/
  ctrap : Bool
  /-- The completion register. -/
  xd : Reg
  /-- The op. -/
  op : TileOp
  /-- STATUS: 0 DONE, 1 POISONED. -/
  status : Nat
  /-- The command's counts. -/
  counts : Counts
deriving DecidableEq, Repr

/-- A multi-rotation vector instruction in the vector unit (R202). -/
inductive VJob where
  /-- A result for vd, with its flags and counts. -/
  | result (cid : Nat) (vd : VReg) (val : VWord) (flags : BitVec 5) (counts : Counts)
  /-- A row of VMOVA on its way to vd, which holds no place of the queue (R223, R225). -/
  | row (cid : Nat) (vd : VReg) (val : VWord) (counts : Counts)
  /-- Counts alone, which hold no place (VMOVAW, R224). -/
  | counts (cid : Nat) (counts : Counts)
  /-- VQAPP: lanes enter as given, at a record offset, in a format (R222). -/
  | vqapp (cid : Nat) (vs : VWord) (off : Nat) (fmt : BitVec 4)
deriving DecidableEq, Repr

/-- An occupied entry of the posted-store journal, with the fields of its image (R314). -/
structure JEntry where
  /-- The NACK subcode of a refused entry. -/
  ref : Option Nat
  /-- The issuing context. -/
  cid : Nat
  /-- The VA; 0 for a send. -/
  va : VA
  /-- The device accessed. -/
  dev : Nat
  /-- The access named a peer. -/
  peer : Bool
  /-- The place on the own device, when known. -/
  loc : Option Nat
  /-- KIND 0 to 7. -/
  kind : Nat
  /-- OP of a RED. -/
  op : Nat
  /-- WIDTH. -/
  width : Nat
  /-- SCOPE of a release. -/
  scope : Nat
  /-- Store or RED data, or the target word. -/
  data : Word
  /-- SEQ of a send. -/
  seq : Nat
  /-- The continuation register of a TCALL (R266). -/
  creg : Nat
  /-- An effect or a send of jubilee (R301): its refusal goes to a trap record. -/
  jubilee : Bool
  /-- The issuing context has ended. -/
  gone : Bool
  /-- A record of FORKR (R274). -/
  fork : Bool
  /-- It was issued at supervisor level. -/
  sup : Bool
deriving DecidableEq, Repr

/-- A record in an inbox, with what the scheduler keeps beside it (R257). -/
structure InRec where
  /-- The record. -/
  record : Rec
  /-- The channel that holds it: CHAN, or 63 for a bounced record (R265). -/
  ch : Nat
  /-- The tenant it carries. -/
  tenant : Nat
  /-- The sender was at supervisor level. -/
  sup : Bool
  /-- Arrival tick. -/
  tick : Nat
  /-- Position binding (R281). -/
  binding : Option (BitVec 3)
  /-- Marked for a bound context that is not resident (R268). -/
  mark : Option Nat
  /-- A trap record (R312). -/
  trap : Bool
deriving DecidableEq, Repr

/-- A dispatched, uncommitted ordered task (R291, R295). -/
structure OTask where
  /-- The record as dispatched. -/
  record : Rec
  /-- Its context, while it runs. -/
  cid : Option Nat
  /-- The tenant of the context. -/
  tenant : Nat
  /-- Supervisor level. -/
  sup : Bool
  /-- Undo position of its START record. -/
  start : Nat
  /-- Output-ring and deferred-ring write positions at dispatch. -/
  outPos : Nat
  defPos : Nat
  /-- Records it has in the three rings. -/
  nUndo : Nat
  nOut : Nat
  nDef : Nat
  /-- Deferred effects that jubilee or IRREV has already performed. -/
  done : Nat
  /-- The lines it has logged. -/
  lines : List Nat
  /-- The arrival data of the record, for its return to the inbox. -/
  sender : Nat × Bool
deriving DecidableEq, Repr

/-- A channel of a core (R255, R256, R287). -/
structure Chan where
  /-- Dwords 0 to 4 of the entry as loaded. -/
  d0 : Word
  d1 : Word
  d2 : Word
  d3 : Word
  d4 : Word
  /-- The entry is enabled. -/
  en : Bool
  /-- BLOCKED. -/
  blocked : Bool
  /-- BOUND to a context parked in RECV. -/
  bound : Option Nat
  /-- ROLLBACK until a tick (R295). -/
  rollback : Option Nat
  /-- The straggler, which is placed when the rollback ends. -/
  straggler : Option InRec
  /-- Records that arrived during the rollback, oldest first. -/
  waiting : List RecMsg
  /-- Write positions of the undo, output and deferred rings. -/
  wu : Nat
  wo : Nat
  wd : Nat
  /-- Dispatched, uncommitted tasks, oldest first. -/
  tasks : List OTask
deriving DecidableEq, Repr

/-- A channel with no entry loaded. -/
def Chan.reset : Chan where
  d0 := 0
  d1 := 0
  d2 := 0
  d3 := 0
  d4 := 0
  en := false
  blocked := false
  bound := none
  rollback := none
  straggler := none
  waiting := []
  wu := 0
  wo := 0
  wd := 0
  tasks := []

/-- A forwarding entry (R323). -/
structure Fwd where
  /-- The context. -/
  cid : Nat
  /-- The core it moved to. -/
  target : Nat
  /-- OUT. -/
  out : Nat
deriving DecidableEq, Repr

/-- An instruction marked by sampling (R364). -/
structure SampleMark where
  /-- The position it was fetched in. -/
  pos : Nat
  /-- Its context. -/
  cid : Nat
  /-- The tick of its fetch. -/
  tick : Nat
  /-- Its address. -/
  pc : Word
  /-- Its word. -/
  word : BitVec 32
  /-- The dispatch wait, for the first instruction of a task. -/
  dispatch : Nat
  /-- Ticks parked so far: in vigil, and on a remote reply. -/
  vigil : Nat
  remote : Nat
  /-- Ticks stalled on a coprocessor queue, and times that the checker repeated it. -/
  stall : Nat
  rechecks : Nat
deriving DecidableEq, Repr

/-- A core's observation state: its loaded control block and its trace (R349, R364, R365). -/
structure Obs where
  /-- SAMP, TBUF and TCNT as loaded; SAMP 0 is off. -/
  samp : Word
  tbuf : Word
  tcnt : Word
  /-- Fetches left until the next mark. -/
  left : Nat
  /-- The next fetch is marked. -/
  markNext : Bool
  /-- The marked instructions being followed, oldest first. -/
  marks : List SampleMark
  /-- Records written. -/
  count : Word
  /-- The 48-bit counter of encrypted records. -/
  iv : BitVec 48
  /-- Stores of trace records that have yet to take a journal entry, in order (R365). -/
  out : List (VA × Acc)
deriving DecidableEq, Repr

/-- Observation off. -/
def Obs.reset : Obs := ⟨0, 0, 0, 0, false, [], 0, 0, []⟩

/-- A compute core, engine hart or channel core: what its eight positions share. -/
structure Core where
  /-- The core tenant (R261). -/
  tenant : Option Nat
  /-- The core CSRs (R52). -/
  tvec : Word
  ctxbase : Word
  chtab : Word
  kmcfg : Word
  vigmax : Word
  erefill : Word
  agecfg : Word
  gvtper : Word
  cpymargin : Word
  sampcfg : Word
  deqbase : Word
  inbase : Word
  fmttab : Word
  /-- Key-map entries by slot (R77). -/
  kmap : Table KEntry
  /-- Elements of the accumulator tiles, keyed 1,024·tile + 32·i + j (R49). -/
  acc : Table A96
  /-- Elements with an uncorrectable soft error, by the same keys, rising (R245). -/
  accBad : List Nat
  /-- The matrix unit's queue. -/
  mq : List MJob
  /-- Executed, uncompleted tile commands. -/
  mdone : List TileDone
  /-- The vector unit's queue, and after it rows of VMOVA and counts of VMOVAW on their way. -/
  vq : List VJob
  /-- The posted-store journal by entry index (R97). -/
  journal : Table JEntry
  /-- The inbox, oldest first, and its reserved places (R254, R264). -/
  inbox : List InRec
  resv : Nat
  /-- The deque, top first (R272). -/
  deque : List Rec
  /-- The run queue, head first (R252). -/
  runq : List Nat
  /-- Channels 0 to 62 (R255). -/
  chans : Table Chan
  /-- BLOCKED, BOUND of channel 63. -/
  ch63 : Chan
  /-- The round-robin pointer (R259). -/
  rr : BitVec 6
  /-- Records sent (R257). -/
  seq : BitVec 39
  /-- Barrier combiners: VA and scope (R276). -/
  comb : Table (VA × BitVec 3)
  /-- Forwarding entries (R323). -/
  fwd : List Fwd
  /-- Bounced ordered records and the tick of their resend (R300). -/
  bounced : List (RecMsg × Nat)
  /-- GVT: sent and received counts and minimum-sent keys per colour (R299). -/
  sent0 : Nat
  sent1 : Nat
  recv0 : Nat
  recv1 : Nat
  min0 : Nat
  min1 : Nat
  /-- A publication whose commits jubilee still has to make (R301). -/
  jubilee : Bool
  /-- The tick of its last turn: a core issues at most once in a tick (R17). -/
  turnAt : Option Nat
  /-- The tick of the last operation on the port of its deque (R273). -/
  dqTick : Option Nat
  /-- Positions that a CTXSAVE or MIGRC has paused (R318, R322). -/
  paused : List Nat
  /-- A containment fence is up (R354). -/
  fenced : Bool
  /-- The core failed its checker, or the part failed (R355, R356). -/
  failed : Bool
  /-- Contexts that the scheduler does not evict until ctxbase is written (R262). -/
  noEvict : List Nat
  /-- Observation. -/
  obs : Obs
deriving DecidableEq, Repr

/-- The key greater than every key (R299): all ones over 128 bits. -/
def keyTop : Nat := 2 ^ 128 - 1

/-- A core after a cold reset (R367; Reset columns of R75, R127, R242, R253, R309, R348). -/
def Core.reset : Core where
  tenant := none
  tvec := 0
  ctxbase := 0
  chtab := 0
  kmcfg := 0
  vigmax := 0xFFFFFFFF#64
  erefill := 0
  agecfg := 31
  gvtper := 64
  cpymargin := 0
  sampcfg := 0
  deqbase := 256
  inbase := 256
  fmttab := 0
  kmap := []
  acc := []
  accBad := []
  mq := []
  mdone := []
  vq := []
  journal := []
  inbox := []
  resv := 0
  deque := []
  runq := []
  chans := []
  ch63 := { Chan.reset with d0 := 1, en := true }
  rr := 63
  seq := 0
  comb := []
  fwd := []
  bounced := []
  sent0 := 0
  sent1 := 0
  recv0 := 0
  recv1 := 0
  min0 := keyTop
  min1 := keyTop
  jubilee := false
  turnAt := none
  dqTick := none
  paused := []
  fenced := false
  failed := false
  noEvict := []
  obs := Obs.reset

/-! ## Devices -/

/-- A cached leaf (R37). -/
structure TlbEntry where
  /-- The cluster whose TLB holds it. -/
  cluster : Nat
  /-- The tenant. -/
  tenant : Nat
  /-- VA of the page, VA[70:0]. -/
  page : Nat
  /-- log2 of the page size. -/
  bits : Nat
  /-- The entry. -/
  pte : Word
deriving DecidableEq, Repr

/-- The end of a walk: the leaf and log2 of its page, or the fault. -/
inductive WalkEnd where
  | leaf (e : Word) (bits : Nat)
  | fault (cause sub : Nat)
deriving DecidableEq, Repr

/-- A page walk in progress, or one whose result an access still has to take (R37, R38). -/
structure Walk where
  /-- The cluster, the tenant, and VA[70:0]. -/
  cluster : Nat
  tenant : Nat
  va : Nat
  /-- The levels to be read, and the place of the table of the first; none while it waits for a free walker, its descriptor unread. -/
  levels : List Nat
  table : Option Nat
  /-- A TLBI has dropped entries of its TLB since it began: its leaf is not cached (R39). -/
  stale : Bool
  /-- The accesses that wait on it: issuer and VA. -/
  waiting : List (Issuer × VA)
  /-- Its result, once it has ended. -/
  ended : Option WalkEnd
deriving DecidableEq, Repr

/-- A copy command as its hart accepted it (R116). -/
structure CopyCmd where
  /-- The issuer. -/
  who : Issuer
  /-- The eight dwords. -/
  blk : List Word
  /-- The whole VAs, relative ones resolved: source, destination, mailbox, barrier, index list. -/
  src : VA
  dst : VA
  mb : VA
  bar : VA
  aux : VA
  /-- TAG. -/
  tag : BitVec 16
  /-- B of R127. -/
  bytes : Nat
deriving DecidableEq, Repr

/-- A page move in progress (R41, R42). -/
structure PageMove where
  /-- Place of the leaf entry. -/
  leaf : Nat
  /-- The entry with MIG = 1. -/
  old : Word
  /-- The entry that replaces it. -/
  new : Word
  /-- First place and size of the old page. -/
  lo : Nat
  size : Nat
  /-- First place of the new page. -/
  dest : Nat
  /-- Held accesses in arrival order. -/
  held : List Req
  /-- The page lies at its new home, and the TLBI waits for the walks that began before its drop (R42). -/
  switched : Bool
deriving DecidableEq, Repr

/-- A command that has ended, while its completion goes on (R124): status, MOVED, detail, and the steps done: the detail word, the
status word, the barrier. -/
structure Ending where
  status : Nat
  moved : Nat
  detail : Word
  stage : Nat
deriving DecidableEq, Repr

/-- A copy hart (R117, R128). -/
structure CopyHart where
  /-- Accepted commands; the first runs. -/
  queue : List CopyCmd
  /-- Commands that wait for a place, in arrival order. -/
  full : List (Issuer × EngOp)
  /-- Commands accepted since reset. -/
  accepted : Nat
  /-- Commands completed since reset. -/
  completed : Nat
  /-- Bytes of the running command, in unit order, whose writes have been issued; registers' bytes or the page of a MIGRATE moved. -/
  moved : Nat
  /-- Writes that are issued and not yet answered: the byte in unit order at which each begins, and its VA (R98, R123). -/
  out : List (Nat × VA)
  /-- What stops the command at the lowest byte in unit order: byte, STATUS less 1, cause, subcode (R124). -/
  bad : Option (Nat × Nat × Nat × Nat)
  /-- The index of the GATHER entry that is being moved, and 0; entries that a POOL has summed for the next element, and their sum. -/
  idx : Option (Nat × Nat)
  /-- Units of the source that have been read and not yet written, by their byte in unit order (R123). -/
  pre : Table Nat
  /-- The completion under way. -/
  ending : Option Ending
  /-- The header and buffer a POOL holds (R189). -/
  hold : Option (VA × Bool)
  /-- The move of the running MIGRATE. -/
  move : Option PageMove
deriving DecidableEq, Repr

/-- The block that a view hart has taken (R182). -/
structure Build where
  /-- 2^40·entry + n. -/
  key : Nat
  /-- OTHER has been written: cleared before the build begins, or set after it. -/
  cleared : Bool
  /-- The version and the buffer of the build, once it has begun. -/
  begun : Option (Nat × Bool)
  /-- Pieces of master words read so far, by number; once there is an image, the words of it that have been written. -/
  got : Table Nat
  /-- The fault found (R186); 0 is none. -/
  fault : Nat
  /-- The words of the image, once every piece is read. -/
  img : Option (List Word)
deriving DecidableEq, Repr

/-- A view hart (R181, R182). -/
structure ViewHart where
  /-- Commits recorded whose blocks the hart has yet to take up. -/
  queued : Nat
  /-- Commits that wait for a place: the issuer, the descriptor, the version. -/
  full : List (Issuer × Word × Word)
  /-- Pending versions, keyed 2^40·entry + n. -/
  pend : Table Nat
  /-- The block it has taken. -/
  work : Option Build
deriving DecidableEq, Repr

/-- The deliveries of a launch, or of a peer's share of one, on one device (R281, R338). -/
structure Batch where
  /-- TEN. -/
  ten : Nat
  /-- The local-storage image, and the cores it has been written to. -/
  img : List Byte
  imaged : List Nat
  /-- Units accepted. -/
  moved : Nat
  /-- Deliveries to come, in order. -/
  wait : List Delivery
  /-- A record was refused, or arrived on an ordered channel: nothing more is delivered. -/
  refused : Bool
  fmt : Bool
deriving DecidableEq, Repr

/-- A launch record in the pending store (R279). -/
structure LRec where
  /-- Its VA. -/
  va : VA
  /-- The sixteen dwords. -/
  d : List Word
  /-- Its priority. -/
  prio : Nat
  /-- TEN when it was read. -/
  ten : Nat
deriving DecidableEq, Repr

/-- A launch in service (R281). -/
structure LJob where
  /-- Its number among the domain launches of the hart. -/
  num : Nat
  /-- The mailbox VA[63:0]. -/
  mb : Word
  /-- Domain-wide. -/
  dom : Bool
  /-- The deliveries on the own device. -/
  own : Batch
  /-- Devices whose shares are not yet answered, and units that answered shares accepted (R338). -/
  shares : List Nat
  moved : Nat
  /-- A share was not accepted whole. -/
  short : Bool
deriving DecidableEq, Repr

/-- A peer's share whose deliveries wait (R338). -/
structure PShare where
  /-- The issuing device, and the number of its launch. -/
  src : Nat
  job : Nat
  /-- Units of the share. -/
  total : Nat
  /-- Its deliveries. -/
  part : Batch
deriving DecidableEq, Repr

/-- A launch hart (R279). -/
structure LaunchHart where
  qbase : Word
  en : Bool
  ten : BitVec 8
  ovr : Bool
  lflt : Bool
  lsz : BitVec 5
  tail : BitVec 32
  head : BitVec 32
  /-- The pending store. -/
  pend : List LRec
  /-- The launch in service. -/
  job : Option LJob
  /-- Peer shares whose deliveries wait. -/
  peer : List PShare
  /-- Launches begun. -/
  jobs : Nat
  /-- Mailbox writes that their homes hold: TEN, code, units, mailbox (R281). -/
  post : List (Nat × Nat × Nat × Word)
deriving DecidableEq, Repr

/-- A channel core's checkpoint log (R357, R358). -/
structure ChCore where
  /-- The log is on. -/
  on : Bool
  interval : BitVec 24
  used : Nat
  /-- Lines logged in this interval. -/
  lines : List Nat
  /-- Writes held while the log is full, in arrival order. -/
  held : List Req
deriving DecidableEq, Repr

/-- An image in flash (R369): kind 0 firmware, 1 configuration, 2 + v the program of the part with VCN v. -/
structure FlashImage where
  kind : Nat
  body : List Byte
  /-- Its two signatures. -/
  ecdsa : List Byte
  lms : List Byte
deriving DecidableEq, Repr

/-- SECVER of an image, from its signed body (R369, R370). -/
def FlashImage.secver (i : FlashImage) : Nat := Config.secver i.body

/-- The configuration flash (R368 to R371). -/
structure Flash where
  /-- The images. -/
  images : List FlashImage
  /-- Images that UPDATE wrote for the next reset (R373). -/
  next : List FlashImage
  /-- Staged images, by flash offset (R373). -/
  staged : Table FlashImage
  /-- The monotonic counters, by kind. -/
  counters : Table Nat
  /-- What the configuration image says. -/
  cfg : BootCfg
  /-- Cold resets so far; the one that leads to `State.reset` is the first. -/
  resets : Nat
  /-- Physical compute cores, 200·cluster + index, that failed their checkers (R356). -/
  failedCores : List Nat
  /-- The identity keys have been generated (R371). -/
  keyed : Bool
  /-- The current LMS key, and the leaves it has used (R371). -/
  lmsKey : Nat
  lmsUsed : Nat
  /-- Public LMS keys after the first, each with its two signatures (R371). -/
  chain : List Byte
deriving DecidableEq, Repr

/-- The host port's registers (R342, R343, R373). -/
structure HostPort where
  /-- STATUS of the management mailbox. -/
  status : Word
  hwake : Word
  cxlbase : Word
  cxlsize : Word
  /-- MSI-X pending bits of vectors 0 to 2. -/
  msix : BitVec 3
  /-- The MSI-X table: address, and data with the mask in bit 32. -/
  vec : Vector (Word × Word) 3
  /-- Vectors whose interrupts have been sent to the host. -/
  sent : List Nat
  /-- Completions of BAR2 reads: data, or none for Completer Abort (R341). -/
  reads : List (Option Word)
deriving DecidableEq, Repr

/-- The corrected-error log (R359 to R362). -/
structure Log where
  /-- LOGWP. -/
  wp : Nat
  dropped : Nat
  /-- The last entry's bytes. -/
  last : List Byte
  /-- The tick of the last head and LOGWP at it. -/
  headTick : Nat
  headWp : Nat
  /-- Heads written; the slot alternates. -/
  heads : Nat
deriving DecidableEq, Repr

/-- The device part of VCN 0's observation control block (R349). -/
structure DevObs where
  mon : Nat
  alm : Word
  almbase : Word
  ckpt : Word
  /-- Breakpoints: [63] EN and CID, and the code VA. -/
  brk : List (Word × Word)
  /-- Rectangle dwords. -/
  rect : List Word
deriving DecidableEq, Repr

/-- An almanac snapshot that is to be written, as latched (R363): its tick, ALM and ALMBASE, and the routers' INJ and EJ. -/
structure Snapshot where
  tick : Nat
  alm : Word
  base : Word
  inj : Table Nat
  ej : Table Nat
deriving DecidableEq, Repr

/-- An open GVT round (R299). -/
structure Round where
  /-- The colour that the round closes. -/
  colour : Bool
  /-- The devices that take part, as at its start (R298, R339). -/
  members : List Nat
  /-- Passes made. -/
  passes : Nat
deriving DecidableEq, Repr

/-- A device. -/
structure Device where
  /-- The reference counter (R16). -/
  cycle : Nat
  /-- A cold reset has happened and the boot has not (R367, R368). -/
  booting : Bool
  /-- The boot stopped (R368). -/
  bootFail : Bool
  /-- The GVT key last published (R299). -/
  gvtKey : Nat
  /-- The send colour of its cores, which switch together (R299; DESIGN CHOICE, log entry 15). -/
  colour : Bool
  /-- The open round. -/
  round : Option Round
  /-- No thread of the device has issued since the open round started (R302; DEDUCED, log entry 32). -/
  gvtCalm : Bool
  /-- Such a round has closed without raising the GVT key (R302). -/
  gvtStalled : Bool
  /-- The devices of the last domain round that it knows of (R339). -/
  gvtPart : List Nat
  /-- TLB entries of the 24 clusters, and walks in progress. -/
  tlb : List TlbEntry
  walks : List Walk
  copy : Table CopyHart
  view : Table ViewHart
  launch : Table LaunchHart
  chcore : Table ChCore
  /-- View-table entries that VIEWREG has registered and not deregistered (R179). -/
  registered : List Nat
  /-- Devices that are down as seen from here (R335). -/
  down : List Nat
  obs : DevObs
  /-- Almanac SEQ and MISSED, and the snapshot to be written (R363). -/
  almSeq : Nat
  almMissed : Nat
  almLatch : Option Snapshot
  log : Log
  host : HostPort
  /-- Keys of confidential tenants (R372). -/
  keys : Table (List Byte)
  flash : Flash
  /-- Compute cores replaced at reset: the physical core that serves a VCN (R15, R356). -/
  remap : Table Nat
  /-- Images verified since reset, by kind (R373). -/
  verified : List Nat
  /-- Clusters that withhold the rotation in progress (R17). -/
  rotOff : List Nat
  /-- Clusters in which a droop has been detected (R374). -/
  droop : List Nat
  /-- Package power above PCAP (R374), and the junction-temperature limit (R375). -/
  capped : Bool
  hot : Bool
  /-- Feltum ports out of service (R376). -/
  portsOut : List Nat
deriving DecidableEq, Repr

/-- A copy hart after reset. -/
def CopyHart.reset : CopyHart := ⟨[], [], 0, 0, 0, [], none, none, [], none, none, none⟩

/-- A view hart after reset. -/
def ViewHart.reset : ViewHart := ⟨0, [], [], none⟩

/-- A launch hart after reset (R279). -/
def LaunchHart.reset : LaunchHart := ⟨0, false, 0, false, false, 0, 0, 0, [], none, [], 0, []⟩

/-- A channel core's log after reset. -/
def ChCore.reset : ChCore := ⟨false, 0, 0, [], []⟩

/-- The configuration of DESIGN CHOICE, log entry 4: a domain of one device and zeros. -/
def BootCfg.zero : BootCfg := ⟨[], [], 0, 1, 1, 1, 0, 0, 0, 0, 0, 0, 0, 0, 0, []⟩

/-- The flash of DESIGN CHOICE, log entry 4: no image. -/
def Flash.blank : Flash := ⟨[], [], [], [], BootCfg.zero, 1, [], false, 0, 0, []⟩

/-- The host port after reset (R343, R373); every vector is masked, as PCIe gives (PRESUMED, log entry 69). -/
def HostPort.reset : HostPort := ⟨0, 0, 0, 0, 0, Vector.replicate 3 (0, 0x100000000#64), [], []⟩

/-- An empty log chain (R359). -/
def Log.reset : Log := ⟨0, 0, [], 0, 0, 0⟩

/-- No device observation. -/
def DevObs.reset : DevObs := ⟨0, 0, 0, 0, [], []⟩

/-- A device right after a cold reset that leaves its flash as given (R367). -/
def Device.cold (f : Flash) : Device where
  cycle := 0
  booting := true
  bootFail := false
  gvtKey := 0
  colour := false
  round := none
  gvtCalm := false
  gvtStalled := false
  gvtPart := []
  tlb := []
  walks := []
  copy := []
  view := []
  launch := []
  chcore := []
  registered := []
  down := []
  obs := DevObs.reset
  almSeq := 0
  almMissed := 0
  almLatch := none
  log := Log.reset
  host := HostPort.reset
  keys := []
  flash := f
  remap := []
  verified := []
  rotOff := []
  droop := []
  capped := false
  hot := false
  portsOut := []

/-- A device after reset. -/
def Device.reset : Device := Device.cold Flash.blank

/-! ## The machine -/

/-- Who moves: device, core, position, context, and the words of the instruction. -/
structure Cur where
  dev : Nat
  vcn : Nat
  pos : Nat
  cid : Nat
  /-- The words of the instruction being issued. -/
  words : List (BitVec 32)
  /-- The tick since which the instruction has been parked, when it is issued again. -/
  since : Option Nat
  /-- Mismatches that the checker finds in this move (R351, R352). -/
  mismatches : Nat
  /-- The pieces of work that the event does: empty for all that is left (DESIGN CHOICE, log entry 2). -/
  part : List Nat
  /-- The contexts that have taken a trap in this move, by key. -/
  trapped : List Nat
deriving DecidableEq, Repr

/-- The state of the domain. -/
structure State where
  /-- Every byte of memory that differs from its value after reset, in rising order of place. -/
  mem : List Host.Cell
  /-- Places of the words whose F/E bit is 0, rising. -/
  empty : List Nat
  /-- Places of the words with an uncorrectable soft error, rising. -/
  poison : List Nat
  /-- Contexts, keyed 2^25·device + CID. -/
  ctxs : Table Ctx
  /-- Positions, keyed 8·(8,192·device + VCN) + position. -/
  poss : Table Pos
  /-- Cores, keyed 8,192·device + VCN. -/
  cores : Table Core
  /-- Devices, keyed by device number. -/
  devs : Table Device
  /-- Messages in flight. -/
  net : List Msg
  /-- Synchronising accesses waiting at their homes, in arrival order. -/
  waiters : List Waiter
  /-- Flits injected and ejected by routers since the last snapshot (R337, R363), keyed 8,192·device + VCN; VCN 4,924 stands for
  the routers that have none. -/
  inj : Table Nat
  ej : Table Nat
  /-- The moves to come (DESIGN CHOICE, log entry 2). -/
  agenda : List Move
  /-- Free values drawn so far (DESIGN CHOICE, log entry 2). -/
  free : Nat
  /-- Who moves. -/
  cur : Cur
deriving DecidableEq, Repr

/-- The machine right after the cold reset of every device (a device is booted when it first moves): `cycle` 0, every position EMPTY, every store empty, memory zero and
every word full (R367); the boot of R368 is the next step. -/
def State.reset : State where
  mem := []
  empty := []
  poison := []
  ctxs := []
  poss := []
  cores := []
  devs := []
  net := []
  waiters := []
  inj := []
  ej := []
  agenda := []
  free := 0
  cur := ⟨0, 0, 0, 0, [], none, 0, [], []⟩

/-- Why a step stops. The manual names no event that stops the machine, and every address outside its spaces traps, so no
step of the model raises a fault. -/
inductive Fault where
  /-- A place outside every memory of the domain. The translation of R21 to R35 never makes one: no step raises it. Safe. -/
  | noSuchPlace (loc : Nat)
deriving DecidableEq, Repr

/-- Why a step has no meaning. -/
inductive Refusal where
  /-- Raised by an arm of `exec` whose instruction has no meaning yet. Safe. -/
  | notModelled (mnemonic : String)
deriving DecidableEq, Repr

/-- The outcome of a meaning. -/
abbrev Out := Host.Outcome State Fault Refusal

end Sys2Proof.Machine
end

