-- ==== Sys2Proof/Machine/Memory.lean ====
section
/-! DEFINITION. Memory as a canonical list of cells over one flat space of places, and the places of the manual's address
spaces (R11, R22, R25, R33). Device d holds the places d·2^48 to d·2^48 + 2^48 − 1. -/

namespace Sys2Proof.Machine

/-! ## Places -/

/-- Places of one device. -/
def devSpan : Nat := 2 ^ 48

/-- HBM physical address pa of device d. -/
def hbmLoc (d pa : Nat) : Nat := d * devSpan + pa

/-- Low-power DRAM physical address pa. -/
def lpLoc (d pa : Nat) : Nat := d * devSpan + 2 ^ 41 + pa

/-- Host physical address ha behind device d's port (R344), beyond every place of a device. -/
def hostLoc (d ha : Nat) : Nat := 2 ^ 78 + d * 2 ^ 64 + ha % 2 ^ 64

/-- CXL-pool physical address pa of device d, before its port has added CXLBASE (R33, R344). -/
def poolLoc (d pa : Nat) : Nat := 2 ^ 79 + d * 2 ^ 64 + pa

/-- Local-storage offset off of the part with VCN v. -/
def lsLoc (d v off : Nat) : Nat := d * devSpan + 2 ^ 46 + v * 2 ^ 18 + off

/-- Engine and device register offset off (R25). -/
def engLoc (d off : Nat) : Nat := d * devSpan + 2 ^ 47 + off

/-- BAR0 offset off: the request and response areas of the management mailbox (R342). -/
def barLoc (d off : Nat) : Nat := d * devSpan + 2 ^ 47 + 2 ^ 40 + off

/-- Byte off of namespace nsid on the drive of a root port of device d (R44): beyond every other place. -/
def driveBase : Nat := 2 ^ 100
def nvmeLoc (d port nsid off : Nat) : Nat := driveBase + ((d * 4 + port) * 2 ^ 32 + nsid) * 2 ^ 50 + off

/-- The device of a place. -/
def locDev (l : Nat) : Nat :=
  if 2 ^ 79 ≤ l then (l - 2 ^ 79) / 2 ^ 64 else if 2 ^ 78 ≤ l then (l - 2 ^ 78) / 2 ^ 64 else l / devSpan

/-- The place within its device. -/
def locOff (l : Nat) : Nat := l % devSpan

/-- The memory a place belongs to. -/
inductive Region where
  | hbm | lp | cxl | ls | eng
deriving DecidableEq, Repr

/-- The memory of a place. -/
def regionOf (l : Nat) : Region :=
  let o := locOff l
  if 2 ^ 78 ≤ l then .cxl else if o < 2 ^ 41 then .hbm else if o < 2 ^ 46 then .lp else if o < 2 ^ 47 then .ls else .eng

/-- The VCN that owns a place of local storage. -/
def lsVcn (l : Nat) : Nat := (locOff l - 2 ^ 46) / 2 ^ 18

/-- The first place of the 64-bit word that holds a place. -/
def wordOf (l : Nat) : Nat := l - l % 8

/-- A router that serves no VCN, as the almanac counts them (R363); the gateway of the I/O die is one (R328). -/
def gatewayVcn : Nat := 4924

/-- Installed bytes of HBM and of low-power DRAM (R33). -/
def hbmSize : Nat := 576 * 2 ^ 30
def lpSize : Nat := 512 * 2 ^ 30

/-- The channel core that fronts a place of HBM or low-power DRAM (R11). -/
def channelCore (l : Nat) : Nat :=
  let o := locOff l
  if o < 2 ^ 41 then 4728 + (o / 0x60000000) / 2 else 4728 + 6 * ((o - 2 ^ 41) / 2 ^ 34)

/-- The part whose router takes what is sent to a place: its core, its channel core, or the gateway. -/
def homePart (l : Nat) : Nat :=
  match regionOf l with
  | .ls => lsVcn l
  | .hbm | .lp => channelCore l
  | .cxl | .eng => gatewayVcn

/-! ## Bytes -/

/-- What a byte nothing has written reads as: 0 after reset (R367), in the CXL tier what the host holds (DESIGN CHOICE, log entry 7), and on a
drive what the drive holds (DESIGN CHOICE, log entry 19). -/
def unlistedByte (l : Nat) : Byte :=
  if driveBase ≤ l then Config.driveByte l else if regionOf l = .cxl then Config.hostByte l else 0#8

/-- Memory: the listed cells in rising order of place. -/
abbrev Memory := List Host.Cell

/-- Every listed place is above lo, the places rise, and no cell holds what an unlisted place reads as. -/
def Memory.wfFrom (lo : Nat) : Memory → Bool
  | [] => true
  | (a, v) :: t => decide (lo ≤ a) && decide (v ≠ unlistedByte a) && Memory.wfFrom (a + 1) t

/-- The canonical form. -/
def Memory.wf (m : Memory) : Bool := Memory.wfFrom 0 m

/-- Read one byte. -/
def Memory.get : Memory → Nat → Byte
  | [], l => unlistedByte l
  | (a, v) :: t, l => if l < a then unlistedByte l else if a = l then v else Memory.get t l

/-- The cell of a byte before the rest, or nothing when the byte is what an unlisted place reads as. -/
def Memory.cell (l : Nat) (v : Byte) (t : Memory) : Memory := if v = unlistedByte l then t else (l, v) :: t

/-- Write one byte, keeping the canonical form. -/
def Memory.set : Memory → Nat → Byte → Memory
  | [], l, v => Memory.cell l v []
  | (a, w) :: t, l, v =>
    if l < a then Memory.cell l v ((a, w) :: t)
    else if a = l then Memory.cell l v t
    else (a, w) :: Memory.set t l v

/-- Read n bytes, little-endian (R70). -/
def Memory.read (m : Memory) (l : Nat) : Nat → Nat
  | 0 => 0
  | n + 1 => (Memory.get m l).toNat + 256 * Memory.read m (l + 1) n

/-- Write the low n bytes of v, little-endian. -/
def Memory.write (m : Memory) (l : Nat) : Nat → Nat → Memory
  | 0, _ => m
  | n + 1, v => Memory.write (Memory.set m l (BitVec.ofNat 8 v)) (l + 1) n (v / 256)

/-- Write a list of bytes. -/
def Memory.writeBytes (m : Memory) (l : Nat) : List Byte → Memory
  | [] => m
  | b :: t => Memory.writeBytes (Memory.set m l b) (l + 1) t

/-- Read n bytes as a list. -/
def Memory.bytes (m : Memory) (l n : Nat) : List Byte := (List.range n).map fun k => Memory.get m (l + k)

/-- Return the n bytes from l to what they were after reset: zero, outside the CXL tier. -/
def Memory.clear (m : Memory) (l n : Nat) : Memory := m.filter fun c => c.1 < l || l + n ≤ c.1

/-! ## Sets of words -/

/-- Whether a rising list holds k. -/
def hasNat : List Nat → Nat → Bool
  | [], _ => false
  | j :: t, k => if k < j then false else if j = k then true else hasNat t k

/-- Put k into a rising list. -/
def putNat : List Nat → Nat → List Nat
  | [], k => [k]
  | j :: t, k => if k < j then k :: j :: t else if j = k then j :: t else j :: putNat t k

/-- Take k out of a rising list. -/
def dropNat : List Nat → Nat → List Nat
  | [], _ => []
  | j :: t, k => if k < j then j :: t else if j = k then t else j :: dropNat t k

/-- The rising list without the members from l to l + n - 1. -/
def dropRange (s : List Nat) (l n : Nat) : List Nat := s.filter fun k => k < l || l + n ≤ k

/-! ## Words of the state -/

/-- The F/E bit of the word that holds a place: full unless listed (R70, R103). -/
def State.full (s : State) (l : Nat) : Bool := !hasNat s.empty (wordOf l)

/-- Set the F/E bit of a word. -/
def State.setFull (s : State) (l : Nat) (b : Bool) : State :=
  { s with empty := if b then dropNat s.empty (wordOf l) else putNat s.empty (wordOf l) }

/-- Read n bytes. -/
def State.readMem (s : State) (l n : Nat) : Nat := Memory.read s.mem l n

/-- Read a 64-bit word. -/
def State.readWord (s : State) (l : Nat) : Word := BitVec.ofNat 64 (s.readMem l 8)

/-- Write the low n bytes of v; a write of a whole word leaves no poison in it (DEDUCED, log entry 11). -/
def State.writeMem (s : State) (l n v : Nat) : State :=
  { s with
    mem := Memory.write s.mem l n v
    poison := if n = 8 then dropNat s.poison l else s.poison }

/-- Write a 64-bit word. -/
def State.writeWord (s : State) (l : Nat) (w : Word) : State := s.writeMem l 8 w.toNat

/-- Write bytes. -/
def State.writeBytes (s : State) (l : Nat) (b : List Byte) : State :=
  { s with mem := Memory.writeBytes s.mem l b, poison := dropRange s.poison l b.length }

/-- Zero n bytes and make their words full and sound (R70). -/
def State.scrubRange (s : State) (l n : Nat) : State :=
  { s with
    mem := Memory.clear s.mem l n
    empty := dropRange s.empty l n
    poison := dropRange s.poison l n }

/-- The place that the port of the CXL tier reaches: CXLBASE as it stands when the access gets there (R344). -/
def State.atPort (s : State) (l : Nat) : Nat :=
  if 2 ^ 79 ≤ l ∧ l < driveBase then
    let d := locDev l
    hostLoc d ((((Table.find s.devs d).map fun v => v.host.cxlbase.toNat).getD 0) + (l - 2 ^ 79) % 2 ^ 64)
  else l

/-- Whether a word of the n bytes from l holds poisoned data (R336). -/
def State.poisoned (s : State) (l n : Nat) : Bool := s.poison.any fun w => decide (wordOf l ≤ w) && decide (w < l + n)

end Sys2Proof.Machine
end

