-- ==== Sys2Proof/Machine/Sha.lean ====
section
/-! DEFINITION. SHA-384 (FIPS 180-4), which chains the corrected-error log (R360, R362) and digests images (R369). -/

namespace Sys2Proof.Machine

/-- The round constants, first half. -/
def shaK0 : List Word :=
  [
   0x428A2F98D728AE22#64, 0x7137449123EF65CD#64, 0xB5C0FBCFEC4D3B2F#64, 0xE9B5DBA58189DBBC#64,
   0x3956C25BF348B538#64, 0x59F111F1B605D019#64, 0x923F82A4AF194F9B#64, 0xAB1C5ED5DA6D8118#64,
   0xD807AA98A3030242#64, 0x12835B0145706FBE#64, 0x243185BE4EE4B28C#64, 0x550C7DC3D5FFB4E2#64,
   0x72BE5D74F27B896F#64, 0x80DEB1FE3B1696B1#64, 0x9BDC06A725C71235#64, 0xC19BF174CF692694#64,
   0xE49B69C19EF14AD2#64, 0xEFBE4786384F25E3#64, 0x0FC19DC68B8CD5B5#64, 0x240CA1CC77AC9C65#64,
   0x2DE92C6F592B0275#64, 0x4A7484AA6EA6E483#64, 0x5CB0A9DCBD41FBD4#64, 0x76F988DA831153B5#64,
   0x983E5152EE66DFAB#64, 0xA831C66D2DB43210#64, 0xB00327C898FB213F#64, 0xBF597FC7BEEF0EE4#64,
   0xC6E00BF33DA88FC2#64, 0xD5A79147930AA725#64, 0x06CA6351E003826F#64, 0x142929670A0E6E70#64,
   0x27B70A8546D22FFC#64, 0x2E1B21385C26C926#64, 0x4D2C6DFC5AC42AED#64, 0x53380D139D95B3DF#64,
   0x650A73548BAF63DE#64, 0x766A0ABB3C77B2A8#64, 0x81C2C92E47EDAEE6#64, 0x92722C851482353B#64  ]

/-- The round constants, second half. -/
def shaK1 : List Word :=
  [
   0xA2BFE8A14CF10364#64, 0xA81A664BBC423001#64, 0xC24B8B70D0F89791#64, 0xC76C51A30654BE30#64,
   0xD192E819D6EF5218#64, 0xD69906245565A910#64, 0xF40E35855771202A#64, 0x106AA07032BBD1B8#64,
   0x19A4C116B8D2D0C8#64, 0x1E376C085141AB53#64, 0x2748774CDF8EEB99#64, 0x34B0BCB5E19B48A8#64,
   0x391C0CB3C5C95A63#64, 0x4ED8AA4AE3418ACB#64, 0x5B9CCA4F7763E373#64, 0x682E6FF3D6B2B8A3#64,
   0x748F82EE5DEFB2FC#64, 0x78A5636F43172F60#64, 0x84C87814A1F0AB72#64, 0x8CC702081A6439EC#64,
   0x90BEFFFA23631E28#64, 0xA4506CEBDE82BDE9#64, 0xBEF9A3F7B2C67915#64, 0xC67178F2E372532B#64,
   0xCA273ECEEA26619C#64, 0xD186B8C721C0C207#64, 0xEADA7DD6CDE0EB1E#64, 0xF57D4F7FEE6ED178#64,
   0x06F067AA72176FBA#64, 0x0A637DC5A2C898A6#64, 0x113F9804BEF90DAE#64, 0x1B710B35131C471B#64,
   0x28DB77F523047D84#64, 0x32CAAB7B40C72493#64, 0x3C9EBE0A15C9BEBC#64, 0x431D67C49C100D4C#64,
   0x4CC5D4BECB3E42B6#64, 0x597F299CFC657E2A#64, 0x5FCB6FAB3AD6FAEC#64, 0x6C44198C4A475817#64  ]

/-- The initial hash value of SHA-384. -/
def shaInit : List Word :=
  [
   0xCBBB9D5DC1059ED8#64, 0x629A292A367CD507#64, 0x9159015A3070DD17#64, 0x152FECD8F70E5939#64,
   0x67332667FFC00B31#64, 0x8EB44A8768581511#64, 0xDB0C2E0D64F98FA7#64, 0x47B5481DBEFA4FA4#64  ]

/-- The working variables. -/
structure ShaVars where
  a : Word
  b : Word
  c : Word
  d : Word
  e : Word
  f : Word
  g : Word
  h : Word

/-- One round with its constant and schedule word. -/
def shaRound (v : ShaVars) (kw : Word) : ShaVars :=
  let s1 := (v.e.rotateRight 14) ^^^ (v.e.rotateRight 18) ^^^ (v.e.rotateRight 41)
  let ch := (v.e &&& v.f) ^^^ (~~~v.e &&& v.g)
  let t1 := v.h + s1 + ch + kw
  let s0 := (v.a.rotateRight 28) ^^^ (v.a.rotateRight 34) ^^^ (v.a.rotateRight 39)
  let mj := (v.a &&& v.b) ^^^ (v.a &&& v.c) ^^^ (v.b &&& v.c)
  ⟨t1 + s0 + mj, v.a, v.b, v.c, v.d + t1, v.e, v.f, v.g⟩

/-- The next schedule word from the last sixteen, newest first. -/
def shaNext (w : List Word) : Word :=
  let x := w.getD 1 0
  let y := w.getD 14 0
  let s1 := (x.rotateRight 19) ^^^ (x.rotateRight 61) ^^^ (x >>> 6)
  let s0 := (y.rotateRight 1) ^^^ (y.rotateRight 8) ^^^ (y >>> 7)
  s1 + w.getD 6 0 + s0 + w.getD 15 0

/-- The rounds from the list of constants; w holds the last schedule words, newest first, and n those still to use. -/
def shaRounds : List Word → List Word → List Word → ShaVars → ShaVars
  | [], _, _, v => v
  | k :: ks, m :: ms, w, v => shaRounds ks ms (m :: w) (shaRound v (k + m))
  | k :: ks, [], w, v =>
    let n := shaNext w
    shaRounds ks [] (n :: w.take 15) (shaRound v (k + n))

/-- Big-endian words of bytes. -/
def beWords : Nat → List Byte → List Word
  | 0, _ => []
  | n + 1, b => (b.take 8).foldl (fun (x : Word) (y : Byte) => x <<< 8 ||| y.zeroExtend 64) 0#64 :: beWords n (b.drop 8)

/-- One block of 128 bytes. -/
def shaBlock (h : List Word) (b : List Byte) : List Word :=
  let g := fun n => h.getD n 0
  let v := shaRounds (shaK0 ++ shaK1) (beWords 16 b) [] ⟨g 0, g 1, g 2, g 3, g 4, g 5, g 6, g 7⟩
  [g 0 + v.a, g 1 + v.b, g 2 + v.c, g 3 + v.d, g 4 + v.e, g 5 + v.f, g 6 + v.g, g 7 + v.h]

/-- n blocks. -/
def shaBlocks : Nat → List Word → List Byte → List Word
  | 0, h, _ => h
  | n + 1, h, b => shaBlocks n (shaBlock h (b.take 128)) (b.drop 128)

/-- The n bytes of a number, most significant first. -/
def beBytes (n v : Nat) : List Byte := ((List.range n).map fun k => BitVec.ofNat 8 (v / 256 ^ k)).reverse

/-- The padded message. -/
def shaPad (b : List Byte) : List Byte :=
  b ++ [0x80#8] ++ List.replicate ((239 - b.length % 128) % 128) 0#8 ++ beBytes 16 (8 * b.length)

/-- SHA-384 of a list of bytes: 48 bytes. -/
def sha384 (b : List Byte) : List Byte :=
  let p := shaPad b
  ((shaBlocks (p.length / 128) shaInit p).take 6).flatMap fun w => beBytes 8 w.toNat

end Sys2Proof.Machine
end

