-- ==== Sys2Proof/Machine/Ops.lean ====
section
/-! DEFINITION. The named operations over the state: its parts, registers, parking and retiring, taking an exception and
returning from one, translation, the posted-store journal, homes, and the landing of answers and fills. -/

namespace Sys2Proof.Machine

/-- The number that no context has: what is left of a context that has ended goes on under it. -/
def noCid : Nat := 2 ^ 24

/-! ## The parts of the state -/

/-- Key of a context. -/
def ctxKey (d c : Nat) : Nat := d * 2 ^ 25 + c

/-- The device of a context's key. -/
def keyDev (k : Nat) : Nat := k / 2 ^ 25

/-- Key of a core. -/
def coreKey (d v : Nat) : Nat := d * 8192 + v

/-- Key of a position. -/
def posKey (d v p : Nat) : Nat := coreKey d v * 8 + p

/-- A context. -/
def State.ctx (s : State) (d c : Nat) : Ctx := (Table.find s.ctxs (ctxKey d c)).getD Ctx.reset

/-- Set a context. -/
def State.setCtx (s : State) (d c : Nat) (x : Ctx) : State := { s with ctxs := Table.set s.ctxs (ctxKey d c) x }

/-- A core. -/
def State.core (s : State) (d v : Nat) : Core := (Table.find s.cores (coreKey d v)).getD Core.reset

/-- Set a core. -/
def State.setCore (s : State) (d v : Nat) (x : Core) : State := { s with cores := Table.set s.cores (coreKey d v) x }

/-- A position. -/
def State.pos (s : State) (d v p : Nat) : Pos := (Table.find s.poss (posKey d v p)).getD Pos.reset

/-- Set a position. -/
def State.setPos (s : State) (d v p : Nat) (x : Pos) : State := { s with poss := Table.set s.poss (posKey d v p) x }

/-- A device. -/
def State.dev (s : State) (d : Nat) : Device := (Table.find s.devs d).getD Device.reset

/-- Set a device. -/
def State.setDev (s : State) (d : Nat) (x : Device) : State := { s with devs := Table.set s.devs d x }

/-- Change a core. -/
def State.modCore (s : State) (d v : Nat) (f : Core → Core) : State := s.setCore d v (f (s.core d v))

/-- Change a context. -/
def State.modCtx (s : State) (d c : Nat) (f : Ctx → Ctx) : State := s.setCtx d c (f (s.ctx d c))

/-- Change a device. -/
def State.modDev (s : State) (d : Nat) (f : Device → Device) : State := s.setDev d (f (s.dev d))

/-- The thread that moves. -/
def State.thread (s : State) : Ctx := s.ctx s.cur.dev s.cur.cid

/-- Its core. -/
def State.here (s : State) : Core := s.core s.cur.dev s.cur.vcn

/-- Its device. -/
def State.device (s : State) : Device := s.dev s.cur.dev

/-- Change the thread that moves. -/
def State.onThread (s : State) (f : Ctx → Ctx) : State := s.modCtx s.cur.dev s.cur.cid f

/-- Change its core. -/
def State.onCore (s : State) (f : Core → Core) : State := s.modCore s.cur.dev s.cur.vcn f

/-- Change its device. -/
def State.onDevice (s : State) (f : Device → Device) : State := s.modDev s.cur.dev f

/-- The value of `cycle` that the thread reads (R16). -/
def State.now (s : State) : Nat := s.device.cycle

/-- The first word of the instruction being issued. -/
def State.word (s : State) : Word := (s.cur.words.headD 0#32).zeroExtend 64

/-- The next free doubleword (DESIGN CHOICE, log entry 18). -/
def State.freeWord (s : State) : Word := Config.freeWord s.free

/-- Count a free value as drawn. -/
def State.drawn (s : State) : State := { s with free := s.free + 1 }

/-- A tick u of a 64-bit counter has come when the counter reads t: the shorter way round leads from u to t. -/
def tickDone (u t : Nat) : Bool := decide ((t % 2 ^ 64 + 2 ^ 64 - u % 2 ^ 64) % 2 ^ 64 < 2 ^ 63)

/-- Ticks from u to t (R16). -/
def ticksFrom (u t : Nat) : Nat := (t % 2 ^ 64 + 2 ^ 64 - u % 2 ^ 64) % 2 ^ 64

/-! ## Flits (R329, R337, R363) -/

/-- The gateway of a device, by core key. -/
def gateway (d : Nat) : Nat := coreKey d gatewayVcn

/-- Count n flits at a router: 32 bits, saturating (R363). -/
def bump (t : Table Nat) (k n : Nat) : Table Nat :=
  if n = 0 then t else Table.set t k (min 0xFFFFFFFF ((Table.find t k).getD 0 + n))

/-- Count n flits at several routers. -/
def bumps (t : Table Nat) (ks : List Nat) (n : Nat) : Table Nat := ks.foldl (fun t k => bump t k n) t

/-- The mesh hops of what one part sends to another, each a router that injects and one that ejects: between devices it passes both gateways,
and at the far gateway it is ejected again only when its part is known. -/
def meshLegs (src dst : Nat) : List (Nat × Nat) :=
  if src / 8192 = dst / 8192 then [(src, dst)]
  else (src, gateway (src / 8192)) :: (if dst = gateway (dst / 8192) then [] else [(gateway (dst / 8192), dst)])

/-- n flits travel some legs. -/
def State.flits (s : State) (legs : List (Nat × Nat)) (n : Nat) : State :=
  { s with inj := bumps s.inj (legs.map (·.1)) n, ej := bumps s.ej (legs.map (·.2)) n }

/-- The part that takes an access: its home; with no place known yet, the peer's gateway takes it on. -/
def Req.part (r : Req) : Nat := coreKey r.dst (match r.loc with | some l => homePart l | none => gatewayVcn)

/-- Flits of an access or its answer: one; the words of a split load and of a copy share them, 64 bytes to a flit, which goes with the
word that is marked for it. -/
def Route.flits : Route → Nat
  | .split _ _ b | .copy _ b => if b then 1 else 0
  | _ => 1

/-- Where a message leaves, where it goes, and its flits. -/
def Msg.legs : Msg → Nat × Nat × Nat
  | .req r => (coreKey r.who.dev r.who.vcn, r.part, r.route.flits)
  | .eng w op =>
    (coreKey w.dev w.vcn, coreKey w.dev (match op with
      | .cpyq xc _ _ => if xc.toNat < gatewayVcn then xc.toNat else gatewayVcn
      | .waitp t => 4608 + (t.extractLsb' 57 7).toNat
      | .vcommit _ _ | .vreclaim _ _ => gatewayVcn), 1)
  | .ans src w route _ => (src, coreKey w.dev w.vcn, route.flits)
  | .record m => (coreKey m.who.dev m.who.vcn, coreKey m.dst (if m.vcn < gatewayVcn then m.vcn else gatewayVcn), 1)
  | .steal w v => (coreKey w.dev w.vcn, coreKey w.dev v, 1)
  | .cancel w h => (coreKey w.dev w.vcn, coreKey (h.extractLsb' 13 12).toNat (h.extractLsb' 0 13).toNat, 1)
  | .fill _ d v _ _ _ _ _ => (coreKey d v, coreKey d v, 0)
  | .nfill _ _ _ _ _ _ _ _ _ => (0, 0, 0)
  | .share a b h _ _ _ _ => (coreKey a (4920 + h), coreKey b (4920 + h), 1)
  | .shareAns a b h _ _ _ => (coreKey a (4920 + h), coreKey b (4920 + h), 1)

/-- Put a message in flight; its flits are counted (R337). -/
def State.send (s : State) (m : Msg) : State :=
  { s.flits (meshLegs m.legs.1 m.legs.2.1) m.legs.2.2 with net := s.net ++ [m] }

/-- Take message n out of flight. -/
def State.unsend (s : State) (n : Nat) : State := { s with net := s.net.eraseIdx n }

/-- The issuer that the thread is. -/
def State.issuer (s : State) : Issuer :=
  ⟨s.cur.dev, s.cur.vcn, s.cur.cid, s.thread.sup, s.thread.tenant.toNat⟩

/-! ## Numbers of parts (R13, R14, R37) -/

/-- The cluster of a part; a launch hart counts as a part of cluster 6d (R37). Which cluster's TLB and walkers translate the accesses that the
I/O die makes itself the spec does not say: those of cluster 0 (DESIGN CHOICE, log entry 38). -/
def clusterOf (v : Nat) : Nat :=
  if v < 4608 then v / 192
  else if v < 4704 then (v - 4608) / 4
  else if v < 4728 then v - 4704
  else if v < 4920 then (v - 4728) / 8
  else if v < gatewayVcn then 6 * (v - 4920)
  else 0

/-- Mesh coordinates of a visible compute core (R14). -/
def meshOf (v : Nat) : Option (Nat × Nat) :=
  if v < 4608 then
    let c := v / 192
    let i := v % 192
    some (12 * (c % 6) + i % 12, 16 * (c / 6) + i / 12)
  else none

/-- The visible compute core at mesh coordinates (R14). -/
def vcnAt (vx vy : Nat) : Nat := 192 * (6 * (vy / 16) + vx / 12) + (12 * (vy % 16) + vx % 12)

/-- The neighbour of a mesh place (R197). -/
def neighbour (p : Nat × Nat) : Dir → Nat × Nat
  | .n => (p.1, (p.2 + 63) % 64)
  | .e => ((p.1 + 1) % 72, p.2)
  | .s => (p.1, (p.2 + 1) % 64)
  | .w => ((p.1 + 71) % 72, p.2)

/-- Device n belongs to the domain that device d is configured for (R27, R333). -/
def State.inDomain (s : State) (d n : Nat) : Bool :=
  let c := (s.dev d).flash.cfg
  n ≤ 3071 && n % 16 < c.ex && n / 16 % 16 < c.ey && n / 256 < c.ez

/-! ## Registers (R45 to R48) -/

/-- x[r]; x0 reads as zero. -/
def Ctx.getX (c : Ctx) (r : Reg) : Word := if r = 0#5 then 0 else c.x[r.toNat]'r.isLt

/-- Whether x[r] is full; x0 always is. -/
def Ctx.fullX (c : Ctx) (r : Reg) : Bool := r == 0#5 || c.xf.getLsbD r.toNat

/-- Write x[r] and make it full; a write of x0 is discarded. -/
def Ctx.setX (c : Ctx) (r : Reg) (w : Word) : Ctx :=
  if r = 0#5 then c
  else { c with
    x := c.x.set r.toNat w r.isLt
    xf := c.xf ||| (1#32 <<< r.toNat)
    xr := c.xr &&& ~~~(1#32 <<< r.toNat)
    xc := c.xc &&& ~~~(1#32 <<< r.toNat) }

/-- Make x[r] empty and reserved for the thread's own result (R47, R48). -/
def Ctx.awaitX (c : Ctx) (r : Reg) : Ctx :=
  if r = 0#5 then c
  else { c with xf := c.xf &&& ~~~(1#32 <<< r.toNat), xr := c.xr ||| (1#32 <<< r.toNat) }

/-- Make x[r] empty and reserved for the TRET of a TCALL (R48, R264). -/
def Ctx.awaitCall (c : Ctx) (r : Reg) : Ctx :=
  if r = 0#5 then c else { (c.awaitX r) with xc := c.xc ||| (1#32 <<< r.toNat) }

/-- v[r]. -/
def Ctx.getV (c : Ctx) (r : VReg) : VWord := c.v[r.toNat]'r.isLt

/-- Whether v[r] is full. -/
def Ctx.fullV (c : Ctx) (r : VReg) : Bool := c.vf.getLsbD r.toNat

/-- Write v[r] and make it full. -/
def Ctx.setV (c : Ctx) (r : VReg) (w : VWord) : Ctx :=
  { c with
    v := c.v.set r.toNat w r.isLt
    vf := c.vf ||| (1#16 <<< r.toNat)
    vr := c.vr &&& ~~~(1#16 <<< r.toNat) }

/-- Make v[r] empty and reserved. -/
def Ctx.awaitV (c : Ctx) (r : VReg) : Ctx :=
  { c with vf := c.vf &&& ~~~(1#16 <<< r.toNat), vr := c.vr ||| (1#16 <<< r.toNat) }

/-- m[r]; m0 reads as all ones (R46). -/
def Ctx.getM (c : Ctx) (r : MReg) : MWord := if r = 0#2 then BitVec.allOnes 128 else c.m[r.toNat]'r.isLt

/-- Whether m[r] is full; m0 always is. -/
def Ctx.fullM (c : Ctx) (r : MReg) : Bool := r == 0#2 || c.mf.getLsbD r.toNat

/-- Write m[r] and make it full; no instruction names m0 as a destination. -/
def Ctx.setM (c : Ctx) (r : MReg) (w : MWord) : Ctx :=
  if r = 0#2 then c else { c with m := c.m.set r.toNat w r.isLt, mf := c.mf ||| (1#4 <<< r.toNat) }

/-- Write a register of the thread that moves. -/
def State.setX (s : State) (r : Reg) (w : Word) : State := s.onThread fun c => c.setX r w

/-! ## Parking, retiring, taking an exception and returning -/

/-- The thread's instruction retires: the pc advances (R55). -/
def State.retire (s : State) : State := s.onThread fun c =>
  { c with pc := c.pc + 4, enTested := false, sending := none, mism := 0 }

/-- The first word of a map instruction (R61). -/
def isMapWord (w : BitVec 32) : Bool := w.extractLsb' 0 7 == 0x2B#7 && w.extractLsb' 12 3 == 0#3

/-- The instruction being issued is a map instruction: its test of EN comes before every wait (R81). -/
def State.atMap (s : State) : Bool := isMapWord (s.cur.words.headD 0#32)

/-- The thread parks on a condition; its instruction is issued again from its start (R57, R379; DESIGN CHOICE, log entry 8). -/
def State.park (s : State) (on : WaitOn) : State :=
  let t := s.cur.since.getD s.now
  (s.setPos s.cur.dev s.cur.vcn s.cur.pos ⟨.parked, s.cur.cid⟩).onThread fun c =>
    { c with wait := some (.again on s.cur.words), parkedAt := t, enTested := s.atMap }

/-- The thread stalls without parking: its instruction is fetched again at the next turn, and the step past a breakpoint stays (R202, R225,
R366). -/
def State.stall (s : State) : State := s.onThread fun c => { c with stepOver := c.wasOver }

/-- The thread parks on an answer; the instruction has issued. -/
def State.parkOn (s : State) (w : Wait) : State :=
  (s.setPos s.cur.dev s.cur.vcn s.cur.pos ⟨.parked, s.cur.cid⟩).onThread fun c =>
    { c with wait := some w, parkedAt := s.now, mism := 0 }

/-- What a trap records (R308, R309). -/
structure TrapInfo where
  /-- The cause. -/
  cause : Nat
  /-- tval. -/
  tval : Word
  /-- SUB. -/
  sub : Nat := 0
  /-- VAHI. -/
  vahi : Byte := 0#8
  /-- FCODE. -/
  fcode : Nat := 0
  /-- ASYNC. -/
  async : Bool := false
  /-- NRST. -/
  nrst : Bool := false
deriving DecidableEq, Repr

/-- The value of tstat that a trap writes (R309). -/
def TrapInfo.tstat (t : TrapInfo) (pl : Bool) : Word :=
  BitVec.ofBool pl ++ BitVec.ofBool t.async ++ BitVec.ofBool t.nrst ++ 0#13 ++ t.vahi ++ BitVec.ofNat 8 t.fcode ++ 0#24
    ++ BitVec.ofNat 8 t.sub

/-- A context takes a trap: the trap CSRs, supervisor level, the pc at tvec, and nothing else (R310). -/
def Ctx.takeTrap (c : Ctx) (t : TrapInfo) (tvec : Word) : Ctx :=
  { c with
    tcause := BitVec.ofNat 64 t.cause
    tval := t.tval
    tepc := c.pc
    tstat := t.tstat c.sup
    sup := true
    pc := tvec
    wait := none
    fork := none
    sending := none
    mism := 0
    sent := 0
    enTested := false
    stepOver := false
    ahead := [] }

/-- TRAPRET: the level from tstat.PL and the pc from tepc (R315); the instruction there is not matched by a breakpoint
(R366). -/
def Ctx.trapReturn (c : Ctx) : Ctx :=
  { c with sup := c.tstat.getLsbD 63, pc := c.tepc, enTested := false, stepOver := true, ahead := [] }

/-- A send that had parked is as if it had not been issued: the continuation register is full again and the continuation is not counted
(R379); the SEQ stays taken. -/
def Ctx.undoSend (c : Ctx) : Ctx :=
  match c.sending with
  | some ⟨q, some rd, _⟩ => { (c.setX rd (c.getX rd)) with conts := c.conts - 1, sending := some ⟨q, none, false⟩ }
  | some ⟨q, none, _⟩ => { c with sending := some ⟨q, none, false⟩ }
  | none => c

/-- A send of a context that had parked has had no effect: its inbox place is free again too (R264, R379). -/
def State.undoSend (s : State) (d cid : Nat) : State :=
  match (s.ctx d cid).sending with
  | none => s
  | some g =>
    let s := s.modCtx d cid Ctx.undoSend
    if g.resv then s.modCore d (s.ctx d cid).core fun k => { k with resv := k.resv - 1 } else s

/-- A context takes a trap in this move (R364). -/
def State.noteTrap (s : State) (d cid : Nat) : State := { s with cur := { s.cur with trapped := ctxKey d cid :: s.cur.trapped } }

/-- A context of device d takes a trap in its position (R310); a send that waits there has had no effect (R379). -/
def State.trapCtx (s : State) (d cid : Nat) (t : TrapInfo) : State :=
  let s := s.undoSend d cid
  let c := s.ctx d cid
  ((s.setPos d c.core c.pos ⟨.running, cid⟩).setCtx d cid (c.takeTrap t (s.core d c.core).tvec)).noteTrap d cid

/-- The thread that moves takes a trap. -/
def State.trap (s : State) (t : TrapInfo) : State :=
  ((s.setPos s.cur.dev s.cur.vcn s.cur.pos ⟨.running, s.cur.cid⟩).onThread fun c => c.takeTrap t s.here.tvec).noteTrap s.cur.dev s.cur.cid

/-- ILLEGAL with the instruction word in tval (R57). -/
def State.illegal (s : State) : State := s.trap { cause := 0x00, tval := s.word }

/-- ILLEGAL with a named value in tval. -/
def State.illegalVal (s : State) (v : Word) : State := s.trap { cause := 0x00, tval := v }

/-- REGGROUP (R50). -/
def State.regGroup (s : State) : State := s.trap { cause := 0x01, tval := s.word }

/-- MISALIGN with a value in tval. -/
def State.misalign (s : State) (v : Word) : State := s.trap { cause := 0x02, tval := v }

/-- A trap about an address: tval holds VA[63:0] and VAHI VA[71:64] (R35). -/
def State.trapVa (s : State) (cause : Nat) (va : VA) (sub : Nat) : State :=
  s.trap { cause := cause, tval := va.extractLsb' 0 64, sub := sub, vahi := va.extractLsb' 64 8 }

/-- MISALIGN of an access: tval holds VA[63:0] and VAHI the rest. -/
def State.misalignVa (s : State) (va : VA) : State := s.trapVa 0x02 va 0

/-- The ea of a VA moved by n bytes; the window byte stays (R20). -/
def vaAdd (va : VA) (n : Nat) : VA := va.extractLsb' 64 8 ++ (va.extractLsb' 0 64 + BitVec.ofNat 64 n)

/-! ## Accesses -/

/-- The bytes an access touches. -/
def Acc.width : Acc → Nat
  | .load n _ => n
  | .store n _ => n
  | .amo .cas2 _ _ _ _ => 16
  | _ => 8

/-- An access that changes its word or its F/E bit counts as a write (R41, R357). -/
def Acc.writes : Acc → Bool
  | .load _ _ | .ldff | .ldv _ | .festat | .barwait _ => false
  | _ => true

/-! ## Translation (R19 to R37) -/

/-- What an access needs (R26, R34). -/
inductive Perm where
  | read | write | amo | ldff | ldfe | sync | fetch
  /-- A read that engine space does not allow: FESTAT, LDV, vector loads (R26). -/
  | readOnly
  /-- A write that engine space does not allow: vector stores (R26). -/
  | writeOnly
deriving DecidableEq, Repr

/-- A place that an access reaches. -/
structure Target where
  /-- The place. -/
  loc : Nat
  /-- The word carries a usable F/E bit (R24, R105). -/
  feOk : Bool
deriving DecidableEq, Repr

/-- A trap cause and a subcode (R35). -/
abbrev VaFault := Nat × Nat

/-- The place of a physical address of a tier; that of the CXL tier is one of the pool, to which its port adds CXLBASE (R33, R344). -/
def tierLoc (d tier pa : Nat) : Nat :=
  match tier with
  | 0 => hbmLoc d pa
  | 1 => lpLoc d pa
  | _ => poolLoc d pa

/-- Installed bytes of a tier (R33, R344). -/
def State.tierSize (s : State) (d tier : Nat) : Nat :=
  match tier with
  | 0 => hbmSize
  | 1 => lpSize
  | _ => min (2 ^ 44) (s.dev d).host.cxlsize.toNat

/-- Fields of a page-table entry (R31). -/
def pteTier (e : Word) : Nat := (e.extractLsb' 8 2).toNat
def ptePa (e : Word) : Nat := (e.extractLsb' 16 36).toNat * 65536
def pteLeaf (e : Word) : Bool := e.getLsbD 10

/-- log2 of the page that a leaf of a level maps (R30). -/
def levelBits : Nat → Nat
  | 2 => 42
  | 3 => 29
  | _ => 16

/-- The first bit and the width of a level's table index (R30). -/
def levelIndex : Nat → Nat × Nat
  | 0 => (68, 3)
  | 1 => (55, 13)
  | 2 => (42, 13)
  | 3 => (29, 13)
  | _ => (16, 13)

/-- The fault of an entry at a level, if any (R32). -/
def State.entryFault (s : State) (d level : Nat) (e : Word) : Option VaFault :=
  let leaf := pteLeaf e
  if !e.getLsbD 0 then some (0x03, 4)
  else if e.extractLsb' 11 5 ≠ 0#5 then some (0x03, 5)
  else if leaf && level < 2 || !leaf && level == 4 then some (0x03, 5)
  else if !leaf && (e.extractLsb' 1 7 ≠ 0#7 || 2 ≤ pteTier e) then some (0x03, 5)
  else if leaf && ptePa e % 2 ^ levelBits level ≠ 0 then some (0x03, 5)
  else if pteTier e ≤ 2 && s.tierSize d (pteTier e) ≤ ptePa e then some (0x03, 5)
  else if leaf && e.getLsbD 6 && 2 ≤ pteTier e then some (0x03, 5)
  else if leaf && pteTier e == 3 then some (0x03, 6)
  else none

/-- The page moves of a device that have not switched (R41). -/
def Device.moves (v : Device) : List (Nat × PageMove) :=
  v.copy.filterMap fun (k, h) => match h.move with
    | some m => if m.switched then none else some (k, m)
    | none => none

/-- The move whose old page holds a place, and its hart. -/
def Device.moveOf (v : Device) (loc : Nat) : Option (Nat × PageMove) :=
  v.moves.find? fun (_, m) => decide (m.lo ≤ loc) && decide (loc < m.lo + m.size)

/-- The words that an access of n bytes at a place names: two for a CAS2 (R131). -/
def wordsOf (loc n : Nat) : List Nat := if n = 16 then [wordOf loc, wordOf loc + 8] else [wordOf loc]

/-- A held write applies to a word of an access (R41). -/
def PageMove.heldAt (m : PageMove) (loc n : Nat) : Bool :=
  m.held.any fun h => h.acc.writes && (wordsOf (h.loc.getD 0) h.acc.width).any fun w => (wordsOf loc n).contains w

/-- No fault: the read of a page-table entry is held at its home, and what needs the walk waits (R38, R41). -/
def walkHeld : VaFault := (0xFF, 0)

/-- A walk reads an entry as its home serves an ordinary read (R38): refused by a failed channel core or for poison, held behind a
held write, or its value (DEDUCED, log entry 12). -/
def State.walkRead (s : State) (d l : Nat) : Except VaFault Word :=
  if (s.core d (channelCore l)).failed then .error (0x05, 3)
  else if s.poisoned l 8 then .error (0x05, 5)
  else if (match (s.dev d).moveOf l with | some (_, m) => m.heldAt l 8 | none => false) then .error walkHeld
  else .ok (s.readWord l)

/-- What one level of a walk finds. -/
inductive Found where
  /-- A leaf: the entry, its place, log2 of its page. -/
  | leaf (e : Word) (loc bits : Nat)
  /-- The table of the next level. -/
  | table (loc : Nat)
deriving DecidableEq, Repr

/-- One level of a walk: the entry of a table for VA[70:0]; `any` lets a leaf of tier 11 pass, for MIGRATE (R30, R32, R120). -/
def State.walkLevel (s : State) (d va : Nat) (any : Bool) (level table : Nat) : Except VaFault Found :=
  let (lo, w) := levelIndex level
  let at_ := table + 8 * (va / 2 ^ lo % 2 ^ w)
  match s.walkRead d at_ with
  | .error f => .error f
  | .ok e =>
    match s.entryFault d level e with
    | some f => if any && f == (0x03, 6) then .ok (.leaf e at_ (levelBits level)) else .error f
    | none => if pteLeaf e then .ok (.leaf e at_ (levelBits level)) else .ok (.table (tierLoc d (pteTier e) (ptePa e)))

/-- The walk from a table at a level, over the levels still to visit (R30, R32): the leaf, its place and log2 of its page. -/
def State.walkFrom (s : State) (d va : Nat) (any : Bool) : List Nat → Nat → Except VaFault (Word × Nat × Nat)
  | [], _ => .error (0x03, 5)
  | level :: rest, table =>
    match s.walkLevel d va any level table with
    | .error f => .error f
    | .ok (.leaf e at_ bits) => .ok (e, at_, bits)
    | .ok (.table t) => s.walkFrom d va any rest t

/-- The place of the descriptor of a tenant (R29). -/
def tenantLoc (d t : Nat) : Nat := engLoc d (0x400000000 + 16 * t)

/-- The level-0 table of a tenant, or the fault of its descriptor (R29); a table must lie in the installed memory of its tier (R33)
(DEDUCED, log entry 12). -/
def State.rootOf (s : State) (d t : Nat) : Except VaFault Nat :=
  let e := s.readWord (tenantLoc d t)
  let tier := (e.extractLsb' 2 2).toNat
  let pa := (e.extractLsb' 6 46).toNat * 64
  if !e.getLsbD 0 then .error (0x03, 4)
  else if 2 ≤ tier || decide (s.tierSize d tier ≤ pa) then .error (0x03, 5)
  else .ok (tierLoc d tier pa)

/-- A walk for VA[70:0] under a tenant, every level read afresh (R30, R37). -/
def State.walk (s : State) (d t va : Nat) : Except VaFault (Word × Nat × Nat) :=
  match s.rootOf d t with
  | .error f => .error f
  | .ok root => s.walkFrom d va false [0, 1, 2, 3, 4] root

/-- A leaf that the cluster's TLB holds for the page (R37). -/
def State.cached (s : State) (d cluster t va : Nat) : Option (Word × Nat) :=
  ((s.dev d).tlb.find? fun e => e.cluster == cluster && e.tenant == t && e.page == va / 2 ^ e.bits * 2 ^ e.bits).map
    fun e => (e.pte, e.bits)

/-- A walk is one of a cluster for the 64 KiB of VA[70:0] (R38). -/
def Walk.isFor (w : Walk) (cluster t va : Nat) : Bool := w.cluster == cluster && w.tenant == t && w.va / 65536 == va / 65536

/-- The walks of a cluster that are in progress or wait for a walker, oldest first (R38). -/
def Device.openWalks (v : Device) (cluster : Nat) : List Walk := v.walks.filter fun w => w.cluster == cluster && w.ended.isNone

/-- The walk that an access waits on. -/
def State.waitedWalk (s : State) (d cluster t : Nat) (who : Issuer) (va : VA) : Option Walk :=
  (s.dev d).walks.find? fun w => w.isFor cluster t (va.toNat % 2 ^ 71) && w.waiting.contains (who, va)

/-- A save or a move of a context's position is in progress (R325). -/
def State.heldBack (s : State) (d cid : Nat) : Bool :=
  let c := s.ctx d cid
  c.place == .resident && (s.core d c.core).paused.contains c.pos

/-- An access takes a walk's result in the order of its arrival (R38): those before it that still wait stand in a position that a save or a move
has paused. -/
def State.walkTurn (s : State) (w : Walk) (who : Issuer) : Bool :=
  (w.waiting.find? fun q => !s.heldBack q.1.dev q.1.cid).map (·.1) == some who

/-- A miss of a cluster waits: its page is being walked, or every walker is busy (R38). -/
def State.walkBusy (s : State) (d cluster t va : Nat) : Bool :=
  let l := (s.dev d).openWalks cluster
  l.any (fun w => w.isFor cluster t va) || decide (16 ≤ l.length)

/-- The leaf that translates a VA for an access: that of the walk it waits on, the cached one, or that of a walk of its own when a walker is
free (R37, R38; DESIGN CHOICE, log entry 12). -/
def State.leaf (s : State) (d cluster t : Nat) (who : Issuer) (va : VA) : Except VaFault (Word × Nat) :=
  let a := va.toNat % 2 ^ 71
  match s.waitedWalk d cluster t who va with
  | some w =>
    if s.walkTurn w who then match w.ended with
      | some (.leaf e b) => .ok (e, b)
      | some (.fault c n) => .error (c, n)
      | none => .error walkHeld
    else .error walkHeld
  | none => match s.cached d cluster t a with
    | some l => .ok l
    | none =>
      if s.walkBusy d cluster t a then .error walkHeld
      else match s.walk d t a with
        | .ok (e, _, b) => .ok (e, b)
        | .error f => .error f

/-- The tenant under which an issuer's accesses are translated (R29). -/
def Issuer.space (w : Issuer) : Nat := if w.sup then 0 else w.tenant

/-- An access joins the walk of its page, or the queue for a free walker (R38). -/
def Device.awaitWalk (v : Device) (cluster t : Nat) (who : Issuer) (va : VA) : Device :=
  let a := va.toNat % 2 ^ 71
  let l := v.openWalks cluster
  if l.any (fun w => w.isFor cluster t a) then
    { v with walks := v.walks.map fun w =>
        if w.isFor cluster t a && w.ended.isNone then { w with waiting := w.waiting ++ [(who, va)] } else w }
  else if 16 ≤ l.length then { v with walks := v.walks ++ [⟨cluster, t, a, [0, 1, 2, 3, 4], none, false, [(who, va)], none⟩] }
  else v

/-- An access that a miss makes wait is known to its cluster's TLB from then on (R38). -/
def State.awaitWalk (s : State) (d : Nat) (who : Issuer) (va : VA) : State :=
  let cl := clusterOf who.vcn
  if !va.getLsbD 71 && (s.waitedWalk d cl who.space who va).isNone && (match s.leaf d cl who.space who va with | .error f => f == walkHeld | .ok _ => false) then
    s.modDev d fun v => v.awaitWalk cl who.space who va
  else s

/-- The thread parks while a home holds its access, or the walk for it, to a VA (R38, R41). -/
def State.parkHeld (s : State) (va : VA) : State := (s.awaitWalk s.cur.dev s.issuer va).park (.held va)

/-- The lowest PERM subcode that a leaf refuses an access with (R34). -/
def permFault (e : Word) (p : Perm) (peer : Bool) : Option VaFault :=
  let r := e.getLsbD (if peer then 4 else 1)
  let w := e.getLsbD (if peer then 5 else 2)
  let fe := e.getLsbD 6
  let need := fun (nr nw nf : Bool) =>
    if nr && !r then some (0x04, 1) else if nw && !w then some (0x04, 2) else if nf && !fe then some (0x04, 4) else none
  match p with
  | .read | .readOnly => need true false false
  | .write | .writeOnly => need false true false
  | .amo => need true true false
  | .ldff => need true false true
  | .ldfe => need true true true
  | .sync => need false true true
  | .fetch => if e.getLsbD 3 then none else some (0x04, 3)

/-- Translate a global VA (R28, R30 to R34): the place on the device, or the fault. Of an access that the leaf forbids and that lies
past the installed size the spec fixes no order; the permission is checked first (DESIGN CHOICE, log entry 70). -/
def State.translate (s : State) (d cluster t : Nat) (who : Issuer) (va : VA) (p : Perm) (peer : Bool) : Except VaFault Target :=
  let a := va.toNat % 2 ^ 71
  match s.leaf d cluster t who va with
  | .error f => .error f
  | .ok (e, bits) =>
    match permFault e p peer with
    | some f => .error f
    | none =>
      let pa := ptePa e + a % 2 ^ bits
      if s.tierSize d (pteTier e) ≤ pa then .error (0x03, 5)
      else .ok ⟨tierLoc d (pteTier e) pa, e.getLsbD 6⟩

/-- Whether engine space allows an access at an offset, of a width, at a level (R25, R26). -/
def engAllowed (off width : Nat) (sup : Bool) (p : Perm) : Bool :=
  width == 8 &&
  match p with
  | .read => sup || off < 0x100000000 || 0x200000000 ≤ off && off < 0x400000000
  | .write =>
    if off < 0x100000000 then false
    else sup || off < 0x200000000
  | _ => false

/-- Whether an engine-space offset lies in a listed range (R25). -/
def engListed (off : Nat) : Bool :=
  off ≤ 0x13BFFFF || 0x100000000 ≤ off && off ≤ 0x100003FFF || 0x200000000 ≤ off && off ≤ 0x200000FFF
    || 0x300000000 ≤ off && off ≤ 0x3000FFFFF || 0x400000000 ≤ off && off ≤ 0x400000FFF
    || 0x500000000 ≤ off && off ≤ 0x50000003F

/-- The place of a listed engine-space offset: the local storage of an engine hart, or a register (R25). -/
def engTarget (d off : Nat) : Nat :=
  if off < 0x100000000 then lsLoc d (4608 + off / 0x10000) (off % 0x10000) else engLoc d off

/-- The core that a local-storage VA names, seen from a core (R22, R23). -/
def lsCore (va : VA) (vcn : Nat) : Except VaFault Nat :=
  let vx := (va.extractLsb' 18 7).toNat
  let vy := (va.extractLsb' 25 6).toNat
  if va.extractLsb' 31 37 ≠ 0#37 then .error (0x03, 2)
  else if va.extractLsb' 68 4 = 0x8#4 then
    if 71 < vx then .error (0x03, 3) else .ok (vcnAt vx vy)
  else match meshOf vcn with
    | none => .error (0x03, 3)
    | some (ox, oy) => .ok (vcnAt ((ox + vx + (if 64 ≤ vx then 16 else 0)) % 72) ((oy + vy) % 64))

/-- The place that an access reaches on device d, for an issuer (R21 to R35). -/
def State.resolveAt (s : State) (d : Nat) (who : Issuer) (va : VA) (p : Perm) (width : Nat) (peer : Bool) :
    Except VaFault Target :=
  let space := va.extractLsb' 68 4
  if space.getLsbD 3 = false then
    s.translate d (clusterOf who.vcn) who.space who va p peer
  else if space = 0x8#4 ∨ space = 0x9#4 then
    match lsCore va who.vcn with
    | .error f => .error f
    | .ok v => .ok ⟨lsLoc d v (va.toNat % 2 ^ 18), true⟩
  else if space = 0xA#4 then
    let off := va.toNat % 2 ^ 68
    if !engListed off then .error (0x03, 7)
    else if peer || !engAllowed off width who.sup p then .error (0x04, 5)
    else .ok ⟨engTarget d off, false⟩
  else .error (0x03, 1)

/-- The NACK subcode of a fault found at a peer (R35, R336) (DEDUCED, log entry 46). -/
def nackOf (f : VaFault) : Nat := if f = (0x03, 6) then 4 else if f.1 = 0x03 then 1 else 2

/-- A place is in the local storage of the part itself (R95). -/
def isOwn (d v l : Nat) : Bool := regionOf l == .ls && locDev l == d && lsVcn l == v

/-! ## Checkpoint logs and writes of the hardware (R357 to R359) -/

/-- Channel core v's log. -/
def Device.log? (d : Device) (v : Nat) : ChCore := (Table.find d.chcore v).getD ChCore.reset

/-- The place of the log region of channel core v: OFF MiB into the first HBM channel it fronts (R357). -/
def State.ckptBase (s : State) (d v : Nat) : Nat :=
  hbmLoc d ((2 * (v - 4728)) * 0x60000000 + ((s.dev d).obs.ckpt.extractLsb' 0 11).toNat * 2 ^ 20)

/-- LINES of CKPT. -/
def State.ckptLines (s : State) (d : Nat) : Nat := ((s.dev d).obs.ckpt.extractLsb' 24 24).toNat

/-- The header's first word (R358). -/
def ckptHeader (iv : BitVec 24) (st : Nat) (used : Nat) : Word := iv ++ BitVec.ofNat 2 st ++ 0#14 ++ BitVec.ofNat 24 used

/-- STATE after `used` records of `lines` (R358). -/
def ckptState (used lines : Nat) : Nat := if used = lines then 2 else if (7 * lines + 7) / 8 ≤ used then 1 else 0

/-- A place of the log region, which only the security controller writes (R359). -/
def State.inLog (s : State) (loc : Nat) : Bool :=
  let c := (s.dev (locDev loc)).flash.cfg
  regionOf loc == .hbm && decide (c.logBase ≤ locOff loc) && decide (locOff loc < c.logBase + c.logSize)

/-- The channel core writes words of its own log region; its home refuses them in the log region of R359. -/
def State.ckptPut (s : State) (loc : Nat) : List Word → State
  | [] => s
  | w :: t => (if s.inLog loc then s else s.writeWord loc w).ckptPut (loc + 8) t

/-- The STFF of the header's first word (R358); its waiters are served before the move ends. -/
def State.ckptHead (s : State) (base : Nat) (iv : BitVec 24) (st used : Nat) : State :=
  if s.inLog base then s else (s.writeWord base (ckptHeader iv st used)).setFull base true

/-- Before a write at a place: log the old line when the interval has not (R357); none when the log is full. -/
def State.ckpt (s : State) (loc : Nat) : Option State :=
  if regionOf loc ≠ .hbm ∧ regionOf loc ≠ .lp then some s
  else
    let d := locDev loc
    let v := channelCore loc
    let c := (s.dev d).log? v
    let base := s.ckptBase d v
    let n := s.ckptLines d
    let line := loc - loc % 64
    if !c.on || decide (base ≤ loc ∧ loc < base + 64 + 72 * n) || hasNat c.lines line then some s
    else if n ≤ c.used then none
    else
      let fe := (List.range 8).foldl (fun a k => a + (if s.full (line + 8 * k) then 2 ^ k else 0)) 0
      let tier := if regionOf loc = .hbm then 0 else 1
      let pa := if tier = 0 then locOff line else locOff line - 2 ^ 41
      let h : Word := BitVec.ofNat 64 (fe * 2 ^ 56 + pa + tier * 16)
      let used := c.used + 1
      let s := s.ckptPut (base + 64 + 72 * c.used) (h :: (List.range 8).map fun k => s.readWord (line + 8 * k))
      let st := ckptState used n
      let s := if st ≠ ckptState c.used n then s.ckptHead base c.interval st used else s
      some (s.modDev d fun dv =>
        { dv with chcore := Table.set dv.chcore v { c with used := used, lines := putNat c.lines line } })

/-- A place is in word k of the header of a log that is on (R358). -/
def State.isHeader (s : State) (k loc : Nat) : Bool :=
  let v := channelCore loc
  regionOf loc == .hbm && ((s.dev (locDev loc)).log? v).on && wordOf loc == s.ckptBase (locDev loc) v + 8 * k

/-- A request is a channel core's own LDFE of CLOSE. -/
def Req.isClose (r : Req) : Bool := r.who.cid == noCid && r.acc == .ldfe

/-- A word as an access finds it: CLOSE is write-only and reads as 0 (R3, R358). -/
def State.seen (s : State) (r : Req) (loc : Nat) : Word := if s.isHeader 1 loc && !r.isClose then 0 else s.readWord loc

/-- An access writes a word: a header's first word is read-only, and the write is ignored (R3, R358). -/
def State.put (s : State) (loc : Nat) (w : Word) : State := if s.isHeader 0 loc then s else s.writeWord loc w

/-- Hold a write at a channel core whose log is full (R358). -/
def State.ckptHold (s : State) (r : Req) (loc : Nat) : State :=
  let v := channelCore loc
  s.modDev (locDev loc) fun dv =>
    let c := dv.log? v
    { dv with chcore := Table.set dv.chcore v { c with held := c.held ++ [{ r with loc := some loc }] } }

/-- Hold an access at the old home of a moving page (R41). -/
def State.moveHold (s : State) (r : Req) (loc k : Nat) (m : PageMove) : State :=
  s.modDev (locDev loc) fun v =>
    let h := (Table.find v.copy k).getD CopyHart.reset
    { v with copy := Table.set v.copy k { h with move := some { m with held := m.held ++ [{ r with loc := some loc }] } } }

/-- The place is fronted by a channel core that has failed: its home refuses every access (R356). -/
def State.frontFailed (s : State) (loc : Nat) : Bool :=
  (regionOf loc == .hbm || regionOf loc == .lp) && (s.core (locDev loc) (channelCore loc)).failed

/-- The word at a place with the stores that its home holds before it (R41, R358), which a read that was held behind them would find. -/
def State.wordBehind (s : State) (loc : Nat) : Word :=
  let v := s.dev (locDev loc)
  let held := (match v.moveOf loc with | some (_, m) => m.held | none => []) ++ v.chcore.flatMap fun p => p.2.held
  held.foldl (fun w r => match r.loc, r.acc with
    | some l, .store 8 d => if l = loc then d else w
    | _, _ => w) (s.readWord (s.atPort loc))

/-- A part of the device itself as an issuer: no context, at supervisor level. -/
def partIssuer (d v : Nat) : Issuer := ⟨d, v, noCid, true, 0⟩

/-- A write of a doubleword by a part of the device at a place. One to local storage is done; any other is refused by a failed channel core
(R356), held by a page move (R41), logged at its channel core (R357), or held there (R358) (DEDUCED, log entry 37). -/
def State.hwStore (s : State) (v loc : Nat) (w : Word) : State :=
  let r : Req := ⟨partIssuer (locDev loc) v, locDev loc, 0, some loc, false, .store 8 w, .nowhere⟩
  if regionOf loc = .ls then s.writeWord loc w
  else if s.frontFailed loc then s
  else match (s.dev (locDev loc)).moveOf loc with
    | some (k, m) => s.moveHold r loc k m
    | none => match s.ckpt loc with
      | some s => s.put (s.atPort loc) w
      | none => s.ckptHold r loc

/-- Writes of doublewords from a place up. -/
def State.hwStores (s : State) (v loc : Nat) : List Word → State
  | [] => s
  | w :: t => (s.hwStore v loc w).hwStores v (loc + 8) t

/-- The LDFE that a channel core keeps waiting on CLOSE (R358). -/
def closeReq (d v base : Nat) : Req := ⟨partIssuer d v, d, 0, some (base + 8), true, .ldfe, .nowhere⟩

/-- A waiter is a channel core's own LDFE. -/
def Waiter.isClose (w : Waiter) : Bool := w.req.isClose

/-- A channel core's LDFE of CLOSE is served: the interval ends, and another LDFE waits (R358). -/
def State.ckptClose (s : State) (r : Req) (close : Word) : State :=
  let d := r.dst
  let v := r.who.vcn
  let base := s.ckptBase d v
  let iv := close.extractLsb' 0 24
  let s := s.modDev d fun dv =>
    { dv with chcore := Table.set dv.chcore v { dv.log? v with interval := iv, used := 0, lines := [] } }
  let s := s.ckptHead base iv 0 0
  { s with waiters := s.waiters ++ [⟨closeReq d v base, false⟩] }

/-! ## The corrected-error log and trap records -/

/-- The bytes of a list of words, little-endian. -/
def wordsBytes (l : List Word) : List Byte :=
  l.flatMap fun w => (List.range 8).map fun k => w.extractLsb' (8 * k) 8

/-- The bytes of a list of words, little-endian, as words again. -/
def bytesWords : List Byte → List Word
  | a :: b :: c :: d :: e :: f :: g :: h :: t => (h ++ g ++ f ++ e ++ d ++ c ++ b ++ a) :: bytesWords t
  | _ => []

/-- Append an entry (R359 to R361): kind, sub, VCN or 0x1FFF, CID or none, tenant of the CID, ADDR, DATA. The security controller writes it, and
a confidential tenant's ADDR and DATA stay out (R372). -/
def State.logFor (s : State) (d kind sub vcn cid : Nat) (ten : Option Nat) (addr data : Word) : State :=
  let v := s.dev d
  let g := v.log
  let off := 4096 + 64 * g.wp
  if v.flash.cfg.logSize < off + 64 then s.setDev d { v with log := { g with dropped := g.dropped + 1 } }
  else
    let hide := (ten.bind fun t => Table.find v.keys t).isSome
    let src : Word := BitVec.ofNat 8 kind ++ BitVec.ofNat 8 sub ++ 0#3 ++ BitVec.ofNat 13 vcn ++ 0#8 ++ BitVec.ofNat 24 cid
    let link := if g.wp = 0 then List.replicate 16 0#8 else (sha384 g.last).take 16
    let e := wordsBytes [BitVec.ofNat 64 g.wp, BitVec.ofNat 64 v.cycle, src, if hide then 0 else addr,
      if hide then 0 else data, 0] ++ link
    (s.setDev d { v with log := { g with wp := g.wp + 1, last := e } }).hwStores gatewayVcn (hbmLoc d (v.flash.cfg.logBase + off))
      (bytesWords e)

/-- Append an entry about a context, or about none. -/
def State.log (s : State) (d kind sub vcn cid : Nat) (addr data : Word) : State :=
  s.logFor d kind sub vcn cid (if cid < noCid then some (s.ctx d cid).tenant.toNat else none) addr data

/-- Channel c of a core. -/
def Core.chan (k : Core) (c : Nat) : Chan := if c = 63 then k.ch63 else (Table.find k.chans c).getD Chan.reset

/-- Set channel c. -/
def Core.setChan (k : Core) (c : Nat) (x : Chan) : Core :=
  if c = 63 then { k with ch63 := x } else { k with chans := Table.set k.chans c x }

/-- SUP and ORD of a channel's entry (R255). -/
def Chan.isSup (c : Chan) : Bool := c.d0.getLsbD 2
def Chan.isOrd (c : Chan) : Bool := c.d0.getLsbD 1

/-- The supervisor channel: the lowest with SUP and EN (R312). -/
def Core.supChan (k : Core) : Option Nat := (List.range 63).find? fun c => (k.chan c).en && (k.chan c).isSup

/-- Place a trap record on the core's supervisor channel, or drop and log it (R312). -/
def State.trapRecord (s : State) (d v cause : Nat) (tval tstat : Word) (cid : Nat) : State :=
  let k := s.core d v
  match k.supChan with
  | none => s.log d 0x09 0 v cid (BitVec.ofNat 64 cause) tval
  | some c =>
    let d0 : Word := 0#4 ++ BitVec.ofNat 6 c ++ 63#6 ++ 0#8 ++ k.tvec.extractLsb' 0 40
    let r : Rec := ⟨d0, 0, 0, 0, BitVec.ofNat 64 cause, tval, tstat, BitVec.ofNat 64 (cid % noCid)⟩
    s.setCore d v { k with inbox := k.inbox ++ [⟨r, c, 0, true, (s.dev d).cycle, none, none, true⟩] }

/-! ## Ending a task -/

/-- tstat of a POSTREFUSE, the level being task (R309). -/
def refuseStat (sub : Nat) : Word := TrapInfo.tstat { cause := 0x06, tval := 0, sub := sub, async := true } false

/-- The pending POSTREFUSEs of an ending context become trap records (R311). -/
def State.passRefusals (s : State) (d v cid : Nat) : List AsyncTrap → State
  | [] => s
  | .postrefuse _ i n :: t => (s.trapRecord d v 0x06 (BitVec.ofNat 64 i) (refuseStat n) cid).passRefusals d v cid t
  | .splitNack _ _ :: t => s.passRefusals d v cid t

/-- The task of an ordered channel has ended: a revocable one waits for its commit, an irrevocable one is gone (R293). -/
def Chan.endTask (c : Chan) (cid : Nat) (revocable : Bool) : Chan :=
  { c with tasks :=
      if revocable then c.tasks.map fun t => if t.cid = some cid then { t with cid := none } else t
      else c.tasks.filter fun t => t.cid ≠ some cid }

/-- An issuer is a context of device d. -/
def Issuer.isCtx (w : Issuer) (d cid : Nat) : Bool := w.dev == d && w.cid == cid

/-- An access that has lost its issuer, as f says of issuer and route: its answer goes nowhere. -/
def Req.reroute (f : Issuer → Route → Bool) (r : Req) : Req := if f r.who r.route then { r with route := .nowhere } else r

/-- An issuer whose answers nothing waits for. -/
def Issuer.reroute (f : Issuer → Route → Bool) (w : Issuer) : Issuer := if f w .reply then { w with cid := noCid } else w

/-- A record that has lost its sender: a posted one is answered nowhere. -/
def RecMsg.reroute (f : Issuer → Route → Bool) (m : RecMsg) : RecMsg :=
  match m.kind with
  | .tsends => { m with who := m.who.reroute f }
  | .tsend i | .tcall i | .fork i => if f m.who (.journal i) then { m with kind := .anti } else m
  | .anti => m

/-- A message that has lost the issuer it was for. -/
def Msg.reroute (f : Issuer → Route → Bool) : Msg → Msg
  | .req r => .req (r.reroute f)
  | .eng w op => .eng (w.reroute f) op
  | .ans src w r a => if f w r then .ans src w .nowhere a else .ans src w r a
  | .record m => .record (m.reroute f)
  | .steal w v => .steal (w.reroute f) v
  | .cancel w h => .cancel (w.reroute f) h
  | m => m

/-- What a device's engines and homes hold for lost issuers. -/
def Device.reroute (f : Issuer → Route → Bool) (v : Device) : Device :=
  { v with
    copy := v.copy.map fun p => (p.1, { p.2 with
      full := p.2.full.map fun q => (q.1.reroute f, q.2)
      move := p.2.move.map fun m => { m with held := m.held.map (Req.reroute f) } })
    view := v.view.map fun p => (p.1, { p.2 with full := p.2.full.map fun q => (q.1.reroute f, q.2) })
    chcore := v.chcore.map fun p => (p.1, { p.2 with held := p.2.held.map (Req.reroute f) }) }

/-- The records that wait in a core's channels for the end of a rollback. -/
def Core.reroute (f : Issuer → Route → Bool) (k : Core) : Core :=
  { k with chans := k.chans.map fun p => (p.1, { p.2 with waiting := p.2.waiting.map (RecMsg.reroute f) }) }

/-- Every item in flight or held loses its issuer, as f says; homes drop the waiters (R324). -/
def State.reroute (s : State) (f : Issuer → Route → Bool) : State :=
  { s with
    net := s.net.map (Msg.reroute f)
    waiters := s.waiters.filter fun w => !f w.req.who w.req.route
    cores := s.cores.map fun p => (p.1, p.2.reroute f)
    devs := s.devs.map fun p => (p.1, p.2.reroute f) }

/-- A route that leads to a context, not to a journal entry. -/
def Route.toCtx : Route → Bool
  | .journal _ | .copy _ _ => false
  | _ => true

/-- A fill for a context, other than that of a TRET. -/
def Msg.fillsCtx (d cid : Nat) : Msg → Bool
  | .fill _ d' _ c' _ _ _ tret => d' == d && c' == cid && !tret
  | _ => false

/-- A job of a context that has ended keeps its effects outside the context. -/
def MJob.orphan (cid : Nat) : MJob → MJob
  | .tile j => .tile (if j.cid = cid then { j with cid := noCid, split := false } else j)
  | .mova c ty vd t r => .mova (if c = cid then noCid else c) ty vd t r
  | .movaw c ty t r v => .movaw (if c = cid then noCid else c) ty t r v
def VJob.orphan (cid : Nat) : VJob → VJob
  | .result c vd v f n => .result (if c = cid then noCid else c) vd v f n
  | .row c vd v n => .row (if c = cid then noCid else c) vd v n
  | .counts c n => .counts (if c = cid then noCid else c) n
  | .vqapp c v o f => .vqapp (if c = cid then noCid else c) v o f

/-- What a core still holds for a context that has ended: its posted stores, its tile commands, its vector instructions. -/
def Core.orphan (k : Core) (cid : Nat) : Core :=
  { k with
    journal := k.journal.map fun p => (p.1, if p.2.cid = cid && !p.2.jubilee then { p.2 with gone := true } else p.2)
    mq := k.mq.map (MJob.orphan cid)
    mdone := k.mdone.map fun j => { j with cid := if j.cid = cid then noCid else j.cid }
    vq := k.vq.map (VJob.orphan cid)
    inbox := k.inbox.map fun r => { r with mark := if r.mark = some cid then none else r.mark }
    runq := k.runq.filter fun c => c ≠ cid
    noEvict := k.noEvict.filter fun c => c ≠ cid
    fwd := k.fwd.filter fun e => e.cid ≠ cid
    chans := k.chans.map fun p => (p.1, if p.2.bound = some cid then { p.2 with bound := none } else p.2) }

/-- Items in flight and at homes for a context that has ended (R324): a home drops its waiter, fills are discarded. -/
def State.orphan (s : State) (d cid : Nat) : State :=
  let s' := s.reroute fun w r => w.isCtx d cid && r.toCtx
  { s' with
    net := s'.net.filter fun m => !m.fillsCtx d cid
    cores := s'.cores.map fun p => (p.1, if p.1 / 8192 = d then p.2.orphan cid else p.2) }

/-- A context ends: its position empties and its CID is free once no continuation is outstanding (R251, R267). -/
def State.endContext (s : State) (d cid : Nat) : State :=
  let c := s.ctx d cid
  let s := if c.place = .resident then s.setPos d c.core c.pos ⟨.empty, 0⟩ else s
  let s := if c.ordered then
      s.modCore d (cid / 256) fun k => k.setChan c.chan.toNat ((k.chan c.chan.toNat).endTask cid c.revocable)
    else s
  ((s.orphan d cid).setCtx d cid { c with
    place := if c.conts = 0 then .free else .ended
    pend := []
    held := []
    wait := none
    split := none
    fork := none
    mcp := none
    landed := .no
    ordered := false
    revocable := false }).passRefusals d c.core cid c.pend

/-! ## Context images (R317) -/

/-- Bits [hi:lo] placed at lo. -/
def at_ (v lo : Nat) : Nat := v * 2 ^ lo

/-- WAIT and WAITV of a context's wait (R317) (DEDUCED, log entry 65). -/
def waitImage : Option Wait → Word × Word
  | none => (0, 0)
  | some (.word va _) => (BitVec.ofNat 64 (at_ 1 60), va.extractLsb' 0 64)
  | some (.reply _ _) => (BitVec.ofNat 64 (at_ 5 60), 0)
  | some (.recv _ _ _) => (BitVec.ofNat 64 (at_ 7 60), 0)
  | some (.again on _) =>
    match on with
    | .reg r => (BitVec.ofNat 64 (at_ 2 60 + r.toNat), 0)
    | .vreg r => (BitVec.ofNat 64 (at_ 2 60 + r.toNat), 0)
    | .mreg r => (BitVec.ofNat 64 (at_ 2 60 + r.toNat), 0)
    | .full va => (BitVec.ofNat 64 (at_ 1 60), va.extractLsb' 0 64)
    | .key k => (BitVec.ofNat 64 (at_ 3 60), k)
    | .tick t => (BitVec.ofNat 64 (at_ 4 60), t)
    | .promise t => (BitVec.ofNat 64 (at_ 4 60), t)
    | .ring _ _ => (BitVec.ofNat 64 (at_ 6 60), 0)
    | .gvt => (BitVec.ofNat 64 (at_ 6 60), 0)
    | .fork => (BitVec.ofNat 64 (at_ 5 60), 0)
    | _ => (BitVec.ofNat 64 (at_ 7 60), 0)

/-- PEND: pending POSTREFUSEs and outstanding continuations (R317). -/
def Ctx.pendImage (c : Ctx) : Word :=
  let posts := (c.pend.filter fun p => match p with | .postrefuse _ _ _ => true | .splitNack _ _ => false).length
  0#32 ++ BitVec.ofNat 16 c.conts ++ 0#9 ++ BitVec.ofNat 7 posts

/-- The context image as 384 dwords; `rq` and `link` are the run-queue fields (R317). -/
def Ctx.image (c : Ctx) (cid : Nat) (valid rq : Bool) (link : Word) : List Word :=
  let hdr : Word := BitVec.ofBool valid ++ BitVec.ofBool c.sup ++ BitVec.ofBool c.mcp.isSome ++ BitVec.ofBool rq ++ 0#36
    ++ BitVec.ofNat 24 cid
  let w := waitImage c.wait
  let arr : Word × Word := match c.arrival with
    | some a => (1#1 ++ 0#50 ++ a.ph, a.va.extractLsb' 0 64)
    | none => (0, 0)
  let lanes := fun (v : VWord) => (List.range 16).map fun k => v.extractLsb' (64 * k) 64
  let masks := fun (m : MWord) => [m.extractLsb' 0 64, m.extractLsb' 64 64]
  [hdr, c.pc, link, w.1, w.2, arr.1, arr.2, c.pendImage]
    ++ ((0 : Word) :: (c.x.toList.drop 1))
    ++ c.v.toList.flatMap lanes
    ++ (masks (BitVec.allOnes 128) ++ (c.m.toList.drop 1).flatMap masks)
    ++ [0#12 ++ (c.mf ||| 1#4) ++ c.vf ++ (c.xf ||| 1#32)]
    ++ c.aw.toList.map (fun b => b.zeroExtend 64)
    ++ [c.fmt, c.sclp, c.ebudget, c.vflags, c.vstale, c.mcnt, c.mthr, c.tcause, c.tval, c.tepc, c.tstat, c.tscratch, c.vtime,
        0#2 ++ c.chan ++ 0#2 ++ c.prio ++ 0#40 ++ c.tenant]
    ++ List.replicate 61 0

/-- The VA of the context record of a CID at its core (R252). -/
def State.recordVa (s : State) (d v cid : Nat) : VA :=
  0x00#8 ++ ((s.core d v).ctxbase + BitVec.ofNat 64 (3072 * cid))

/-- Where the image of a context that is not resident lies. -/
def State.imageVa (s : State) (d cid : Nat) : VA := (s.ctx d cid).area

/-- The place of a byte of a page-crossing area of tenant 0, when its page can be translated. -/
def State.areaLoc (s : State) (d v : Nat) (va : VA) (p : Perm) : Option Nat :=
  match s.resolveAt d ⟨d, v, 0, true, 0⟩ va p 8 false with
  | .ok t => some t.loc
  | .error _ => none

/-- Write a dword of the image of a context that is not resident (R324), as any write of a part (R41, R357); its home refuses it in the log
region too (R359). -/
def State.setImage (s : State) (d cid off : Nat) (w : Word) : State :=
  let v := (s.ctx d cid).core
  match s.areaLoc d v (vaAdd (s.imageVa d cid) off) .write with
  | some l => if s.inLog l then s else s.hwStore v l w
  | none => s

/-- A dword of the image, behind the writes that its home holds; 0 where the home refuses the read (R356). -/
def State.getImage (s : State) (d cid off : Nat) : Word :=
  match s.areaLoc d (s.ctx d cid).core (vaAdd (s.imageVa d cid) off) .read with
  | some l => if s.frontFailed l then 0 else s.wordBehind l
  | none => 0

/-- Write a scalar register of an image and set its F bit (R324). -/
def State.imageX (s : State) (d cid r : Nat) (w : Word) : State :=
  if r = 0 then s
  else (s.setImage d cid (64 + 8 * r) w).setImage d cid 2432 (s.getImage d cid 2432 ||| (1#64 <<< r))

/-- Write the dwords of a vector register of an image. -/
def State.imageLanes (s : State) (d cid off : Nat) : List Word → State
  | [] => s
  | w :: t => (s.setImage d cid off w).imageLanes d cid (off + 8) t

/-- Write a vector register of an image and set its F bit. -/
def State.imageV (s : State) (d cid r : Nat) (v : VWord) : State :=
  (s.imageLanes d cid (320 + 128 * r) ((List.range 16).map fun k => v.extractLsb' (64 * k) 64)).setImage d cid 2432
    (s.getImage d cid 2432 ||| (1#64 <<< (32 + r)))

/-! ## Landing of answers and fills (R324) -/

/-- The context is evicted, SAVED or on the run queue: its image is its landing place (R321, R324). -/
def Place.outside : Place → Bool
  | .evicted | .saved | .runq _ => true
  | _ => false

/-- A context with this CID lives. -/
def Ctx.alive (c : Ctx) : Bool := c.place != .free && c.place != .ended

/-- The number of a VA's trap: NACK precisely at the access (R313). -/
def nackTrap (va : VA) (n : Nat) : TrapInfo :=
  { cause := 0x05, tval := va.extractLsb' 0 64, sub := n, vahi := va.extractLsb' 64 8 }

/-- The trap that an answer calls for at an access to a VA. -/
def Ans.trap? (va : VA) : Ans → Option TrapInfo
  | .vals _ => none
  | .nack n => some (nackTrap va n)
  | .trap cause tval sub fcode vahi =>
    some { cause := cause, tval := tval, sub := sub, fcode := fcode, vahi := vahi }

/-- The registers and flags that an answer's values change. -/
def Fin.apply (f : Fin) (l : List Word) (c : Ctx) : Ctx :=
  match f with
  | .none => c
  | .reg rd => c.setX rd (l.headD 0)
  | .pair rd => (c.setX rd (l.headD 0)).setX (rd + 1) (l.getD 1 0)
  | .ldv rd => { (c.setX rd (l.headD 0)) with vstale := c.vstale ||| l.getD 1 0 }
  | .steal rd _ => c.setX rd (l.headD 0)
  | .join rd => c.setX rd (l.headD 0)
  | .arrive va => { c with arrival := some ⟨va, (l.headD 0).extractLsb' 0 13⟩ }
  | .barwait rd => { (c.setX rd (l.headD 0)) with arrival := Option.none }
  | .bind rd idx _ => c.setX rd (BitVec.ofNat 64 idx)

/-- The registers that a Fin had emptied become full again when the access traps (the access has had no effect). -/
def Fin.restore (f : Fin) (c : Ctx) : Ctx :=
  let one := fun (r : Reg) (c : Ctx) => c.setX r (c.getX r)
  match f with
  | .reg rd | .ldv rd | .steal rd _ | .join rd | .barwait rd | .bind rd _ _ => one rd c
  | .pair rd => one (rd + 1) (one rd c)
  | .none | .arrive _ => c

/-- A stolen record is written at its offset before rd fills (R273). -/
def State.finMemory (s : State) (d : Nat) (v : Nat) (f : Fin) (l : List Word) : State :=
  match f with
  | .steal _ off => if l.headD 0 = 0 then s.writeBytes (lsLoc d v off) (wordsBytes (l.drop 1)) else s
  | _ => s

/-- A combiner bound by a BARREG whose access has trapped binds what it bound before (R277). -/
def State.finUndo (s : State) (d v : Nat) (f : Fin) : State :=
  match f with
  | .bind _ idx old => s.modCore d v fun k =>
    { k with comb := match old with | some o => Table.set k.comb idx o | none => Table.erase k.comb idx }
  | _ => s

/-- The answer of a JOIN that ends the task (R275). -/
def Fin.ends (f : Fin) (l : List Word) : Bool :=
  match f with
  | .join _ => l.headD 0 != 0 && l.headD 0 != BitVec.allOnes 64
  | _ => false

/-- An answer takes effect for a resident context: it retires, traps, or (JOIN, R275) ends the task. -/
def State.finish (s : State) (d cid : Nat) (va : VA) (f : Fin) (a : Ans) : State :=
  let c := s.ctx d cid
  match a with
  | .vals l =>
    let s := s.finMemory d c.core f l
    let s := (s.setPos d c.core c.pos ⟨.running, cid⟩).setCtx d cid
      { f.apply l c with pc := c.pc + 4, wait := none }
    if f.ends l then s.endContext d cid else s
  | a => match a.trap? va with
    | some t => ((s.finUndo d c.core f).modCtx d cid f.restore).trapCtx d cid t
    | none => s

/-- The fields of an image that an answer's values change (R324). -/
def State.finImage (s : State) (d cid : Nat) (f : Fin) (l : List Word) : State :=
  let x := fun (rd : Reg) => s.imageX d cid rd.toNat (l.headD 0)
  match f with
  | .none => s
  | .reg rd | .join rd => x rd
  | .pair rd => (x rd).imageX d cid (rd + 1).toNat (l.getD 1 0)
  | .ldv rd => let s := x rd; s.setImage d cid 2504 (s.getImage d cid 2504 ||| l.getD 1 0)
  | .steal rd _ => x rd
  | .arrive va => (s.setImage d cid 40 (1#1 ++ 0#50 ++ (l.headD 0).extractLsb' 0 13)).setImage d cid 48 (va.extractLsb' 0 64)
  | .barwait rd => (x rd).setImage d cid 40 0
  | .bind rd idx _ => s.imageX d cid rd.toNat (BitVec.ofNat 64 idx)

/-- An answer lands for a context that waits on it (R324): in the position, or in the image of one that is not resident; a trap, and
the end of a task, wait for the resumption (DEDUCED, log entry 82). -/
def State.landAnswer (s : State) (d cid : Nat) (a : Ans) : State :=
  let c := s.ctx d cid
  match c.wait with
  | some (.reply va f) | some (.word va f) =>
    if c.place = .resident then s.finish d cid va f a
    else if c.alive then
      match a with
      | .vals l =>
        ((s.finMemory d c.core f l).finImage d cid f l).setCtx d cid
          { f.apply l c with landed := if f.ends l then .ans a else .written }
      | a => s.setCtx d cid { c with landed := .ans a }
    else s
  | _ => s

/-- Lower OUT of the m-th of a context's entries, oldest first (DEDUCED, log entry 35). -/
def lowerFwd (cid : Nat) : Nat → List Fwd → List Fwd
  | _, [] => []
  | m, e :: t =>
    if e.cid = cid then
      match m with
      | 0 => { e with out := e.out - 1 } :: t
      | m + 1 => e :: lowerFwd cid m t
    else e :: lowerFwd cid m t

/-- The entries whose OUT is 0 retire. -/
def Core.retireFwd (k : Core) : Core := { k with fwd := k.fwd.filter fun e => e.out != 0 }

/-- An item follows a context's forwarding entries from core v, lowering OUT at each: at a core it comes to again it takes the
next older entry (R323). `seen` holds the cores it has passed. -/
def State.forwardFrom (s : State) (d cid : Nat) (seen : List Nat) : Nat → Nat → State
  | 0, _ => s
  | n + 1, v =>
    let k := s.core d v
    let m := seen.count v
    match (k.fwd.filter fun e => e.cid == cid)[m]? with
    | none => s
    | some e => (s.setCore d v { k with fwd := lowerFwd cid m k.fwd }).forwardFrom d cid (v :: seen) n e.target

/-- An item for a context reaches core v and is sent on to where the context is (R323). -/
def State.forward (s : State) (d cid v : Nat) : State :=
  if (s.core d v).fwd.isEmpty then s
  else
    let s' := s.forwardFrom d cid [] 64 v
    { s' with cores := s'.cores.map fun p => if p.1 / 8192 = d then (p.1, p.2.retireFwd) else p }

/-- A journal entry of a context is acknowledged at core v: OUT of its oldest entry there falls (R323). -/
def State.forwardAck (s : State) (d cid v : Nat) : State :=
  if (s.core d v).fwd.isEmpty then s
  else s.modCore d v fun k => ({ k with fwd := lowerFwd cid 0 k.fwd } : Core).retireFwd

/-- The F bit and the reservation of a fill's register. -/
def Ctx.fillable (c : Ctx) (vec : Bool) (r : Nat) : Bool :=
  if vec then !c.vf.getLsbD r && !c.vr.getLsbD r else !c.xf.getLsbD r && !c.xr.getLsbD r

/-- The fill of a register. -/
def Ctx.fill (c : Ctx) (vec : Bool) (r : Nat) (v : VWord) : Ctx :=
  if vec then c.setV (BitVec.ofNat 4 r) v else c.setX (BitVec.ofNat 5 r) (v.extractLsb' 0 64)

/-- The image register of a fill is empty: its F bit is 0 (R324). -/
def State.imageEmpty (s : State) (d cid : Nat) (vec : Bool) (r : Nat) : Bool :=
  !(s.getImage d cid 2432).getLsbD (if vec then 32 + r else r)

/-- A register is reserved for a result of the context's own (R48). -/
def Ctx.reserved (c : Ctx) (vec : Bool) (r : Nat) : Bool := if vec then c.vr.getLsbD r else c.xr.getLsbD r

/-- An external fill reaches its context (R48, R324): it lands in an empty register that is not reserved, of the position or of the image, or
is held; while a save or a move is in progress it is held until that ends (R325). -/
def State.externalFill (s : State) (d cid : Nat) (vec : Bool) (r : Nat) (v : VWord) (link : Option (Nat × Dir)) : State :=
  let c := s.ctx d cid
  let late := s.heldBack d cid
  let hold := s.setCtx d cid { c with held := c.held ++ [⟨vec, r, v, link, late⟩] }
  if !vec && r = 0 then s
  else if !c.alive then s
  else if late then hold
  else if c.place.outside then
    if s.imageEmpty d cid vec r && !c.reserved vec r then
      (if vec then s.imageV d cid r v else s.imageX d cid r (v.extractLsb' 0 64)).modCtx d cid fun c => c.fill vec r v
    else hold
  else if c.fillable vec r then s.setCtx d cid (c.fill vec r v)
  else hold

/-- The fills that a save or a move has held back land (R324, R325). -/
def State.landLate (s : State) (d cid : Nat) : State :=
  let l := (s.ctx d cid).held.filter (·.late)
  l.foldl (fun s h => s.externalFill d cid h.vec h.reg h.val h.link) (s.modCtx d cid fun c => { c with held := c.held.filter (!·.late) })

/-- The fill of a TRET finds x[r] empty, and reserved for no other result (R48). -/
def Ctx.takesTret (c : Ctx) (empty : Bool) (r : Nat) : Bool := r == 0 || empty && (!c.xr.getLsbD r || c.xc.getLsbD r)

/-- The fill of a TRET lands in the register reserved for it and lowers the count of continuations (R266); it is held while the
register is full, or reserved for another result (R48). -/
def State.tretFill (s : State) (d cid r : Nat) (v : Word) : State :=
  let c := s.ctx d cid
  let c' := { c with conts := c.conts - 1 }
  let hold := { c' with held := c'.held ++ [⟨false, r, v.zeroExtend 1024, none, false⟩] }
  match c.place with
  | .free => s
  | .ended => s.setCtx d cid { c' with place := if c'.conts = 0 then .free else .ended }
  | .evicted | .saved | .runq _ =>
    let s := s.setImage d cid 56 c'.pendImage
    if c.takesTret (s.imageEmpty d cid false r) r then (s.imageX d cid r v).setCtx d cid (c'.setX (BitVec.ofNat 5 r) v)
    else s.setCtx d cid hold
  | .resident => s.setCtx d cid (if c.takesTret (!c.xf.getLsbD r) r then c'.setX (BitVec.ofNat 5 r) v else hold)

/-- The held fills of a register that has just been emptied: the oldest lands (R48, R54). -/
def Ctx.landHeld (c : Ctx) (vec : Bool) (r : Nat) : Ctx :=
  match c.held.find? fun h => h.vec == vec && h.reg == r with
  | some h => { (c.fill vec r h.val) with held := c.held.erase h }
  | none => c

/-! ## Homes (R104, R131) -/

/-- The arithmetic of an AMO or RED on one word (R106). -/
def AmoOp.apply (op : AmoOp) (old a b : Word) : Word :=
  match op with
  | .add => old + a
  | .and => old &&& a
  | .or => old ||| a
  | .xor => old ^^^ a
  | .min => if old.sle a then old else a
  | .max => if old.sle a then a else old
  | .minu => if old ≤ a then old else a
  | .maxu => if old ≤ a then a else old
  | .swap => a
  | .cas => if old = a then b else old
  | .cas2 => old

/-- The low n bytes of a value, extended to a doubleword. -/
def extendBytes (n : Nat) (sgn : Bool) (v : Nat) : Word :=
  if sgn && 2 ^ (8 * n - 1) ≤ v then BitVec.ofNat 64 (v + 2 ^ 64 - 2 ^ (8 * n)) else BitVec.ofNat 64 v

/-- Launch hart h. -/
def Device.launchHart (v : Device) (h : Nat) : LaunchHart := (Table.find v.launch h).getD LaunchHart.reset

/-- A kick register as read (R279). -/
def LaunchHart.read (h : LaunchHart) (off : Nat) : Word :=
  match off with
  | 0 => h.qbase
  | 8 => 0#45 ++ BitVec.ofBool h.lflt ++ BitVec.ofBool h.ovr ++ BitVec.ofBool h.en ++ h.ten ++ 0#3 ++ h.lsz
  | 0x18 => h.head.zeroExtend 64
  | _ => 0

/-- A store to kick register +0x08 (R279). -/
def LaunchHart.config (h : LaunchHart) (w : Word) : LaunchHart :=
  if 16 < (w.extractLsb' 0 5).toNat then h
  else { h with
    en := w.getLsbD 16
    ten := w.extractLsb' 8 8
    lsz := w.extractLsb' 0 5
    ovr := h.ovr && !w.getLsbD 17
    lflt := h.lflt && !w.getLsbD 18 }

/-- A store of TAIL (R279). -/
def LaunchHart.storeTail (h : LaunchHart) (t : BitVec 32) : LaunchHart :=
  if 2 ^ h.lsz.toNat < (t - h.head).toNat then { h with ovr := true } else { h with tail := t }

/-- A store to a kick register by an issuer (R279); a failed hart ignores it (R356). -/
def LaunchHart.write (h : LaunchHart) (off : Nat) (w : Word) (sup : Bool) (tenant : Nat) : LaunchHart :=
  match off with
  | 0 => if sup then { h with qbase := w &&& ~~~0x7F#64 } else h
  | 8 => if sup then h.config w else h
  | 0x10 => if sup || tenant == h.ten.toNat then h.storeTail (w.extractLsb' 0 32) else h
  | _ => h

/-- A read of n bytes at a place: memory, or an engine register. -/
def State.readData (s : State) (loc n : Nat) : Nat :=
  if regionOf loc = .eng then
    let o := locOff loc - 2 ^ 47
    if 0x100000000 ≤ o ∧ o < 0x200000000 then
      (((s.dev (locDev loc)).launchHart ((o - 0x100000000) / 0x1000)).read (o % 0x1000)).toNat
    else s.readMem loc n
  else s.readMem loc n

/-- The dwords of an NVMe binding entry after a write (R44). LBS and CAP are set when V is written as 1, from the namespace; V, LBS and CAP
are 0 when the drive does not report it, which a block size other than 512 bytes to 4 KiB counts as. What LBS and CAP become when V is
written as 0 the spec does not say: they read 0 then (DESIGN CHOICE, log entry 71). -/
def nvmeBind (port : Nat) (w : Word) : Word × Word :=
  let nsid := w.extractLsb' 0 32
  match Config.nvmeNamespace port nsid.toNat with
  | some (lbs, cap) =>
    if w.getLsbD 63 && decide (9 ≤ lbs) && decide (lbs ≤ 12) then
      (1#1 ++ 0#27 ++ BitVec.ofNat 4 lbs ++ nsid, 0#14 ++ BitVec.ofNat 50 cap)
    else (0#32 ++ nsid, 0)
  | none => (0#32 ++ nsid, 0)

/-- What a dword of a view-table entry keeps of a value written: reserved bits read 0 (R3, R175, R176). -/
def viewMask : Nat → Word
  | 0 => 0x0FFFFF0F#64
  | 2 => 0x00FFFFFFFFFF0FFF#64
  | 4 => 0x000000FFFFFF0FFF#64
  | _ => BitVec.allOnes 64

/-- A write of a dword of an engine register by an issuer (R25, R29, R44, R179, R230, R279) (DEDUCED, log entry 66). -/
def State.writeEngine (s : State) (loc : Nat) (w : Word) (who : Issuer) : State :=
  let d := locDev loc
  let o := locOff loc - 2 ^ 47
  if o < 0x200000000 then
    let h := (o - 0x100000000) / 0x1000
    if (s.core d (4920 + h)).failed then s
    else s.modDev d fun v =>
      { v with launch := Table.set v.launch h ((v.launchHart h).write (o % 0x1000) w who.sup who.tenant) }
  else if o < 0x300000000 then
    s.writeWord loc (w &&& (if o % 16 = 0 then 0x0F1FFFFF#64 else 0x0003FFFF0003FFFF#64))
  else if o < 0x400000000 then
    let e := (o - 0x300000000) / 256
    if 208 ≤ o % 256 || (s.dev d).registered.contains e then s else s.writeWord loc (w &&& viewMask (o % 256 / 8))
  else if o < 0x500000000 then
    if o % 16 = 0 then s.writeWord loc (w &&& 0x000FFFFFFFFFFFCD#64) else s
  else if o % 16 = 0 then
    let b := nvmeBind ((o - 0x500000000) / 16) w
    (s.writeWord loc b.1).writeWord (loc + 8) b.2
  else s

/-- A write of the low n bytes of a value at a place. -/
def State.writeData (s : State) (loc n v : Nat) (who : Issuer) : State :=
  if regionOf loc = .eng then s.writeEngine loc (BitVec.ofNat 64 v) who else s.writeMem loc n v

/-- Fields of a barrier word (R276). -/
structure BarWord where
  scope : BitVec 3
  phase : BitVec 13
  dflt : Bool
  count : BitVec 23
  cflt : Bool
  arr : BitVec 23
deriving DecidableEq, Repr

/-- The fields of a word. -/
def BarWord.of (w : Word) : BarWord :=
  ⟨w.extractLsb' 61 3, w.extractLsb' 48 13, w.getLsbD 47, w.extractLsb' 24 23, w.getLsbD 23, w.extractLsb' 0 23⟩

/-- The word of the fields. -/
def BarWord.word (b : BarWord) : Word :=
  b.scope ++ b.phase ++ BitVec.ofBool b.dflt ++ b.count ++ BitVec.ofBool b.cflt ++ b.arr

/-- Complete the phase when every party has arrived (R278). -/
def BarWord.settle (b : BarWord) : BarWord :=
  if b.count ≤ b.arr then { b with phase := b.phase + 1, dflt := b.cflt, arr := 0, cflt := false } else b

/-- The state of a view header and its fault code (R110). -/
def hdrState (h : Word) : Nat := (h.extractLsb' 44 4).toNat
def hdrPol (h : Word) : Nat := (h.extractLsb' 41 2).toNat
def hdrVersion (h : Word) : Nat := (h.extractLsb' 0 40).toNat

/-- LDV on a header (R111): none when it must wait. -/
def ldvAnswer (h : Word) (need : Nat) (va : VA) : Option Ans :=
  let tv := va.extractLsb' 0 64
  let hi := va.extractLsb' 64 8
  if hdrState h = 0 ∨ 3 < hdrState h ∨ hdrPol h = 3 then some (.trap 0x08 tv 6 0 hi)
  else if hdrState h = 3 then some (.trap 0x08 tv 5 (h.extractLsb' 48 8).toNat hi)
  else if need ≤ hdrVersion h then some (.vals [h, 0])
  else match hdrPol h with
    | 0 => none
    | 1 => some (.vals [h, 1])
    | _ => some (.trap 0x0A tv 0 0 hi)

/-- A waiting LDV on a header (R111): none while it goes on waiting. -/
def ldvRetest (h : Word) (need : Nat) (va : VA) : Option Ans :=
  let tv := va.extractLsb' 0 64
  let hi := va.extractLsb' 64 8
  if (hdrState h = 1 ∨ hdrState h = 2) ∧ hdrVersion h < need then none
  else if hdrState h = 0 ∨ 3 < hdrState h ∨ hdrPol h = 3 then some (.trap 0x08 tv 6 0 hi)
  else if hdrState h = 3 then some (.trap 0x08 tv 5 (h.extractLsb' 48 8).toNat hi)
  else match hdrPol h with
    | 0 => some (.vals [h, 0])
    | 1 => some (.vals [h, 1])
    | _ => some (.trap 0x0A tv 0 0 hi)

/-- The home performs an access in one service step (R131): the state after it and its answer, or none when it must wait. -/
def State.perform (s : State) (r : Req) (loc : Nat) : Option (State × Ans) :=
  let w := s.seen r loc
  match r.acc with
  | .load n sgn => some (s, .vals [if s.isHeader 1 loc then 0 else extendBytes n sgn (s.readData loc n)])
  | .ldff => if s.full loc then some (s, .vals [w]) else none
  | .ldfe => if s.full loc then some (s.setFull loc false, .vals [w]) else none
  | .ldv need => (ldvAnswer w need.toNat r.va).map fun a => (s, a)
  | .festat => some (s, .vals [if r.feOk then (BitVec.ofBool (s.full loc)).zeroExtend 64 else 3])
  | .store n d => some (if s.isHeader 0 loc then s else s.writeData loc n d.toNat r.who, .vals [])
  | .stff d => some ((s.put loc d).setFull loc true, .vals [])
  | .stef d => if s.full loc then none else some ((s.put loc d).setFull loc true, .vals [])
  | .femark b => some (s.setFull loc b, .vals [])
  | .amo op a b c d =>
    if op = .cas2 then
      let w2 := s.seen r (loc + 8)
      some (if w = a ∧ w2 = b then (s.put loc c).put (loc + 8) d else s, .vals [w, w2])
    else some (s.put loc (op.apply w a b), .vals [w])
  | .red op a => some (s.put loc (op.apply w a 0), .vals [])
  | .join => some (if w = 0 then s else s.put loc (w - 1), .vals [w - 1])
  | .barset sc n =>
    some (s.put loc { BarWord.of w with scope := sc, count := n, arr := 0, cflt := false }.word, .vals [])
  | .bararv f =>
    let b := BarWord.of w
    some (s.put loc { b with arr := b.arr + 1, cflt := b.cflt || f }.settle.word, .vals [b.phase.zeroExtend 64])
  | .barwait ph =>
    let b := BarWord.of w
    if b.phase = ph then none
    else some (s, .vals [if b.phase = ph + 1 then (BitVec.ofBool b.dflt).zeroExtend 64 else 2])
  | .bardrop =>
    let b := BarWord.of w
    let b' := if b.count = 0 then b else { b with count := b.count - 1 }
    some (s.put loc b'.settle.word, .vals [])
  | .scrub => some ((s.put loc 0).setFull loc true, .vals [])

/-- What an access needs of its page (R34). -/
def Acc.perm : Acc → Perm
  | .load _ _ => .read
  | .ldff => .ldff
  | .ldfe => .ldfe
  | .ldv _ | .festat => .readOnly
  | .store _ _ => .write
  | .stff _ | .stef _ | .femark _ => .sync
  | .amo _ _ _ _ _ | .red _ _ | .join | .barset _ _ | .bararv _ | .barwait _ | .bardrop => .amo
  | .scrub => .writeOnly

/-- An access whose value depends on the word: it is refused when the word is poisoned (R336; DEDUCED, log entry 10). -/
def Acc.reads : Acc → Bool
  | .load _ _ | .ldff | .ldfe | .ldv _ | .amo _ _ _ _ _ | .red _ _ | .join | .bararv _ | .barwait _ | .bardrop => true
  | .barset _ _ => true
  | .store n _ => n != 8
  | _ => false

/-- The answer of an access leaves a part for where its route says. -/
def State.answerFrom (s : State) (src : Nat) (r : Req) (a : Ans) : State :=
  match r.route with
  | .nowhere => s
  | _ => s.send (.ans src r.who r.route a)

/-- The answer of an access leaves its home. -/
def State.answer (s : State) (r : Req) (a : Ans) : State := s.answerFrom r.part r a

/-- The answer of a waiter lands at once when the access is local and its context has not moved; a channel core's LDFE closes its
interval. -/
def State.answerWaiter (s : State) (w : Waiter) (a : Ans) : State :=
  if w.isClose then s.ckptClose w.req (match a with | .vals l => l.headD 0 | _ => 0)
  else
    let who := w.req.who
    if w.isLocal && (s.ctx who.dev who.cid).core == who.vcn && !s.heldBack who.dev who.cid then s.landAnswer who.dev who.cid a
    else s.answer w.req a

/-- A waiting access as its home tests it again and performs it (R104, R111). -/
def State.performWaiting (s : State) (r : Req) (loc : Nat) : Option (State × Ans) :=
  match r.acc with
  | .ldv need => (ldvRetest (s.seen r loc) need.toNat r.va).map fun a => (s, a)
  | _ => s.perform r loc

/-- A waiter that has become performable is served: held when its write needs a record and the log is full (R358), or performed; none when it
goes on waiting, as it does while its word is poisoned, which no NACK reports to it (R313) (DEDUCED, log entry 10). -/
def State.serveWaiter (s : State) (w : Waiter) (l : Nat) : Option State :=
  match s.performWaiting w.req (s.atPort l) with
  | none => none
  | some _ =>
    if w.req.acc.reads && s.poisoned l w.req.acc.width && !w.isClose then none
    else match if w.req.acc.writes && !w.isClose then s.ckpt l else some s with
      | none => some (s.ckptHold w.req l)
      | some s1 => (s1.performWaiting w.req (s1.atPort l)).map fun p => p.1.answerWaiter w p.2

/-- Serve the first performable waiter of a word, in order; none when there is none (R104). -/
def State.serveOne (s : State) (loc : Nat) (pre : List Waiter) : List Waiter → Option State
  | [] => none
  | w :: t =>
    match w.req.loc with
    | some l =>
      if wordOf l = wordOf loc then
        match ({ s with waiters := pre.reverse ++ t } : State).serveWaiter w l with
        | some s' => some s'
        | none => s.serveOne loc (w :: pre) t
      else s.serveOne loc (w :: pre) t
    | none => s.serveOne loc (w :: pre) t

/-- Serve a word's waiters until none is performable; n bounds their number. All that have become performable are served in the step of the
access that changed the word: R104 gives their order and not whether another access comes between two of them (DESIGN CHOICE, log entry 84). -/
def State.serveUpTo (s : State) (loc : Nat) : Nat → State
  | 0 => s
  | n + 1 => match s.serveOne loc [] s.waiters with
    | some s' => s'.serveUpTo loc n
    | none => s

/-- Serve the waiters of a word after a change (R104). -/
def State.serve (s : State) (loc : Nat) : State := s.serveUpTo loc s.waiters.length

/-- Serve the words that an access has changed: CAS2 changes two (R104, R106). -/
def State.serveAcc (s : State) (a : Acc) (loc : Nat) : State :=
  if a.writes then if a.width = 16 then (s.serve loc).serve (loc + 8) else s.serve loc else s

/-- The home takes up an access that nothing refuses: it logs, performs, answers and serves the word, or keeps the access
waiting (R104, R131, R357). -/
def State.homeCore (s : State) (r : Req) (loc : Nat) (isLocal : Bool) : State :=
  let held := if r.acc.writes then s.ckpt loc else some s
  match held with
  | none => s.ckptHold r loc
  | some s1 =>
    match s1.perform r (s1.atPort loc) with
    | none => { s with waiters := s.waiters ++ [⟨{ r with loc := some loc }, isLocal⟩] }
    | some (s2, a) =>
      (if isLocal then s2 else s2.answer r a).serveAcc r.acc loc

/-- While a page moves its old home holds writes, and accesses of a word with a held write; a synchronising access that must wait for
its word, to which no held write applies, joins the word's list (R41). -/
def State.moveHolds (s : State) (r : Req) (loc : Nat) : Option (Nat × PageMove) :=
  match (s.dev (locDev loc)).moveOf loc with
  | none => none
  | some (k, m) =>
    if m.heldAt loc r.acc.width then some (k, m)
    else if r.acc.writes && (s.perform r (s.atPort loc)).isSome then some (k, m)
    else none

/-- Why the home refuses an access, if it does (R24, R336, R354, R356, R359); no access but a MIGRATE reaches a drive (R43). -/
def State.refusal (s : State) (r : Req) (loc : Nat) : Option Nat :=
  let d := locDev loc
  if driveBase ≤ loc then some 4
  else match regionOf loc with
  | .ls =>
    let v := lsVcn loc
    let k := s.core d v
    if k.fenced then some 3
    else if v < 4608 ∧ (v ≠ r.who.vcn ∨ d ≠ r.who.dev) ∧ !r.who.sup ∧ k.tenant ≠ some r.who.tenant then some 2
    else if r.acc.reads && s.poisoned loc r.acc.width then some 5
    else none
  | .hbm | .lp =>
    let v := channelCore loc
    if (s.core d v).failed then some 3
    else if r.acc.writes && s.inLog loc then some 2
    else if r.acc.reads && s.poisoned loc r.acc.width then some 5
    else none
  | _ => none

/-- An access is at its home (R131): it is refused, held by a page move (R41), or taken up. -/
def State.homeTake (s : State) (r : Req) (loc : Nat) : State :=
  match s.refusal r loc with
  | some n => s.answer r (.nack n)
  | none =>
    match s.moveHolds r loc with
    | some (k, m) => s.moveHold r loc k m
    | none => s.homeCore r loc false

/-- An access reaches its home (R131): the peer translates it (R28), and it is taken up. While an entry that the peer's walk reads is
held it stays on its way (R38, R41). -/
def State.homeStep (s : State) (r : Req) : State :=
  match r.loc with
  | some l => s.homeTake r l
  | none =>
    match s.resolveAt r.dst r.who r.va r.acc.perm r.acc.width true with
    | .error f =>
      if f = walkHeld then ({ s with net := s.net ++ [.req r] } : State).awaitWalk r.dst r.who r.va else s.answer r (.nack (nackOf f))
    | .ok t =>
      let r := { r with loc := some t.loc, feOk := t.feOk }
      (s.flits [(gateway r.dst, r.part)] r.route.flits).homeTake r t.loc

/-- The held writes of a channel core become the first of the new interval, in order, while its log has room (R358). -/
def State.drainHeld (s : State) (d v : Nat) : Nat → State
  | 0 => s
  | n + 1 =>
    let c := (s.dev d).log? v
    match c.held with
    | [] => s
    | r :: t =>
      let loc := r.loc.getD 0
      if (s.ckpt loc).isNone then s
      else ((s.modDev d fun dv => { dv with chcore := Table.set dv.chcore v { c with held := t } }).homeCore r loc false).drainHeld d v n

/-- What checkpoint logs leave to the end of a move: waiters on their headers, and writes held before a close. -/
def State.ckptSettle (s : State) : State :=
  s.devs.foldl (fun s p => p.2.chcore.foldl (fun s q =>
    let base := s.ckptBase p.1 q.1
    if !q.2.on then s
    else (if s.full base then s.serve base else s).drainHeld p.1 q.1 q.2.held.length) s) s

/-! ## Issuing accesses -/

/-- A word whose address matches another's, on one device (R98). -/
def sameWord (a b : VA) : Bool := a.extractLsb' 3 69 == b.extractLsb' 3 69

/-- An open entry of a context in the journal of its core. -/
def JEntry.isOpen (e : JEntry) (cid : Nat) : Bool := e.cid == cid && e.ref.isNone && !e.jubilee && !e.gone

/-- Some entry of the journals of a device; those of a context that moved stay at the core it left (R322). -/
def State.anyEntry (s : State) (d : Nat) (f : JEntry → Bool) : Bool :=
  s.cores.any fun p => p.1 / 8192 == d && p.2.journal.any fun q => f q.2

/-- A store of the thread for the same word is unacknowledged (R98). -/
def State.matching (s : State) (dev : Nat) (va : VA) : Bool :=
  s.anyEntry s.cur.dev fun e => e.isOpen s.cur.cid && e.kind < 5 && e.dev == dev && sameWord e.va va

/-- The home of a store lies in a scope, seen from core v of device d: the device accessed, and the place, where it is known (R135). -/
def homeInScope (d v dev : Nat) (loc : Option Nat) (sc : Scope) : Bool :=
  let inLs := fun (f : Nat → Bool) => match loc with
    | some l => dev == d && regionOf l == .ls && f (lsVcn l)
    | none => false
  let noCxl := match loc with | some l => regionOf l != .cxl | none => true
  match sc with
  | .th | .co => inLs fun t => t == v
  | .cl => inLs fun t => t == v || decide (t < 4608) && clusterOf t == clusterOf v
  | .dv => dev == d && noCxl
  | .dm => noCxl
  | .sy => true

/-- The place of a journal entry's store, issued as `who`: on a peer, the one that the peer's translation gives (R28); none when it gives
none, or for a send (DEDUCED, log entry 9). -/
def State.entryLoc (s : State) (who : Issuer) (e : JEntry) : Option Nat :=
  if e.dev = who.dev then e.loc
  else match s.resolveAt e.dev { who with sup := e.sup } e.va .write 8 true with
    | .ok t => some t.loc
    | .error _ => none

/-- The home of a journal entry lies in a scope, seen from the core of its issuer. -/
def State.inScope (s : State) (who : Issuer) (e : JEntry) (sc : Scope) : Bool :=
  homeInScope who.dev who.vcn e.dev (if sc = .dm then s.entryLoc who e else e.loc) sc

/-- `ack_all(sc)` would wait: an earlier posted store of the thread in the scope is unacknowledged (R6, R97); a send's journal entry is
no posted store (DEDUCED, log entry 34). -/
def State.unacked (s : State) (sc : Scope) : Bool :=
  s.anyEntry s.cur.dev fun e => e.isOpen s.cur.cid && decide (e.kind < 5) && s.inScope s.issuer e sc

/-- A supervisor-level thread, which takes no POSTREFUSE (R311), has an earlier store of the scope that was refused (R99). -/
def State.refusedIn (s : State) (sc : Scope) : Bool :=
  s.thread.sup && s.cores.any fun p => p.1 / 8192 == s.cur.dev && p.2.journal.any fun q =>
    q.2.cid == s.cur.cid && q.2.ref.isSome && !q.2.jubilee && !q.2.gone && decide (q.2.kind < 5)
      && s.inScope s.issuer q.2 sc && s.thread.pend.any fun t => match t with | .postrefuse v i _ => v == p.1 % 8192 && i == q.1 | _ => false

/-- An access that a FENCE with set stores holds back: a store, AMO or RED (R109). -/
def Acc.isStore : Acc → Bool
  | .load _ _ | .ldff | .ldfe | .ldv _ | .festat | .barwait _ => false
  | _ => true

/-- The larger of two scopes; each scope contains the ones before it (R135). -/
def scopeRank : Scope → Nat
  | .th => 0 | .co => 0 | .cl => 1 | .dv => 2 | .dm => 3 | .sy => 4
def scopeJoin (a b : Scope) : Scope := if scopeRank a ≤ scopeRank b then b else a

/-- A store, AMO or RED waits for the scope of an earlier FENCE with set stores (R109). -/
def State.storeGate (s : State) (k : State → State) : State :=
  match s.thread.storeFence with
  | none => k s
  | some sc => if s.unacked sc then s.park (.acks sc) else k (s.onThread fun c => { c with storeFence := none })

/-- Every earlier reply-bearing access and every in-scope store is complete, or the thread parks (R101, R109, R134). -/
def State.complete (s : State) (sc : Scope) (k : State → State) : State :=
  if s.thread.split.isSome then s.park .split
  else if s.unacked sc then s.park (.acks sc)
  else k s

/-- As a release at a scope (R101, R134); none is performed after an earlier in-scope store that was refused (R99, R141) (DEDUCED, log
entry 74). -/
def State.release (s : State) (sc : Scope) (k : State → State) : State :=
  s.complete sc fun s => if s.refusedIn sc then s.park (.refused sc) else k s

/-- A thread has one outstanding remote reply-bearing access: a split load makes it wait (R134). -/
def State.alone (s : State) (k : State → State) : State :=
  if s.thread.split.isSome then s.park .split else k s

/-- An access waits for an unacknowledged matching store and for a split load of the same word (R98, R134). -/
def State.inOrder (s : State) (dev : Nat) (va : VA) (k : State → State) : State :=
  if s.matching dev va then s.park (.matching dev va)
  else if (match s.thread.split with | some p => dev == s.cur.dev && p.vas.any (fun q => sameWord va q.2) | none => false) then s.park .split
  else k s

/-- An access of n bytes waits so for each word it names (R98, R131). -/
def State.inOrderN (s : State) (dev : Nat) (va : VA) (n : Nat) (k : State → State) : State :=
  s.inOrder dev va fun s => if n = 16 then s.inOrder dev (va + 8) k else k s

/-- The lowest free entry of the journal (R97). -/
def Core.freeEntry (k : Core) : Option Nat := (List.range 64).find? fun i => (Table.find k.journal i).isNone

/-- Send an access, or answer it with NACK 6 when its device is down (R335). -/
def State.sendReq (s : State) (r : Req) : State :=
  if r.dst ≠ r.who.dev ∧ (s.dev r.who.dev).down.contains r.dst then s.answerFrom (gateway r.who.dev) r (.nack 6)
  else s.send (.req r)

/-- A posted access takes a journal entry and leaves; the thread goes on. A full journal parks it (R97). -/
def State.post (s : State) (r : Req) (e : JEntry) (k : State → State) : State :=
  match s.here.freeEntry with
  | none => s.park .journal
  | some i => k ((s.onCore fun c => { c with journal := Table.set c.journal i e }).sendReq { r with route := .journal i })

/-- An access that may wait at its home (R104, R111, R278). -/
def Acc.waits : Acc → Bool
  | .ldff | .ldfe | .stef _ | .ldv _ | .barwait _ => true
  | _ => false

/-- A remote reply-bearing access: the thread parks on its word or on its reply (R96, R104). -/
def State.request (s : State) (r : Req) (f : Fin) : State :=
  (s.parkOn (if r.acc.waits then .word r.va f else .reply r.va f)).sendReq { r with route := .reply }

end Sys2Proof.Machine
end

