-- ==== Sys2Proof/Machine/Operands.lean ====
section
/-! DEFINITION. Operand forms: readiness and groups of registers, windows and peers, record offsets, and the forms in which an
instruction reads or writes memory (R19, R27, R50, R57, R95 to R99, R263, R291). -/

namespace Sys2Proof.Machine

/-! ## Registers as operands -/

/-- A register that an instruction reads or writes. -/
inductive Opnd where
  | x (r : Reg)
  | v (r : VReg)
  | m (r : MReg)
deriving DecidableEq, Repr

/-- Whether the register is full (R47). -/
def Ctx.full (c : Ctx) : Opnd → Bool
  | .x r => c.fullX r
  | .v r => c.fullV r
  | .m r => c.fullM r

/-- The wait for a register. -/
def Opnd.waitOn : Opnd → WaitOn
  | .x r => .reg r
  | .v r => .vreg r
  | .m r => .mreg r

/-- Operand readiness (R57, step 4): the thread parks until every register named is full, source or destination (R47, R48). -/
def State.ready (s : State) (l : List Opnd) (k : State → State) : State :=
  match l.find? fun o => !s.thread.full o with
  | some o => s.park o.waitOn
  | none => k s

/-- Only the supervisor may execute it (R57, step 2). -/
def State.supervisor (s : State) (k : State → State) : State := if s.thread.sup then k s else s.illegal

/-- A revocable ordered task may not execute it (R291) (DEDUCED, log entry 48). -/
def State.irrevocable (s : State) (k : State → State) : State :=
  if s.thread.revocable then s.trap { cause := 0x00, tval := s.word, sub := 1 } else k s

/-- The register group is aligned (R50). -/
def State.group (s : State) (ok : Bool) (k : State → State) : State := if ok then k s else s.regGroup

/-- The VA of a window and an effective address (R19). -/
def Ctx.va (c : Ctx) (aw : BitVec 2) (ea : Word) : VA := (c.aw[aw.toNat]'aw.isLt) ++ ea

/-- The VA {awN, x[rs1]} of custom-0 and vector instructions (R20). -/
def State.windowVa (s : State) (aw : BitVec 2) (rs1 : Reg) : VA := s.thread.va aw (s.thread.getX rs1)

/-- Alignment of an access of n bytes, which also keeps it inside its 64 KiB (R36, R100). -/
def State.aligned (s : State) (va : VA) (n : Nat) (k : State → State) : State :=
  if va.toNat % n = 0 then k s else s.misalignVa va

/-- The device that a peer operand names (R27). -/
def State.peer (s : State) (xp : Reg) (va : VA) (k : Nat → State → State) : State :=
  let n := (s.thread.getX xp).toNat
  if xp = 0#5 ∨ n = s.cur.dev then k s.cur.dev s
  else if s.inDomain s.cur.dev n then k n s
  else s.trap (nackTrap va 6)

/-- A record offset (R263). -/
def State.recordOffset (s : State) (w : Word) (k : Nat → State → State) : State :=
  if w.toNat % 64 ≠ 0 then s.misalign w
  else if 0x40000 < w.toNat + 64 then s.illegalVal w
  else k w.toNat s

/-- The place of an access on the own device, or none at a peer; a fault traps at issue (R35), and a walk whose entry is held at its home
waits (R38, R41). -/
def State.resolve (s : State) (dev : Nat) (va : VA) (p : Perm) (width : Nat) (k : Option Target → State → State) : State :=
  if dev = s.cur.dev then
    match s.resolveAt dev s.issuer va p width false with
    | .ok t => k (some t) s
    | .error f => if f = walkHeld then s.parkHeld va else s.trapVa f.1 va f.2
  else k none s

/-- The VA names local storage (R21). -/
def isLsVa (va : VA) : Bool := va.extractLsb' 68 4 == 0x8#4 || va.extractLsb' 68 4 == 0x9#4

/-- The place of a store, RED or F/E write. A revocable task's is translated and checked only when it is performed (R301); its own core's
local storage is known from the VA. -/
def State.resolveStore (s : State) (dev : Nat) (va : VA) (p : Perm) (width : Nat) (k : Option Target → State → State) : State :=
  if s.thread.revocable then
    k (match s.resolveAt dev s.issuer va p width false with
      | .ok t => if isLsVa va && isOwn s.cur.dev s.cur.vcn t.loc then some t else none
      | .error _ => none) s
  else s.resolve dev va p width k

/-- The place is in the own core's local storage (R95). -/
def State.isLocal (s : State) (t : Option Target) : Bool :=
  match t with
  | some t => isOwn s.cur.dev s.cur.vcn t.loc
  | none => false

/-! ## Reply-bearing accesses -/

/-- The request of the thread for an access. -/
def State.reqOf (s : State) (dev : Nat) (va : VA) (t : Option Target) (a : Acc) : Req :=
  ⟨s.issuer, dev, va, t.map (·.loc), (t.map (·.feOk)).getD false, a, .reply⟩

/-- A local access is performed in its rotation (R95); one that must wait parks the thread in the word's list (R104). -/
def State.localAccess (s : State) (r : Req) (loc : Nat) (f : Fin) : State :=
  if r.acc.reads && s.poisoned loc r.acc.width then (s.finUndo s.cur.dev s.cur.vcn f).trap (nackTrap r.va 5)
  else match s.perform r loc with
    | none =>
      { s.parkOn (.word r.va f) with waiters := s.waiters ++ [⟨{ r with loc := some loc }, true⟩] }
    | some (s', .vals l) => (s'.finish s.cur.dev s.cur.cid r.va f (.vals l)).serveAcc r.acc loc
    | some (s', a) => match a.trap? r.va with
      | some t => (s'.finUndo s.cur.dev s.cur.vcn f).trap t
      | none => s'

/-- A reply-bearing access (R95, R96): local, or a request whose destination `empty` makes empty (R47). -/
def State.access (s : State) (dev : Nat) (va : VA) (t : Option Target) (a : Acc) (f : Fin) (empty : Ctx → Ctx) : State :=
  let r := s.reqOf dev va t a
  (if a.isStore then s.storeGate else fun k => k s) fun s =>
  s.inOrderN dev va a.width fun s =>
    match t with
    | some t' =>
      if isOwn s.cur.dev s.cur.vcn t'.loc then s.localAccess r t'.loc f
      else s.alone fun s => (s.onThread empty).request r f
    | none => s.alone fun s => (s.onThread empty).request r f

/-! ## Stores and their deferral -/

/-- One effect on a word: a store, RED or F/E write, with the fields that a deferred record keeps (R290). -/
structure Eff where
  /-- The VA. -/
  va : VA
  /-- The device. -/
  dev : Nat
  /-- The place, on the own device. -/
  tgt : Option Target
  /-- KIND 0 XST, 1 STRL, 2 STFF, 3 FEMARK, 4 RED. -/
  kind : Nat
  /-- WIDTH code. -/
  width : Nat
  /-- SCOPE code. -/
  scope : Nat
  /-- OP of a RED. -/
  op : Nat
  /-- The data. -/
  data : Word
  /-- The access. -/
  acc : Acc
deriving DecidableEq, Repr

/-- Window of an ordered channel: first offset and length (R287). -/
def Chan.winBase (c : Chan) : Nat := (c.d1.extractLsb' 0 18).toNat
def Chan.winLen (c : Chan) : Nat := (c.d1.extractLsb' 18 19).toNat

/-- The descriptor of ring 1 undo, 2 output or 3 deferred, its record size, base and count (R287). -/
def Chan.ring (c : Chan) : Nat → Word
  | 1 => c.d2
  | 2 => c.d3
  | _ => c.d4
def ringSize (n : Nat) : Nat := if n = 2 then 32 else 72
def Chan.ringBase (c : Chan) (n : Nat) : Nat := ((c.ring n).extractLsb' 0 18).toNat
def Chan.ringCount (c : Chan) (n : Nat) : Nat := ((c.ring n).extractLsb' 18 14).toNat

/-- Records of a task in a ring. -/
def OTask.inRing (t : OTask) : Nat → Nat
  | 1 => t.nUndo
  | 2 => t.nOut
  | _ => t.nDef

/-- Records in a ring. -/
def Chan.inRing (c : Chan) (n : Nat) : Nat := c.tasks.foldl (fun a t => a + t.inRing n) 0

/-- The write position of a ring. -/
def Chan.writePos (c : Chan) : Nat → Nat
  | 1 => c.wu
  | 2 => c.wo
  | _ => c.wd

/-- Set the write position of a ring. -/
def Chan.setWritePos (c : Chan) (n w : Nat) : Chan :=
  if n = 1 then { c with wu := w } else if n = 2 then { c with wo := w } else { c with wd := w }

/-- One more record of a task in a ring. -/
def OTask.addRing (t : OTask) (n : Nat) : OTask :=
  if n = 1 then { t with nUndo := t.nUndo + 1 }
  else if n = 2 then { t with nOut := t.nOut + 1 } else { t with nDef := t.nDef + 1 }

/-- The running task of a context. -/
def Chan.taskOf (c : Chan) (cid : Nat) : Option OTask := c.tasks.find? fun t => t.cid == some cid

/-- Change the running task of a context. -/
def Chan.onTask (c : Chan) (cid : Nat) (f : OTask → OTask) : Chan :=
  { c with tasks := c.tasks.map fun t => if t.cid = some cid then f t else t }

/-- The thread needs `n` more records in ring `r`: VTRING when they can never fit, a wait while older tasks' records fill the
ring (R292). -/
def State.ringRoom (s : State) (r n : Nat) (k : State → State) : State :=
  let c := s.here.chan s.thread.chan.toNat
  let own := ((c.taskOf s.cur.cid).map fun t => t.inRing r).getD 0
  if n = 0 then k s
  else if c.ringCount r < own + n then s.trap { cause := 0x0D, tval := 0, sub := r }
  else if c.ringCount r < c.inRing r + n then s.park (.ring s.thread.chan.toNat r)
  else k s

/-- Write one record of the thread's task into ring r (R292). -/
def State.ringWrite (s : State) (r : Nat) (b : List Byte) : State :=
  let ch := s.thread.chan.toNat
  let c := s.here.chan ch
  let w := c.writePos r
  (s.onCore fun k => k.setChan ch
    ((c.setWritePos r ((w + 1) % max 1 (c.ringCount r))).onTask s.cur.cid fun t => t.addRing r)).writeBytes
      (lsLoc s.cur.dev s.cur.vcn (c.ringBase r + ringSize r * w)) b

/-- The LINE record of a line of the window (R288), once for each line of a task (R291). -/
def State.logLine (s : State) (off : Nat) : State :=
  let ch := s.thread.chan.toNat
  let line := off - off % 64
  let old := Memory.bytes s.mem (lsLoc s.cur.dev s.cur.vcn line) 64
  (s.ringWrite 1 (wordsBytes [BitVec.ofNat 64 (2 ^ 62 + line)] ++ old)).onCore fun k =>
    k.setChan ch ((k.chan ch).onTask s.cur.cid fun t => { t with lines := line :: t.lines })

/-- The offset in the state window that a store of kind 0 changes, if it does (R291). -/
def State.inWindow (s : State) (e : Eff) : Option Nat :=
  match e.tgt with
  | some t =>
    if isOwn s.cur.dev s.cur.vcn t.loc && e.kind == 0 then
      let off := t.loc - lsLoc s.cur.dev s.cur.vcn 0
      let c := s.here.chan s.thread.chan.toNat
      if c.winBase ≤ off ∧ off < c.winBase + c.winLen then some off else none
    else none
  | none => none

/-- The header of a deferred record (R290). -/
def Eff.header (e : Eff) (own : Nat) : Word :=
  BitVec.ofNat 4 e.kind ++ e.va.extractLsb' 64 8 ++ BitVec.ofNat 3 e.scope
    ++ BitVec.ofNat 2 (if e.kind = 0 then e.width else 3) ++ BitVec.ofNat 4 (if e.kind = 4 then e.op else 0)
    ++ BitVec.ofBool (e.dev != own) ++ BitVec.ofNat 12 (if e.dev = own then 0 else e.dev) ++ 0#30

/-- The record of a deferred effect. -/
def Eff.bytes (e : Eff) (own : Nat) : List Byte :=
  wordsBytes ([e.header own, e.va.extractLsb' 0 64, e.data] ++ List.replicate 6 0)

/-- Lines of the window that effects will log for the first time. -/
def State.newLines (s : State) (l : List Eff) : List Nat :=
  let c := s.here.chan s.thread.chan.toNat
  let have_ := ((c.taskOf s.cur.cid).map fun t => t.lines).getD []
  (l.filterMap fun e => (s.inWindow e).map fun o => o - o % 64).foldl
    (fun a n => if have_.contains n || a.contains n then a else a ++ [n]) []

/-- An effect of a revocable task: a window store is performed, and its word served; every other effect is deferred (R291). -/
def State.revocableEff (s : State) (e : Eff) : State :=
  match s.inWindow e, e.tgt with
  | some _, some t => match s.perform ⟨s.issuer, e.dev, e.va, some t.loc, t.feOk, e.acc, .nowhere⟩ t.loc with
    | some (s', _) => s'.serve t.loc
    | none => s
  | _, _ => s.ringWrite 3 (e.bytes s.cur.dev)

/-- The journal entry of a posted effect (R97, R314). -/
def Eff.entry (e : Eff) (cid own : Nat) (sup : Bool) : JEntry :=
  ⟨none, cid, e.va, e.dev, e.dev != own, e.tgt.map (·.loc), e.kind, e.op, e.width, e.scope, e.data, 0, 0, false, false, false, sup⟩

/-- One effect of an instruction that defers nothing: performed here, or posted (R95, R97, R98). -/
def State.effect (s : State) (e : Eff) (k : State → State) : State :=
  s.storeGate fun s =>
  s.inOrder e.dev e.va fun s =>
    let r := s.reqOf e.dev e.va e.tgt e.acc
    match e.tgt with
    | some t =>
      if isOwn s.cur.dev s.cur.vcn t.loc then
        match s.perform r t.loc with
        | some (s', _) => k (s'.serve t.loc)
        | none => k s
      else s.post r (e.entry s.cur.cid s.cur.dev s.thread.sup) k
    | none => s.post r (e.entry s.cur.cid s.cur.dev s.thread.sup) k

/-- The effects of an instruction in order; those before `sent` have left already. -/
def State.effectList (s : State) (n : Nat) (k : State → State) : List Eff → State
  | [] => k (s.onThread fun c => { c with sent := 0 })
  | e :: t =>
    if n < s.thread.sent then s.effectList (n + 1) k t
    else s.effect e fun s => (s.onThread fun c => { c with sent := n + 1 }).effectList (n + 1) k t

/-- Every word of a list of effects may be accessed (R98, R134). -/
def State.inOrderAll (s : State) (k : State → State) : List Eff → State
  | [] => k s
  | e :: t => s.inOrder e.dev e.va fun s => s.inOrderAll k t

/-- Stores, REDs and F/E writes of an instruction: for a revocable task logged, performed in its window or deferred, all at
once (R291, R292); otherwise performed or posted (R97). -/
def State.effects (s : State) (l : List Eff) (k : State → State) : State :=
  if s.thread.revocable then
    s.storeGate fun s => s.inOrderAll (fun s =>
    let lines := s.newLines l
    let defer := (l.filter fun e => (s.inWindow e).isNone).length
    s.ringRoom 1 lines.length fun s =>
      s.ringRoom 3 defer fun s =>
        k (l.foldl State.revocableEff (lines.foldl State.logLine s))) l
  else s.effectList 0 k l

/-- The one effect of a scalar store, RED or F/E write. -/
def State.effect1 (s : State) (e : Eff) (k : State → State) : State :=
  if s.thread.revocable then s.effects [e] k else s.effect e k

end Sys2Proof.Machine
end

