-- ==== Sys2Proof/Machine/Flags.lean ====
section
/-! DEFINITION. The flag computations: binary formats, the one rounding of every vector floating-point result with its flags
(R153, R154, R157), and the counted events (R171). Values are exact: a magnitude n·2^e, and a mark for a remainder below 2^e. -/

namespace Sys2Proof.Machine

/-! ## Flags -/

/-- The five flags of vflags: NV, DZ, OF, UF, NX in bits 4 to 0 (R53). -/
abbrev VFlags := BitVec 5

/-- Invalid. -/
def flagNV : VFlags := 16
/-- Division by zero. -/
def flagDZ : VFlags := 8
/-- Overflow, always with inexact. -/
def flagOF : VFlags := 5
/-- Underflow, with inexact. -/
def flagUF : VFlags := 3
/-- Inexact. -/
def flagNX : VFlags := 1
/-- The flag when a condition holds. -/
def flagIf (b : Bool) (f : VFlags) : VFlags := if b then f else 0

/-- The flags of an instruction are ORed into vflags (R154, R202). -/
def Ctx.raise (c : Ctx) (f : VFlags) : Ctx := { c with vflags := c.vflags ||| f.zeroExtend 64 }

/-! ## Counts -/

/-- The sum of two counts. -/
def Counts.add (a b : Counts) : Counts := ⟨a.sat + b.sat, a.nan + b.nan, a.ovf + b.ovf, a.fmt + b.fmt, a.req + b.req⟩

/-- One SAT event. -/
def Counts.satOnce : Counts := ⟨1, 0, 0, 0, 0⟩
/-- One NAN event. -/
def Counts.nanOnce : Counts := ⟨0, 1, 0, 0, 0⟩
/-- One SCALEOVF event. -/
def Counts.ovfOnce : Counts := ⟨0, 0, 1, 0, 0⟩
/-- One FORMAT event. -/
def Counts.fmtOnce : Counts := ⟨0, 0, 0, 1, 0⟩
/-- One REQUANT event. -/
def Counts.reqOnce : Counts := ⟨0, 0, 0, 0, 1⟩

/-- The counts when a condition holds. -/
def countIf (b : Bool) (c : Counts) : Counts := if b then c else Counts.zero

/-- A saturating counter of w bits. -/
def satAdd (w a b : Nat) : Nat := min (2 ^ w - 1) (a + b)

/-- The five counters of mcnt: SAT, NAN, SCALEOVF, FORMAT, REQUANT (R243). -/
def mcntFields (m : Word) : Counts :=
  ⟨(m.extractLsb' 0 16).toNat, (m.extractLsb' 16 12).toNat, (m.extractLsb' 28 12).toNat, (m.extractLsb' 40 12).toNat,
    (m.extractLsb' 52 12).toNat⟩

/-- The mcnt of five counters, each saturating (R243). -/
def mcntWord (c : Counts) : Word :=
  let f := fun (w n : Nat) => BitVec.ofNat w (min (2 ^ w - 1) n)
  f 12 c.req ++ f 12 c.fmt ++ f 12 c.ovf ++ f 12 c.nan ++ f 16 c.sat

/-- Counts are added to mcnt (R171, R243). -/
def addCounts (m : Word) (c : Counts) : Word := mcntWord ((mcntFields m).add c)

/-- The lowest counter that crosses a threshold when counts are added: 0 SAT, 1 NAN, 2 SCALEOVF, 3 FORMAT (R244). -/
def crossing (m thr : Word) (c : Counts) : Option Nat :=
  let t := (thr.extractLsb' 0 16).toNat
  let b := mcntFields m
  let a := mcntFields (addCounts m c)
  let x := fun (p q : Nat) => t != 0 && decide (p < t) && decide (t ≤ q)
  if x b.sat a.sat then some 0
  else if x b.nan a.nan then some 1
  else if x b.ovf a.ovf then some 2
  else if x b.fmt a.fmt then some 3
  else none

/-! ## Formats and exact values -/

/-- A binary interchange format: exponent and fraction bits (R153). -/
structure FFmt where
  ebits : Nat
  fbits : Nat
deriving DecidableEq, Repr

/-- FP32. -/
def fp32 : FFmt := ⟨8, 23⟩
/-- BF16. -/
def bf16 : FFmt := ⟨8, 7⟩
/-- FP16. -/
def fp16 : FFmt := ⟨5, 10⟩

/-- The format of a float lane type. -/
def VTy.fmt : VTy → FFmt
  | .f32 => fp32
  | .bf16 => bf16
  | _ => fp16

/-- The exponent bias. -/
def FFmt.bias (f : FFmt) : Int := 2 ^ (f.ebits - 1) - 1
/-- The exponent of the least quantum. -/
def FFmt.qmin (f : FFmt) : Int := 1 - f.bias - f.fbits
/-- The sign bit's place. -/
def FFmt.signBit (f : FFmt) : Nat := f.ebits + f.fbits
/-- The code of +infinity. -/
def FFmt.inf (f : FFmt) : Nat := (2 ^ f.ebits - 1) * 2 ^ f.fbits
/-- The canonical NaN (R153). -/
def FFmt.nan (f : FFmt) : Nat := f.inf + 2 ^ (f.fbits - 1)
/-- The code of a signed magnitude code. -/
def FFmt.signed (f : FFmt) (neg : Bool) (m : Nat) : Nat := if neg then m + 2 ^ f.signBit else m

/-- An exact finite value: (−1)^neg · n · 2^e. -/
structure Ex where
  neg : Bool
  n : Nat
  e : Int
deriving DecidableEq, Repr

/-- A decoded floating-point value. -/
inductive FVal where
  /-- A NaN; signalling when its most significant fraction bit is 0 (R154). -/
  | nan (signalling : Bool)
  /-- An infinity. -/
  | inf (neg : Bool)
  /-- A finite value. -/
  | fin (x : Ex)
deriving DecidableEq, Repr

/-- Decode a code (R153): subnormals are always read. -/
def FFmt.decode (f : FFmt) (c : Nat) : FVal :=
  let neg := decide (2 ^ f.signBit ≤ c % 2 ^ (f.signBit + 1))
  let ex := c / 2 ^ f.fbits % 2 ^ f.ebits
  let fr := c % 2 ^ f.fbits
  if ex = 2 ^ f.ebits - 1 then
    if fr = 0 then .inf neg else .nan (decide (fr < 2 ^ (f.fbits - 1)))
  else if ex = 0 then .fin ⟨neg, fr, f.qmin⟩
  else .fin ⟨neg, fr + 2 ^ f.fbits, f.qmin + (ex - 1 : Int)⟩

/-- Bits of a magnitude. -/
def bitLen (n : Nat) : Nat := if n = 0 then 0 else Nat.log2 n + 1

/-- floor(log2) of a non-zero value. -/
def Ex.log2 (x : Ex) : Int := x.e + bitLen x.n - 1

/-- A rounding direction: to nearest even, or toward zero (R154). -/
inductive Rnd where
  | ne | tz
deriving DecidableEq, Repr

/-- Round n·2^e (plus a remainder below 2^e when sticky) to a multiple of 2^q: the multiple, and whether it is inexact. -/
def roundAt (r : Rnd) (n : Nat) (e : Int) (sticky : Bool) (q : Int) : Nat × Bool :=
  if q ≤ e then (n * 2 ^ (e - q).toNat, sticky)
  else
    let sh := (q - e).toNat
    if bitLen n + 2 ≤ sh then (0, n != 0 || sticky)
    else
      let m := n / 2 ^ sh
      let rest := n % 2 ^ sh
      let half := 2 ^ (sh - 1)
      let up := match r with
        | .tz => false
        | .ne => decide (half < rest) || rest == half && (sticky || m % 2 == 1)
      (if up then m + 1 else m, rest != 0 || sticky)

/-- The quantum exponent of a value in a format. -/
def FFmt.quantum (f : FFmt) (n : Nat) (e : Int) : Int := max (e + bitLen n - 1 - f.fbits) f.qmin

/-- Round an exact magnitude once to a format (R154): the code and the flags OF, UF, NX. -/
def FFmt.round (f : FFmt) (r : Rnd) (neg : Bool) (n : Nat) (e : Int) (sticky : Bool) : Nat × VFlags :=
  if n = 0 then (f.signed neg 0, 0)
  else
  let q := f.quantum n e
  let (m, nx) := roundAt r n e sticky q
  let code := (q - f.qmin).toNat * 2 ^ f.fbits + m
  if f.inf ≤ code then
    (f.signed neg (match r with | .ne => f.inf | .tz => f.inf - 1), flagOF)
  else
    let top := e + bitLen n - 1
    let emin := f.qmin + f.fbits
    let tiny := if top < emin then
        top < emin - 1 || decide ((roundAt r n e sticky (top - f.fbits)).1 < 2 ^ (f.fbits + 1))
      else false
    (f.signed neg code, flagIf nx flagNX ||| flagIf (nx && tiny) flagUF)

/-- Round an exact value. -/
def FFmt.roundEx (f : FFmt) (r : Rnd) (x : Ex) : Nat × VFlags := f.round r x.neg x.n x.e false

end Sys2Proof.Machine
end

