-- ==== Sys2Proof/Machine/Float.lean ====
section
/-! DEFINITION. The arithmetic of floating lanes (R154 to R158, R204 to R209, R211): each operation gives a code and its
flags. -/

namespace Sys2Proof.Machine

/-- A result: a code of the destination format, and the flags raised. -/
abbrev FRes := Nat × VFlags

/-- A signalling NaN raises NV (R154). -/
def FVal.snan : FVal → Bool
  | .nan b => b
  | _ => false

/-- The canonical NaN, with NV when asked. -/
def FFmt.nanRes (f : FFmt) (nv : Bool) : FRes := (f.nan, flagIf nv flagNV)

/-- The sum of exact values, rounded; an exact zero sum is +0, or −0 when both addends are −0 (R155). -/
def FFmt.addEx (f : FFmt) (a b : Ex) : FRes :=
  let e := min a.e b.e
  let v := fun (x : Ex) => (if x.neg then -1 else 1 : Int) * (x.n * 2 ^ (x.e - e).toNat : Nat)
  let s := v a + v b
  if s = 0 then (f.signed (a.neg && b.neg) 0, 0)
  else f.round .ne (decide (s < 0)) s.natAbs e false

/-- a + b (R154, R155). -/
def FFmt.add (f : FFmt) (a b : FVal) : FRes :=
  match a, b with
  | .nan p, b => f.nanRes (p || b.snan)
  | a, .nan p => f.nanRes (p || a.snan)
  | .inf p, .inf q => if p = q then (f.signed p f.inf, 0) else f.nanRes true
  | .inf p, .fin _ => (f.signed p f.inf, 0)
  | .fin _, .inf q => (f.signed q f.inf, 0)
  | .fin x, .fin y => f.addEx x y

/-- A value with its sign inverted. -/
def FVal.negate : FVal → FVal
  | .nan b => .nan b
  | .inf n => .inf !n
  | .fin x => .fin { x with neg := !x.neg }

/-- The product of exact values. -/
def Ex.mul (a b : Ex) : Ex := ⟨a.neg != b.neg, a.n * b.n, a.e + b.e⟩

/-- a × b (R154, R206). -/
def FFmt.mul (f : FFmt) (a b : FVal) : FRes :=
  match a, b with
  | .nan p, b => f.nanRes (p || b.snan)
  | a, .nan p => f.nanRes (p || a.snan)
  | .inf p, .inf q => (f.signed (p != q) f.inf, 0)
  | .inf p, .fin y => if y.n = 0 then f.nanRes true else (f.signed (p != y.neg) f.inf, 0)
  | .fin x, .inf q => if x.n = 0 then f.nanRes true else (f.signed (x.neg != q) f.inf, 0)
  | .fin x, .fin y => f.roundEx .ne (x.mul y)

/-- A zero times an infinity (R206). -/
def zeroTimesInf : FVal → FVal → Bool
  | .inf _, .fin y => y.n == 0
  | .fin x, .inf _ => x.n == 0
  | _, _ => false

/-- a × b + c, rounded once (R155); zero times infinity is invalid whatever the addend (R206). -/
def FFmt.fma (f : FFmt) (a b c : FVal) : FRes :=
  let nv := a.snan || b.snan || c.snan || zeroTimesInf a b
  match a, b, c with
  | .nan _, _, _ => f.nanRes nv
  | _, .nan _, _ => f.nanRes nv
  | a, b, .nan _ => f.nanRes (nv || zeroTimesInf a b)
  | .fin x, .fin y, .fin z => f.addEx (x.mul y) z
  | .fin _, .fin _, .inf r => (f.signed r f.inf, 0)
  | a, b, c =>
    if zeroTimesInf a b then f.nanRes true
    else
      let sg := fun (v : FVal) => match v with | .inf n => n | .fin x => x.neg | .nan _ => false
      let p := sg a != sg b
      match c with
      | .inf r => if p = r then (f.signed p f.inf, 0) else f.nanRes true
      | _ => (f.signed p f.inf, 0)

/-- a ÷ b (R155). -/
def FFmt.div (f : FFmt) (a b : FVal) : FRes :=
  match a, b with
  | .nan p, b => f.nanRes (p || b.snan)
  | a, .nan p => f.nanRes (p || a.snan)
  | .inf _, .inf _ => f.nanRes true
  | .inf p, .fin y => (f.signed (p != y.neg) f.inf, 0)
  | .fin x, .inf q => (f.signed (x.neg != q) 0, 0)
  | .fin x, .fin y =>
    if y.n = 0 then
      if x.n = 0 then f.nanRes true else (f.signed (x.neg != y.neg) f.inf, flagDZ)
    else if x.n = 0 then (f.signed (x.neg != y.neg) 0, 0)
    else
      let k := f.fbits + 4 + bitLen y.n
      let n := x.n * 2 ^ k
      f.round .ne (x.neg != y.neg) (n / y.n) (x.e - y.e - k) (n % y.n != 0)

/-- floor(√n) by bits from 2^k down, starting at r. -/
def isqrtFrom (n : Nat) : Nat → Nat → Nat
  | 0, r => r
  | k + 1, r =>
    let t := r + 2 ^ k
    isqrtFrom n k (if t * t ≤ n then t else r)

/-- floor(√n). -/
def isqrt (n : Nat) : Nat := isqrtFrom n (bitLen n / 2 + 1) 0

/-- √a (R155). -/
def FFmt.sqrt (f : FFmt) (a : FVal) : FRes :=
  match a with
  | .nan p => f.nanRes p
  | .inf n => if n then f.nanRes true else (f.inf, 0)
  | .fin x =>
    if x.n = 0 then (f.signed x.neg 0, 0)
    else if x.neg then f.nanRes true
    else
      let odd := x.e % 2 ≠ 0
      let n := x.n * 2 ^ (2 * (f.fbits + 4) + (if odd then 1 else 0))
      let e := x.e - 2 * (f.fbits + 4) - (if odd then 1 else 0)
      let r := isqrt n
      f.round .ne false r (e / 2) (r * r != n)

/-- 1/√a (R155). -/
def FFmt.rsqrt (f : FFmt) (a : FVal) : FRes :=
  match a with
  | .nan p => f.nanRes p
  | .inf n => if n then f.nanRes true else (0, 0)
  | .fin x =>
    if x.n = 0 then (f.signed x.neg f.inf, flagDZ)
    else if x.neg then f.nanRes true
    else
      let odd : Nat := if x.e % 2 ≠ 0 then 1 else 0
      let k := bitLen x.n + 2 * f.fbits + 8 + bitLen x.n % 2
      let num := 2 ^ (2 * k + odd)
      let r := isqrt (num / x.n)
      f.round .ne false r (-(k : Int) - (x.e + odd) / 2) (r * r * x.n != num)

/-! ### VEXP2 and VLOG2

Both are correctly rounded (R155). An inexact result is irrational, so no rounding boundary is hit; it is computed to 2^−240,
far below the distance of any binary32 result from a boundary (DEDUCED, log entry 20). -/

/-- floor(ln 2 · 2^256). -/
def ln2Fix : Nat := 0xb17217f7d1cf79abc9e3b39803f2f6af40f343267298b62d8a0d175b8baafa2b

/-- Terms y^k/k! of exp, fixed point at 2^256, from term t with index k. -/
def expTerms (y : Nat) : Nat → Nat → Nat → Nat
  | 0, _, _ => 0
  | n + 1, k, t => t + expTerms y n (k + 1) (t * y / 2 ^ 256 / (k + 1))

/-- 2^f · 2^256 for a fraction f · 2^256. -/
def exp2Fix (f : Nat) : Nat := expTerms (f * ln2Fix / 2 ^ 256) 64 0 (2 ^ 256)

/-- 2^a (R155). -/
def FFmt.exp2 (f : FFmt) (a : FVal) : FRes :=
  match a with
  | .nan p => f.nanRes p
  | .inf n => if n then (0, 0) else (f.inf, 0)
  | .fin x =>
    if x.n = 0 then f.round .ne false 1 0 false
    else if 64 < x.log2 then
      if x.neg then f.round .ne false 1 (-(2 ^ 64)) true else f.round .ne false 1 (2 ^ 64) false
    else
      let mag : Nat := if 0 ≤ x.e then x.n * 2 ^ x.e.toNat * 2 ^ 256 else x.n * 2 ^ 256 / 2 ^ (-x.e).toNat
      let v : Int := if x.neg then -(mag : Int) else mag
      let i := v / 2 ^ 256
      let fr := (v % 2 ^ 256).toNat
      if fr = 0 then f.round .ne false 1 i false
      else f.round .ne false (exp2Fix fr) (i - 256) true

/-- Terms z^(2k+1)/(2k+1) of artanh, fixed point at 2^256, from power p = z^(2k+1). -/
def atanhTerms (z2 : Nat) : Nat → Nat → Nat → Nat
  | 0, _, _ => 0
  | n + 1, k, p => p / (2 * k + 1) + atanhTerms z2 n (k + 1) (p * z2 / 2 ^ 256)

/-- log2 of m/2^b for 2^b ≤ m < 2^(b+1), fixed point at 2^256. -/
def log2Fix (m b : Nat) : Nat :=
  let z := (m - 2 ^ b) * 2 ^ 256 / (m + 2 ^ b)
  2 * atanhTerms (z * z / 2 ^ 256) 90 0 z * 2 ^ 256 / ln2Fix

/-- log2 a (R155). -/
def FFmt.log2 (f : FFmt) (a : FVal) : FRes :=
  match a with
  | .nan p => f.nanRes p
  | .inf n => if n then f.nanRes true else (f.inf, 0)
  | .fin x =>
    if x.n = 0 then (f.signed true f.inf, flagDZ)
    else if x.neg then f.nanRes true
    else
      let b := bitLen x.n - 1
      let i := x.log2
      if x.n = 2 ^ b then f.round .ne (decide (i < 0)) i.natAbs 0 false
      else
        let v : Int := i * 2 ^ 256 + log2Fix x.n b
        f.round .ne (decide (v < 0)) v.natAbs (-256) true

/-- a × 2^k, rounded once (R208). -/
def FFmt.scale (f : FFmt) (a : FVal) (k : Int) : FRes :=
  match a with
  | .nan p => f.nanRes p
  | .inf n => (f.signed n f.inf, 0)
  | .fin x => if x.n = 0 then (f.signed x.neg 0, 0) else f.round .ne x.neg x.n (x.e + k) false

/-- Compare exact values: negative, zero or positive. -/
def Ex.cmp (a b : Ex) : Int :=
  let e := min a.e b.e
  let v := fun (x : Ex) => (if x.neg then -1 else 1 : Int) * (x.n * 2 ^ (x.e - e).toNat : Nat)
  v a - v b

/-- Order of two values that are not NaN, −0 equal to +0: negative, zero or positive. -/
def FVal.cmp : FVal → FVal → Int
  | .inf a, .inf b => if a = b then 0 else if a then -1 else 1
  | .inf a, _ => if a then -1 else 1
  | _, .inf b => if b then 1 else -1
  | .fin x, .fin y => x.cmp y
  | _, _ => 0

/-- The sign of a value. -/
def FVal.isNeg : FVal → Bool
  | .inf n => n
  | .fin x => x.neg
  | .nan _ => false

/-- The value is a NaN. -/
def FVal.isNaN : FVal → Bool
  | .nan _ => true
  | _ => false

/-- Minimum (or maximum) of two codes (R156): −0 is less than +0, a NaN gives the canonical NaN. -/
def FFmt.minmax (f : FFmt) (max_ : Bool) (a b : Nat) : FRes :=
  let x := f.decode a
  let y := f.decode b
  if x.isNaN || y.isNaN then f.nanRes (x.snan || y.snan)
  else
    let c := x.cmp y
    let less := if c = 0 then x.isNeg else decide (c < 0)
    (if less != max_ then a else b, 0)

/-- A float comparison (R209): the answer and NV. -/
def floatCond (f : FFmt) (cc : Cond) (a b : Nat) : Bool × VFlags :=
  let x := f.decode a
  let y := f.decode b
  let nan := x.isNaN || y.isNaN
  let sn := x.snan || y.snan
  match cc with
  | .eq => (!nan && x.cmp y == 0, flagIf sn flagNV)
  | .ne => (nan || x.cmp y != 0, flagIf sn flagNV)
  | .lt | .ltu => (!nan && decide (x.cmp y < 0), flagIf nan flagNV)
  | .le | .leu => (!nan && decide (x.cmp y ≤ 0), flagIf nan flagNV)

/-- Float to float (R157). -/
def FFmt.convert (src dst : FFmt) (r : Rnd) (a : Nat) : FRes :=
  match src.decode a with
  | .nan p => dst.nanRes p
  | .inf n => (dst.signed n dst.inf, 0)
  | .fin x => if x.n = 0 then (dst.signed x.neg 0, 0) else dst.roundEx r x

/-- Float to signed integer of w bits: saturating; a NaN gives 0; NV excludes NX (R157). -/
def FFmt.toInt (src : FFmt) (r : Rnd) (w : Nat) (a : Nat) : Int × VFlags :=
  let lo : Int := -(2 ^ (w - 1))
  let hi : Int := 2 ^ (w - 1) - 1
  match src.decode a with
  | .nan _ => (0, flagNV)
  | .inf n => (if n then lo else hi, flagNV)
  | .fin x =>
    if (w : Int) < x.log2 then (if x.n = 0 then (0, 0) else (if x.neg then lo else hi, flagNV))
    else
      let (m, nx) := roundAt r x.n x.e false 0
      let v : Int := if x.neg then -(m : Int) else m
      if v < lo then (lo, flagNV) else if hi < v then (hi, flagNV) else (v, flagIf nx flagNX)

/-- Signed integer to float (R157). An i32 beyond the range of f16, of which R157's table says that it cannot occur, gives what a wider float
out of range gives: ±∞ or the largest finite number, with OF and NX (DESIGN CHOICE, log entry 83). -/
def FFmt.ofInt (dst : FFmt) (r : Rnd) (v : Int) : FRes :=
  if v = 0 then (0, 0) else dst.round r (decide (v < 0)) v.natAbs 0 false

end Sys2Proof.Machine
end

