-- ==== Sys2Proof/Machine/Formats.lean ====
section
/-! DEFINITION. The blocked formats and the accumulator (R152, R159 to R170, R378): decoding of elements, quantisation of
blocks, plane form, round96, and the append of a token. -/

namespace Sys2Proof.Machine

/-! ## Elements (R159, R160, R378) -/

/-- The value +0. -/
def FVal.zero : FVal := .fin ⟨false, 0, 0⟩

/-- The signed integer of the low w bits. -/
def signed (w n : Nat) : Int := if 2 ^ (w - 1) ≤ n % 2 ^ w then (n % 2 ^ w : Int) - 2 ^ w else n % 2 ^ w

/-- The low w bits of an integer. -/
def lowBits (w : Nat) (z : Int) : Nat := (z % 2 ^ w).toNat

/-- An integer as an exact value times 2^e. -/
def exOfInt (z e : Int) : Ex := ⟨decide (z < 0), z.natAbs, e⟩

/-- Exponent and fraction bits of a floating element format. -/
def miniFmt (f : Nat) : FFmt :=
  match f with
  | 0 => fp32 | 1 => bf16 | 2 => fp16 | 3 => ⟨4, 3⟩ | 4 => ⟨5, 2⟩ | 5 => ⟨3, 2⟩ | 6 => ⟨2, 3⟩ | _ => ⟨2, 1⟩

/-- The value of an element code of a format without Q4X, before its scale (R153, R159). -/
def elemValue (f c : Nat) : FVal :=
  match f with
  | 0 | 1 | 2 | 4 => (miniFmt f).decode c
  | 8 => .fin (exOfInt (signed 8 c) (-6))
  | 9 => .fin (exOfInt (signed 4 c) 0)
  | _ =>
    let g := miniFmt f
    let neg := decide (2 ^ g.signBit ≤ c % 2 ^ (g.signBit + 1))
    let ex := c / 2 ^ g.fbits % 2 ^ g.ebits
    let fr := c % 2 ^ g.fbits
    if f = 3 && c % 128 == 127 then .nan false
    else if ex = 0 then .fin ⟨neg, fr, g.qmin⟩
    else .fin ⟨neg, fr + 2 ^ g.fbits, g.qmin + (ex - 1 : Int)⟩

/-- The exponent of the largest finite magnitude (R159). -/
def elemEmax (f : Nat) : Int :=
  match f with
  | 3 => 8 | 4 => 15 | 5 => 4 | 8 => 0 | _ => 2

/-- The code of the largest finite magnitude (R159, R378). -/
def elemMax (f : Nat) : Nat :=
  match f with
  | 3 => 0x7E | 4 => 0x7B | 5 => 0x1F | 6 => 0x1F | 7 => 7 | 8 => 127 | _ => 7

/-- The code that a NaN becomes (R161). -/
def elemNaN (f : Nat) : Nat :=
  match f with
  | 3 => 0x7F | 4 => 0x7E | _ => 0

/-- The code of a signed magnitude code. -/
def elemSigned (f : Nat) (neg : Bool) (m : Nat) : Nat :=
  match f with
  | 8 => lowBits 8 (if neg then -(m : Int) else m)
  | 9 | 10 => lowBits 4 (if neg then -(m : Int) else m)
  | _ => (miniFmt f).signed neg m

/-- The magnitude code of n·2^e rounded with RNE, before saturation (R161). -/
def elemMag (f n : Nat) (e : Int) : Nat :=
  match f with
  | 8 => (roundAt .ne n e false (-6)).1
  | 9 | 10 => (roundAt .ne n e false 0).1
  | _ =>
    if n = 0 then 0
    else
      let g := miniFmt f
      let q := g.quantum n e
      (q - g.qmin).toNat * 2 ^ g.fbits + (roundAt .ne n e false q).1

/-- An element v / 2^X in a format (R161, steps 5 and 6; R378). -/
def elemQuant (f : Nat) (x : Int) (v : FVal) : Nat × Counts :=
  match v with
  | .nan _ => (elemNaN f, Counts.nanOnce)
  | .inf neg => (elemSigned f neg (elemMax f), Counts.satOnce)
  | .fin y =>
    let m := elemMag f y.n (y.e - x)
    if elemMax f < m then (elemSigned f y.neg (elemMax f), Counts.satOnce) else (elemSigned f y.neg m, Counts.zero)

/-- A value times the scale of a byte; 0xFF makes it NaN (R160). -/
def FVal.scaled (s : Nat) (v : FVal) : FVal :=
  if s = 255 then .nan false
  else match v with
    | .fin y => .fin { y with e := y.e + ((s : Int) - 127) }
    | v => v

/-- A free code as an element of a format: bits [7:6] of a 6-bit element are 0 (R152), and an integer format never takes its most negative code
(R378). -/
def freeCode (f n : Nat) : Nat :=
  match f with
  | 5 | 6 => n % 64
  | 7 => n % 16
  | 8 => if n % 256 = 128 then 0 else n % 256
  | 9 => if n % 16 = 8 then 0 else n % 16
  | _ => n % 256

/-! ## Quantising a block (R161, R163) -/

/-- floor(log2 |v|) of a finite non-zero value. -/
def FVal.log? : FVal → Option Int
  | .fin y => if y.n = 0 then none else some y.log2
  | _ => none

/-- The largest of a list, if any. -/
def maxInt : List Int → Option Int
  | [] => none
  | a :: t => match maxInt t with
    | none => some a
    | some b => some (max a b)

/-- X of R161 from floor(log2 amax), and whether SCALEOVF counts. -/
def blockExp (log : Option Int) (emax : Int) : Int × Counts :=
  match log with
  | none => (-127, Counts.zero)
  | some l => if 127 < l - emax then (127, Counts.ovfOnce) else (max (-127) (l - emax), Counts.zero)

/-- The counts of a list. -/
def Counts.sum (l : List Counts) : Counts := l.foldl Counts.add Counts.zero

/-- Quantise a block into an MX format or INT4 (R161): codes, scale byte, counts (DEDUCED, log entry 39). -/
def mxBlock (f : Nat) (l : List FVal) : List Nat × Nat × Counts :=
  let (x, c) := blockExp (maxInt (l.filterMap FVal.log?)) (elemEmax f)
  let q := l.map (elemQuant f x)
  (q.map (·.1), (x + 127).toNat, c.add (Counts.sum (q.map (·.2))))

/-- |a| < |b| for finite values. -/
def FVal.absLess : FVal → FVal → Bool
  | .fin a, .fin b => decide (({ a with neg := false } : Ex).cmp { b with neg := false } < 0)
  | _, _ => false

/-- The value is finite. -/
def FVal.isFin : FVal → Bool
  | .fin _ => true
  | _ => false

/-- The lowest index of the largest finite magnitude, from index k, with the best so far. -/
def argMax : List FVal → Nat → Option (Nat × FVal) → Option (Nat × FVal)
  | [], _, best => best
  | v :: t, k, best =>
    argMax t (k + 1) (match best with
      | none => if v.isFin then some (k, v) else none
      | some (j, b) => if b.absLess v then some (k, v) else some (j, b))

/-- Quantise a block into Q4X (R163): codes, scale byte, counts (DEDUCED, log entry 40). -/
def q4xBlock (l : List FVal) : List Nat × Nat × Counts :=
  let top := argMax l 0 none
  let i := (top.map (·.1)).getD 32
  let others := l.zipIdx.filterMap fun (v, k) => if k = i then none else v.log?
  let own := (l[i]?).bind FVal.log?
  let (x, c) := blockExp (match maxInt others with | some a => some a | none => own) 2
  let v := (l[i]?).getD FVal.zero
  let escape := decide (i ≤ 29) && (match v with | .fin y => decide (7 < elemMag 10 y.n (y.e - x)) | _ => false)
  let q := l.map (elemQuant 10 x)
  if escape then
    let b := elemQuant 3 x v
    let out := q.zipIdx.map fun (r, k) =>
      if k = i then ((8, b.2) : Nat × Counts)
      else if k = i + 1 then (b.1 / 16, countIf (r.1 != 0) Counts.satOnce |>.add { r.2 with sat := 0 })
      else if k = i + 2 then (b.1 % 16, countIf (r.1 != 0) Counts.satOnce |>.add { r.2 with sat := 0 })
      else r
    (out.map (·.1), (x + 127).toNat, c.add (Counts.sum (out.map (·.2))))
  else (q.map (·.1), (x + 127).toNat, c.add (Counts.sum (q.map (·.2))))

/-- Quantise a block into an element format 0011 to 1010. -/
def quantBlock (f : Nat) (l : List FVal) : List Nat × Nat × Counts := if f = 10 then q4xBlock l else mxBlock f l

/-! ## Decoding a block (R160, R162) -/

/-- A decoded element, with a FORMAT event when its slot holds an escape without room for a value (R162). -/
abbrev Elem := FVal × Bool

/-- The values of the slots of a Q4X block, before the scale (R162). -/
def q4xDecode : List Nat → List Elem
  | [] => []
  | c :: b :: d :: t =>
    if c = 8 then (elemValue 3 (16 * b + d), false) :: (FVal.zero, false) :: (FVal.zero, false) :: q4xDecode t
    else (elemValue 9 c, false) :: q4xDecode (b :: d :: t)
  | c :: t => (if c = 8 then (FVal.zero, true) else (elemValue 9 c, false)) :: q4xDecode t

/-- The values of a block of codes with its scale byte (R160, R162): the IEEE formats have none. -/
def decodeBlock (f : Nat) (l : List Nat) (s : Nat) : List Elem :=
  let r := if f = 10 then q4xDecode l else l.map fun c => (elemValue f c, false)
  if f ≤ 2 then r else r.map fun e => (e.1.scaled s, e.2)

/-! ## Plane form (R165) -/

/-- A plane-form block of P planes: the elements q, the exponent and the counts (R165). -/
def planeBlock (p : Nat) (l : List FVal) : List Int × Int × Counts :=
  let nans := (l.filter FVal.isNaN).length
  let infs := l.any fun v => match v with | .inf _ => true | _ => false
  let logs := maxInt (l.filterMap FVal.log?)
  let nanC : Counts := ⟨0, nans, 0, 0, 0⟩
  if logs.isNone && !infs then (l.map fun _ => 0, -128, nanC)
  else
    let m := logs.getD (127 + ((p : Int) - 2))
    let e0 := m - ((p : Int) - 2)
    let e := max (-128) (min 127 e0)
    let lim := 2 ^ (p - 1) - 1
    let q := l.map fun v => match v with
      | .nan _ => ((0, Counts.zero) : Int × Counts)
      | .inf neg => (if neg then -(lim : Int) else lim, Counts.satOnce)
      | .fin y =>
        let a := (roundAt .ne y.n y.e false e).1
        let b : Int := if lim < a then lim else a
        (if y.neg then -b else b, countIf (decide (lim < a)) Counts.satOnce)
    (q.map (·.1), e, (nanC.add (countIf (decide (127 < e0)) Counts.ovfOnce)).add (Counts.sum (q.map (·.2))))

/-! ## A96 (R166, R167, R169) -/

/-- q and x of an A96 value as integers. -/
def A96.int (a : A96) : Int := a.q.toInt
def A96.exp (a : A96) : Int := a.x.toInt

/-- The A96 value as an exact value. -/
def A96.ex (a : A96) : Ex := exOfInt a.int a.exp

/-- The A96 of an integer q at exponent x. -/
def A96.mk' (q x : Int) : A96 := ⟨BitVec.ofInt 96 q, BitVec.ofInt 16 x⟩

/-- round96 of z·2^e (R167): the value, and whether SCALEOVF counts. -/
def round96 (z e : Int) : A96 × Bool :=
  if z = 0 then (A96.zero, false)
  else
    let low := e + bitLen z.natAbs - 96
    let at_ := fun (k : Int) =>
      let x := max (-32768) (low + k)
      let m := (roundAt .ne z.natAbs e false x).1
      let q : Int := if z < 0 then -(m : Int) else m
      if -(2 ^ 95) ≤ q ∧ q ≤ 2 ^ 95 - 1 then some (q, x) else none
    match (at_ 0).or ((at_ 1).or (at_ 2)) with
    | some (q, x) => if 32767 < x then (if 0 < z then A96.mk' (2 ^ 95 - 1) 32767 else A96.mk' (-(2 ^ 95)) 32767, true)
      else (A96.mk' q x, false)
    | none => (A96.zero, false)

/-- round96 of an A96 value plus z·2^e (R168). -/
def A96.addScaled (a : A96) (z e : Int) : A96 × Bool :=
  if z = 0 then round96 a.int a.exp
  else if a.int = 0 then round96 z e
  else
    let m := min a.exp e
    round96 (a.int * 2 ^ (a.exp - m).toNat + z * 2 ^ (e - m).toNat) m

/-- An A96 value in an IEEE format (R169): one RNE rounding; overflow gives an infinity, or the largest finite value when
saturating, and counts SAT. -/
def A96.toIeee (f : FFmt) (sat : Bool) (a : A96) : Nat × Counts :=
  if a.int = 0 then (0, Counts.zero)
  else
    let r := f.roundEx .ne a.ex
    if r.2 = flagOF then (f.signed (decide (a.int < 0)) (if sat then f.inf - 1 else f.inf), Counts.satOnce)
    else (r.1, Counts.zero)

/-! ## Appending a token (R170) -/

/-- The column after a token: its codes, with that of the token last, its scale byte and the counts. `free` is the code of a finite token
where the column's scale byte is NaN, for which the manual states no exponent: the scale then stays, the earlier codes stay, and the token
counts nothing (DESIGN CHOICE, log entry 23). R161 gives the code and the count of a NaN or infinite one whatever the scale. -/
def appendToken (f : Nat) (free : Nat) (old : List Nat) (s : Nat) (w : FVal) : List Nat × Nat × Counts :=
  let cand := blockExp w.log? (elemEmax f)
  match old with
  | [] =>
    let q := elemQuant f cand.1 w
    ([q.1], (cand.1 + 127).toNat, cand.2.add q.2)
  | old =>
    if s = 255 then
      match w with
      | .fin _ => (old ++ [free], s, Counts.zero)
      | w => let q := elemQuant f 0 w; (old ++ [q.1], s, q.2)
    else
      let x : Int := (s : Int) - 127
      if w.log?.isSome && decide (x < cand.1) then
        let re := old.map fun c => elemQuant f cand.1 ((elemValue f c).scaled s)
        let q := elemQuant f cand.1 w
        (re.map (·.1) ++ [q.1], (cand.1 + 127).toNat,
          ((cand.2.add Counts.reqOnce).add (Counts.sum (re.map (·.2)))).add q.2)
      else
        let q := elemQuant f x w
        (old ++ [q.1], s, cand.2.add q.2)

end Sys2Proof.Machine
end

