-- ==== Sys2Proof/Machine/Scalar.lean ====
section
/-! DEFINITION. The register instructions of the standard subset: RV64I arithmetic, M, Zba and Zbb (R191, R195, R196), and
control transfer (R55). -/

namespace Sys2Proof.Machine

/-! ## Shared operations -/

/-- An instruction of one source: rd receives f x[rs1]. -/
def State.alu1 (s : State) (rd rs1 : Reg) (f : Word → Word) : State :=
  s.ready [.x rs1, .x rd] fun s => (s.setX rd (f (s.thread.getX rs1))).retire

/-- An instruction of two sources: rd receives f x[rs1] x[rs2]. -/
def State.alu2 (s : State) (rd rs1 rs2 : Reg) (f : Word → Word → Word) : State :=
  s.ready [.x rs1, .x rs2, .x rd] fun s => (s.setX rd (f (s.thread.getX rs1) (s.thread.getX rs2))).retire

/-- A 12-bit immediate, sign-extended. -/
def imm12 (i : BitVec 12) : Word := i.signExtend 64

/-- A 20-bit upper immediate in bits 31 to 12, sign-extended. -/
def imm20 (i : BitVec 20) : Word := (i ++ 0#12).signExtend 64

/-- The low word of a value. -/
def low32 (w : Word) : BitVec 32 := w.extractLsb' 0 32

/-- A 32-bit operation, its result sign-extended (the W forms). -/
def wordOp (f : BitVec 32 → BitVec 32 → BitVec 32) (a b : Word) : Word := (f (low32 a) (low32 b)).signExtend 64

/-- A shift amount of the 64-bit and of the 32-bit shifts. -/
def sh64 (b : Word) : Nat := b.toNat % 64
def sh32 (b : BitVec 32) : Nat := b.toNat % 32

/-- 1 when a condition holds. -/
def bit (b : Bool) : Word := if b then 1 else 0

/-- Signed and unsigned division and remainder of M (R196): a zero divisor gives all ones and the dividend. -/
def divS {w : Nat} (a b : BitVec w) : BitVec w := if b = 0 then BitVec.allOnes w else a.sdiv b
def divU {w : Nat} (a b : BitVec w) : BitVec w := if b = 0 then BitVec.allOnes w else a / b
def remS {w : Nat} (a b : BitVec w) : BitVec w := if b = 0 then a else a.srem b
def remU {w : Nat} (a b : BitVec w) : BitVec w := if b = 0 then a else a % b

/-- The high 64 bits of an exact product. -/
def highOf (p : Int) : Word := BitVec.ofInt 64 (p / 2 ^ 64)

/-- The bits of a value from bit 0. -/
def bitsOf {w : Nat} (v : BitVec w) : List Bool := (List.range w).map v.getLsbD

/-- Zeros before the first set bit of a list; its length when none is set. -/
def zerosBefore : List Bool → Nat
  | [] => 0
  | b :: t => if b then 0 else zerosBefore t + 1

/-- Counts of zeros from the top and from the bottom, and of set bits. -/
def clzOf {w : Nat} (v : BitVec w) : Nat := zerosBefore (bitsOf v).reverse
def ctzOf {w : Nat} (v : BitVec w) : Nat := zerosBefore (bitsOf v)
def popOf {w : Nat} (v : BitVec w) : Nat := (bitsOf v).countP id

/-- The bytes of a doubleword, lowest first, and the doubleword of bytes. -/
def bytesOf (w : Word) : List Byte := (List.range 8).map fun k => w.extractLsb' (8 * k) 8
def ofBytes : List Byte → Nat
  | [] => 0
  | b :: t => b.toNat + 256 * ofBytes t

/-- OR-combine within each byte; reverse the bytes (Zbb). -/
def orcBytes (w : Word) : Word := BitVec.ofNat 64 (ofBytes ((bytesOf w).map fun b => if b = 0 then 0 else 0xFF#8))
def revBytes (w : Word) : Word := BitVec.ofNat 64 (ofBytes (bytesOf w).reverse)

/-- A jump: MISALIGN at a target that is not a multiple of 4, with nothing written; else rd receives the link (R55). -/
def State.jump (s : State) (rd : Reg) (target : Word) : State :=
  if target.toNat % 4 ≠ 0 then s.misalign target
  else (s.setX rd (s.thread.pc + 4)).onThread fun c => { c with pc := target }

/-- A conditional branch: only a taken one looks at its target (R55, R193). -/
def State.branch (s : State) (rs1 rs2 : Reg) (imm : BitVec 12) (cond : Word → Word → Bool) : State :=
  s.ready [.x rs1, .x rs2] fun s =>
    if cond (s.thread.getX rs1) (s.thread.getX rs2) then s.jump 0#5 (s.thread.pc + (imm ++ 0#1).signExtend 64)
    else s.retire

/-! ## Upper immediates and control transfer -/

/-- LUI (R191). -/
def execLui (rd : Reg) (imm : BitVec 20) (s : State) : Out :=
  .next (s.ready [.x rd] fun s => (s.setX rd (imm20 imm)).retire)

/-- AUIPC (R191). -/
def execAuipc (rd : Reg) (imm : BitVec 20) (s : State) : Out :=
  .next (s.ready [.x rd] fun s => (s.setX rd (s.thread.pc + imm20 imm)).retire)

/-- JAL (R191, R55). -/
def execJal (rd : Reg) (imm : BitVec 20) (s : State) : Out :=
  .next (s.ready [.x rd] fun s => s.jump rd (s.thread.pc + (imm ++ 0#1).signExtend 64))

/-- JALR (R191, R55): bit 0 of the sum is cleared. -/
def execJalr (rd rs1 : Reg) (imm : BitVec 12) (s : State) : Out :=
  .next (s.ready [.x rs1, .x rd] fun s => s.jump rd ((s.thread.getX rs1 + imm12 imm) &&& ~~~1#64))

/-- BEQ (R191). -/
def execBeq (rs1 rs2 : Reg) (imm : BitVec 12) (s : State) : Out :=
  .next (s.branch rs1 rs2 imm fun a b => a == b)

/-- BNE (R191). -/
def execBne (rs1 rs2 : Reg) (imm : BitVec 12) (s : State) : Out :=
  .next (s.branch rs1 rs2 imm fun a b => a != b)

/-- BLT (R191). -/
def execBlt (rs1 rs2 : Reg) (imm : BitVec 12) (s : State) : Out :=
  .next (s.branch rs1 rs2 imm fun a b => a.slt b)

/-- BGE (R191). -/
def execBge (rs1 rs2 : Reg) (imm : BitVec 12) (s : State) : Out :=
  .next (s.branch rs1 rs2 imm fun a b => !a.slt b)

/-- BLTU (R191). -/
def execBltu (rs1 rs2 : Reg) (imm : BitVec 12) (s : State) : Out :=
  .next (s.branch rs1 rs2 imm fun a b => a.ult b)

/-- BGEU (R191). -/
def execBgeu (rs1 rs2 : Reg) (imm : BitVec 12) (s : State) : Out :=
  .next (s.branch rs1 rs2 imm fun a b => !a.ult b)

/-- ECALL (R195). -/
def execEcall (s : State) : Out := .next (s.trap { cause := 0x0B, tval := 0 })

/-- EBREAK (R195). -/
def execEbreak (s : State) : Out := .next (s.trap { cause := 0x0C, tval := 0 })

/-! ## Immediate forms -/

/-- ADDI (R191). -/
def execAddi (rd rs1 : Reg) (imm : BitVec 12) (s : State) : Out :=
  .next (s.alu1 rd rs1 fun a => a + imm12 imm)

/-- SLTI (R191). -/
def execSlti (rd rs1 : Reg) (imm : BitVec 12) (s : State) : Out :=
  .next (s.alu1 rd rs1 fun a => bit (a.slt (imm12 imm)))

/-- SLTIU (R191). -/
def execSltiu (rd rs1 : Reg) (imm : BitVec 12) (s : State) : Out :=
  .next (s.alu1 rd rs1 fun a => bit (a.ult (imm12 imm)))

/-- XORI (R191). -/
def execXori (rd rs1 : Reg) (imm : BitVec 12) (s : State) : Out :=
  .next (s.alu1 rd rs1 fun a => a ^^^ imm12 imm)

/-- ORI (R191). -/
def execOri (rd rs1 : Reg) (imm : BitVec 12) (s : State) : Out :=
  .next (s.alu1 rd rs1 fun a => a ||| imm12 imm)

/-- ANDI (R191). -/
def execAndi (rd rs1 : Reg) (imm : BitVec 12) (s : State) : Out :=
  .next (s.alu1 rd rs1 fun a => a &&& imm12 imm)

/-- SLLI (R191). -/
def execSlli (rd rs1 : Reg) (sh : BitVec 6) (s : State) : Out :=
  .next (s.alu1 rd rs1 fun a => a <<< sh.toNat)

/-- SRLI (R191). -/
def execSrli (rd rs1 : Reg) (sh : BitVec 6) (s : State) : Out :=
  .next (s.alu1 rd rs1 fun a => a >>> sh.toNat)

/-- SRAI (R191). -/
def execSrai (rd rs1 : Reg) (sh : BitVec 6) (s : State) : Out :=
  .next (s.alu1 rd rs1 fun a => a.sshiftRight sh.toNat)

/-- ADDIW (R191). -/
def execAddiw (rd rs1 : Reg) (imm : BitVec 12) (s : State) : Out :=
  .next (s.alu1 rd rs1 fun a => wordOp (fun x y => x + y) a (imm12 imm))

/-- SLLIW (R191). -/
def execSlliw (rd rs1 : Reg) (sh : BitVec 5) (s : State) : Out :=
  .next (s.alu1 rd rs1 fun a => (low32 a <<< sh.toNat).signExtend 64)

/-- SRLIW (R191). -/
def execSrliw (rd rs1 : Reg) (sh : BitVec 5) (s : State) : Out :=
  .next (s.alu1 rd rs1 fun a => (low32 a >>> sh.toNat).signExtend 64)

/-- SRAIW (R191). -/
def execSraiw (rd rs1 : Reg) (sh : BitVec 5) (s : State) : Out :=
  .next (s.alu1 rd rs1 fun a => ((low32 a).sshiftRight sh.toNat).signExtend 64)

/-! ## Register forms -/

/-- ADD (R191). -/
def execAdd (rd rs1 rs2 : Reg) (s : State) : Out :=
  .next (s.alu2 rd rs1 rs2 fun a b => a + b)

/-- SUB (R191). -/
def execSub (rd rs1 rs2 : Reg) (s : State) : Out :=
  .next (s.alu2 rd rs1 rs2 fun a b => a - b)

/-- SLL (R191). -/
def execSll (rd rs1 rs2 : Reg) (s : State) : Out :=
  .next (s.alu2 rd rs1 rs2 fun a b => a <<< sh64 b)

/-- SLT (R191). -/
def execSlt (rd rs1 rs2 : Reg) (s : State) : Out :=
  .next (s.alu2 rd rs1 rs2 fun a b => bit (a.slt b))

/-- SLTU (R191). -/
def execSltu (rd rs1 rs2 : Reg) (s : State) : Out :=
  .next (s.alu2 rd rs1 rs2 fun a b => bit (a.ult b))

/-- XOR (R191). -/
def execXor (rd rs1 rs2 : Reg) (s : State) : Out :=
  .next (s.alu2 rd rs1 rs2 fun a b => a ^^^ b)

/-- SRL (R191). -/
def execSrl (rd rs1 rs2 : Reg) (s : State) : Out :=
  .next (s.alu2 rd rs1 rs2 fun a b => a >>> sh64 b)

/-- SRA (R191). -/
def execSra (rd rs1 rs2 : Reg) (s : State) : Out :=
  .next (s.alu2 rd rs1 rs2 fun a b => a.sshiftRight (sh64 b))

/-- OR (R191). -/
def execOr (rd rs1 rs2 : Reg) (s : State) : Out :=
  .next (s.alu2 rd rs1 rs2 fun a b => a ||| b)

/-- AND (R191). -/
def execAnd (rd rs1 rs2 : Reg) (s : State) : Out :=
  .next (s.alu2 rd rs1 rs2 fun a b => a &&& b)

/-- ADDW (R191). -/
def execAddw (rd rs1 rs2 : Reg) (s : State) : Out :=
  .next (s.alu2 rd rs1 rs2 (wordOp fun x y => x + y))

/-- SUBW (R191). -/
def execSubw (rd rs1 rs2 : Reg) (s : State) : Out :=
  .next (s.alu2 rd rs1 rs2 (wordOp fun x y => x - y))

/-- SLLW (R191). -/
def execSllw (rd rs1 rs2 : Reg) (s : State) : Out :=
  .next (s.alu2 rd rs1 rs2 (wordOp fun x y => x <<< sh32 y))

/-- SRLW (R191). -/
def execSrlw (rd rs1 rs2 : Reg) (s : State) : Out :=
  .next (s.alu2 rd rs1 rs2 (wordOp fun x y => x >>> sh32 y))

/-- SRAW (R191). -/
def execSraw (rd rs1 rs2 : Reg) (s : State) : Out :=
  .next (s.alu2 rd rs1 rs2 (wordOp fun x y => x.sshiftRight (sh32 y)))

/-! ## M -/

/-- MUL (R191). -/
def execMul (rd rs1 rs2 : Reg) (s : State) : Out :=
  .next (s.alu2 rd rs1 rs2 fun a b => a * b)

/-- MULH (R191). -/
def execMulh (rd rs1 rs2 : Reg) (s : State) : Out :=
  .next (s.alu2 rd rs1 rs2 fun a b => highOf (a.toInt * b.toInt))

/-- MULHSU (R191). -/
def execMulhsu (rd rs1 rs2 : Reg) (s : State) : Out :=
  .next (s.alu2 rd rs1 rs2 fun a b => highOf (a.toInt * (b.toNat : Int)))

/-- MULHU (R191). -/
def execMulhu (rd rs1 rs2 : Reg) (s : State) : Out :=
  .next (s.alu2 rd rs1 rs2 fun a b => highOf ((a.toNat : Int) * (b.toNat : Int)))

/-- DIV (R196). -/
def execDiv (rd rs1 rs2 : Reg) (s : State) : Out :=
  .next (s.alu2 rd rs1 rs2 fun a b => divS a b)

/-- DIVU (R196). -/
def execDivu (rd rs1 rs2 : Reg) (s : State) : Out :=
  .next (s.alu2 rd rs1 rs2 fun a b => divU a b)

/-- REM (R196). -/
def execRem (rd rs1 rs2 : Reg) (s : State) : Out :=
  .next (s.alu2 rd rs1 rs2 fun a b => remS a b)

/-- REMU (R196). -/
def execRemu (rd rs1 rs2 : Reg) (s : State) : Out :=
  .next (s.alu2 rd rs1 rs2 fun a b => remU a b)

/-- MULW (R191). -/
def execMulw (rd rs1 rs2 : Reg) (s : State) : Out :=
  .next (s.alu2 rd rs1 rs2 (wordOp fun x y => x * y))

/-- DIVW (R196). -/
def execDivw (rd rs1 rs2 : Reg) (s : State) : Out :=
  .next (s.alu2 rd rs1 rs2 (wordOp fun x y => divS x y))

/-- DIVUW (R196). -/
def execDivuw (rd rs1 rs2 : Reg) (s : State) : Out :=
  .next (s.alu2 rd rs1 rs2 (wordOp fun x y => divU x y))

/-- REMW (R196). -/
def execRemw (rd rs1 rs2 : Reg) (s : State) : Out :=
  .next (s.alu2 rd rs1 rs2 (wordOp fun x y => remS x y))

/-- REMUW (R196). -/
def execRemuw (rd rs1 rs2 : Reg) (s : State) : Out :=
  .next (s.alu2 rd rs1 rs2 (wordOp fun x y => remU x y))

/-! ## Zba -/

/-- ADD_UW (R191). -/
def execAddUw (rd rs1 rs2 : Reg) (s : State) : Out :=
  .next (s.alu2 rd rs1 rs2 fun a b => (low32 a).zeroExtend 64 + b)

/-- SH1ADD (R191). -/
def execSh1add (rd rs1 rs2 : Reg) (s : State) : Out :=
  .next (s.alu2 rd rs1 rs2 fun a b => (a <<< 1) + b)

/-- SH2ADD (R191). -/
def execSh2add (rd rs1 rs2 : Reg) (s : State) : Out :=
  .next (s.alu2 rd rs1 rs2 fun a b => (a <<< 2) + b)

/-- SH3ADD (R191). -/
def execSh3add (rd rs1 rs2 : Reg) (s : State) : Out :=
  .next (s.alu2 rd rs1 rs2 fun a b => (a <<< 3) + b)

/-- SH1ADD_UW (R191). -/
def execSh1addUw (rd rs1 rs2 : Reg) (s : State) : Out :=
  .next (s.alu2 rd rs1 rs2 fun a b => ((low32 a).zeroExtend 64 <<< 1) + b)

/-- SH2ADD_UW (R191). -/
def execSh2addUw (rd rs1 rs2 : Reg) (s : State) : Out :=
  .next (s.alu2 rd rs1 rs2 fun a b => ((low32 a).zeroExtend 64 <<< 2) + b)

/-- SH3ADD_UW (R191). -/
def execSh3addUw (rd rs1 rs2 : Reg) (s : State) : Out :=
  .next (s.alu2 rd rs1 rs2 fun a b => ((low32 a).zeroExtend 64 <<< 3) + b)

/-- SLLI_UW (R191). -/
def execSlliUw (rd rs1 : Reg) (sh : BitVec 6) (s : State) : Out :=
  .next (s.alu1 rd rs1 fun a => (low32 a).zeroExtend 64 <<< sh.toNat)

/-! ## Zbb -/

/-- ANDN (R191). -/
def execAndn (rd rs1 rs2 : Reg) (s : State) : Out :=
  .next (s.alu2 rd rs1 rs2 fun a b => a &&& ~~~b)

/-- ORN (R191). -/
def execOrn (rd rs1 rs2 : Reg) (s : State) : Out :=
  .next (s.alu2 rd rs1 rs2 fun a b => a ||| ~~~b)

/-- XNOR (R191). -/
def execXnor (rd rs1 rs2 : Reg) (s : State) : Out :=
  .next (s.alu2 rd rs1 rs2 fun a b => ~~~(a ^^^ b))

/-- CLZ (R191). -/
def execClz (rd rs1 : Reg) (s : State) : Out :=
  .next (s.alu1 rd rs1 fun a => BitVec.ofNat 64 (clzOf a))

/-- CTZ (R191). -/
def execCtz (rd rs1 : Reg) (s : State) : Out :=
  .next (s.alu1 rd rs1 fun a => BitVec.ofNat 64 (ctzOf a))

/-- CPOP (R191). -/
def execCpop (rd rs1 : Reg) (s : State) : Out :=
  .next (s.alu1 rd rs1 fun a => BitVec.ofNat 64 (popOf a))

/-- CLZW (R191). -/
def execClzw (rd rs1 : Reg) (s : State) : Out :=
  .next (s.alu1 rd rs1 fun a => BitVec.ofNat 64 (clzOf (low32 a)))

/-- CTZW (R191). -/
def execCtzw (rd rs1 : Reg) (s : State) : Out :=
  .next (s.alu1 rd rs1 fun a => BitVec.ofNat 64 (ctzOf (low32 a)))

/-- CPOPW (R191). -/
def execCpopw (rd rs1 : Reg) (s : State) : Out :=
  .next (s.alu1 rd rs1 fun a => BitVec.ofNat 64 (popOf (low32 a)))

/-- MAX (R191). -/
def execMax (rd rs1 rs2 : Reg) (s : State) : Out :=
  .next (s.alu2 rd rs1 rs2 fun a b => if a.slt b then b else a)

/-- MAXU (R191). -/
def execMaxu (rd rs1 rs2 : Reg) (s : State) : Out :=
  .next (s.alu2 rd rs1 rs2 fun a b => if a.ult b then b else a)

/-- MIN (R191). -/
def execMin (rd rs1 rs2 : Reg) (s : State) : Out :=
  .next (s.alu2 rd rs1 rs2 fun a b => if a.slt b then a else b)

/-- MINU (R191). -/
def execMinu (rd rs1 rs2 : Reg) (s : State) : Out :=
  .next (s.alu2 rd rs1 rs2 fun a b => if a.ult b then a else b)

/-- SEXT_B (R191). -/
def execSextB (rd rs1 : Reg) (s : State) : Out :=
  .next (s.alu1 rd rs1 fun a => (a.extractLsb' 0 8).signExtend 64)

/-- SEXT_H (R191). -/
def execSextH (rd rs1 : Reg) (s : State) : Out :=
  .next (s.alu1 rd rs1 fun a => (a.extractLsb' 0 16).signExtend 64)

/-- ZEXT_H (R191). -/
def execZextH (rd rs1 : Reg) (s : State) : Out :=
  .next (s.alu1 rd rs1 fun a => (a.extractLsb' 0 16).zeroExtend 64)

/-- ROL (R191). -/
def execRol (rd rs1 rs2 : Reg) (s : State) : Out :=
  .next (s.alu2 rd rs1 rs2 fun a b => a.rotateLeft (sh64 b))

/-- ROR (R191). -/
def execRor (rd rs1 rs2 : Reg) (s : State) : Out :=
  .next (s.alu2 rd rs1 rs2 fun a b => a.rotateRight (sh64 b))

/-- RORI (R191). -/
def execRori (rd rs1 : Reg) (sh : BitVec 6) (s : State) : Out :=
  .next (s.alu1 rd rs1 fun a => a.rotateRight sh.toNat)

/-- ROLW (R191). -/
def execRolw (rd rs1 rs2 : Reg) (s : State) : Out :=
  .next (s.alu2 rd rs1 rs2 (wordOp fun x y => x.rotateLeft (sh32 y)))

/-- RORW (R191). -/
def execRorw (rd rs1 rs2 : Reg) (s : State) : Out :=
  .next (s.alu2 rd rs1 rs2 (wordOp fun x y => x.rotateRight (sh32 y)))

/-- RORIW (R191). -/
def execRoriw (rd rs1 : Reg) (sh : BitVec 5) (s : State) : Out :=
  .next (s.alu1 rd rs1 fun a => ((low32 a).rotateRight sh.toNat).signExtend 64)

/-- ORC_B (R191). -/
def execOrcB (rd rs1 : Reg) (s : State) : Out :=
  .next (s.alu1 rd rs1 orcBytes)

/-- REV8 (R191). -/
def execRev8 (rd rs1 : Reg) (s : State) : Out :=
  .next (s.alu1 rd rs1 revBytes)

end Sys2Proof.Machine
end

