-- ==== Sys2Proof/Machine/LoadStore.lean ====
section
/-! DEFINITION. Ordinary, ordered and synchronising accesses, atomics and remote updates, FESTAT and the fences (R95 to R109,
R192 to R194). -/

namespace Sys2Proof.Machine

/-! ## Shared operations -/

/-- Width in bytes and sign of an XLD (R100). -/
def loadBytes : LdWidth → Nat
  | .b | .bu => 1
  | .h | .hu => 2
  | .w | .wu => 4
  | .d => 8
def loadSigned : LdWidth → Bool
  | .b | .h | .w => true
  | _ => false

/-- Width in bytes and width code of an XST (R60, R100). -/
def storeBytes : StWidth → Nat
  | .b => 1 | .h => 2 | .w => 4 | .d => 8
def storeCode : StWidth → Nat
  | .b => 0 | .h => 1 | .w => 2 | .d => 3

/-- The code of a scope (R60). -/
def scopeCode : Scope → Nat
  | .th => 0 | .co => 1 | .cl => 2 | .dv => 3 | .dm => 4 | .sy => 5

/-- Alignment, peer and address of an access, checked in the order of R57. -/
def State.reach (s : State) (xp : Reg) (va : VA) (p : Perm) (n : Nat) (k : Nat → Option Target → State → State) : State :=
  s.aligned va n fun s => s.peer xp va fun dev s => s.resolve dev va p n fun t s => k dev t s

/-- The same of a store, RED or F/E write. -/
def State.reachStore (s : State) (xp : Reg) (va : VA) (p : Perm) (n : Nat) (k : Nat → Option Target → State → State) : State :=
  s.aligned va n fun s => s.peer xp va fun dev s => s.resolveStore dev va p n fun t s => k dev t s

/-- An ordinary load of n bytes into rd (R100). -/
def State.loadAt (s : State) (xp : Reg) (va : VA) (n : Nat) (sgn : Bool) (rd : Reg) : State :=
  s.reach xp va .read n fun dev t s => s.access dev va t (.load n sgn) (.reg rd) (·.awaitX rd)

/-- An ordinary store of n bytes (R100). -/
def State.storeAt (s : State) (xp : Reg) (va : VA) (wd : StWidth) (d : Word) : State :=
  let n := storeBytes wd
  s.reachStore xp va .write n fun dev t s =>
    s.effect1 ⟨va, dev, t, 0, storeCode wd, 0, 0, d, .store n d⟩ State.retire

/-- A standard load (R192). -/
def State.stdLoad (s : State) (rd rs1 : Reg) (imm : BitVec 12) (n : Nat) (sgn : Bool) : State :=
  s.ready [.x rs1, .x rd] fun s => s.loadAt 0#5 (s.thread.va 0#2 (s.thread.getX rs1 + imm12 imm)) n sgn rd

/-- A standard store (R192). -/
def State.stdStore (s : State) (rs2 rs1 : Reg) (imm : BitVec 12) (wd : StWidth) : State :=
  s.ready [.x rs1, .x rs2] fun s =>
    s.storeAt 0#5 (s.thread.va 0#2 (s.thread.getX rs1 + imm12 imm)) wd (s.thread.getX rs2)

/-- A 64-bit load that fills rd: LDAQ, LDFF, LDFE, FESTAT (R102, R103, R105). -/
def State.load64 (s : State) (aw : BitVec 2) (xp rs1 rd : Reg) (a : Acc) : State :=
  s.ready [.x rs1, .x xp, .x rd] fun s =>
    let va := s.windowVa aw rs1
    s.reach xp va a.perm 8 fun dev t s => s.access dev va t a (.reg rd) (·.awaitX rd)

/-- A 64-bit store that is a release at a scope: STRL, STFF, FEMARK (R102, R103). A revocable task's is deferred once its reply-bearing
access has completed (R101, R134); its jubilee makes it wait for the earlier effects (R141). -/
def State.release64 (s : State) (sc : Scope) (aw : BitVec 2) (xp rs1 rd : Reg) (kind : Nat) (mk : Word → Acc) : State :=
  s.ready [.x rs1, .x xp, .x rd] fun s =>
    let va := s.windowVa aw rs1
    let d := s.thread.getX rd
    s.reachStore xp va (mk d).perm 8 fun dev t s =>
      (if s.thread.revocable then s.alone else s.release sc) fun s =>
        s.effect1 ⟨va, dev, t, kind, 3, scopeCode sc, 0, d, mk d⟩ State.retire

/-- The registers that an AMO reads and returns into are one register, an even pair or a quad (R50, R106). -/
def amoRegs (op : AmoOp) (rd : Reg) : List Opnd :=
  match op with
  | .cas => [.x rd, .x (rd + 1)]
  | .cas2 => [.x rd, .x (rd + 1), .x (rd + 2), .x (rd + 3)]
  | _ => [.x rd]
def amoGroup (op : AmoOp) (rd : Reg) : Bool :=
  match op with
  | .cas => rd != 0#5 && rd.toNat % 2 == 0
  | .cas2 => rd != 0#5 && rd.toNat % 4 == 0
  | _ => true
def amoFin (op : AmoOp) (rd : Reg) : Fin := if op = .cas2 then .pair rd else .reg rd
def amoAwait (op : AmoOp) (rd : Reg) (c : Ctx) : Ctx := if op = .cas2 then (c.awaitX rd).awaitX (rd + 1) else c.awaitX rd

/-- AMO (R106): .ar makes it a release before and an acquire after. -/
def State.amo (s : State) (op : AmoOp) (ar : Bool) (aw : BitVec 2) (xp rs1 rd : Reg) : State :=
  s.irrevocable fun s => s.group (amoGroup op rd) fun s =>
    s.ready ([.x rs1, .x xp] ++ amoRegs op rd) fun s =>
      let va := s.windowVa aw rs1
      let c := s.thread
      let a : Acc := .amo op (c.getX rd) (c.getX (rd + 1)) (c.getX (rd + 2)) (c.getX (rd + 3))
      s.aligned va a.width fun s => s.peer xp va fun dev s => s.resolve dev va .amo 8 fun t s =>
        (if ar then s.release (if dev = s.cur.dev then .dv else .dm) else fun k => k s) fun s =>
          s.access dev va t a (amoFin op rd) (amoAwait op rd)

/-- RED (R107). -/
def State.red (s : State) (op : AmoOp) (code : Nat) (aw : BitVec 2) (xp rs1 rd : Reg) : State :=
  s.ready [.x rs1, .x xp, .x rd] fun s =>
    let va := s.windowVa aw rs1
    let d := s.thread.getX rd
    s.reachStore xp va .amo 8 fun dev t s => s.effect1 ⟨va, dev, t, 4, 3, 0, code, d, .red op d⟩ State.retire

/-- FENCE with the set all (R109). -/
def State.fenceAll (s : State) (sc : Scope) : State := s.complete sc State.retire

/-! ## Standard loads and stores -/

/-- LB (R192). -/
def execLb (rd rs1 : Reg) (imm : BitVec 12) (s : State) : Out := .next (s.stdLoad rd rs1 imm 1 true)

/-- LH (R192). -/
def execLh (rd rs1 : Reg) (imm : BitVec 12) (s : State) : Out := .next (s.stdLoad rd rs1 imm 2 true)

/-- LW (R192). -/
def execLw (rd rs1 : Reg) (imm : BitVec 12) (s : State) : Out := .next (s.stdLoad rd rs1 imm 4 true)

/-- LD (R192). -/
def execLd (rd rs1 : Reg) (imm : BitVec 12) (s : State) : Out := .next (s.stdLoad rd rs1 imm 8 false)

/-- LBU (R192). -/
def execLbu (rd rs1 : Reg) (imm : BitVec 12) (s : State) : Out := .next (s.stdLoad rd rs1 imm 1 false)

/-- LHU (R192). -/
def execLhu (rd rs1 : Reg) (imm : BitVec 12) (s : State) : Out := .next (s.stdLoad rd rs1 imm 2 false)

/-- LWU (R192). -/
def execLwu (rd rs1 : Reg) (imm : BitVec 12) (s : State) : Out := .next (s.stdLoad rd rs1 imm 4 false)

/-- SB (R192). -/
def execSb (rs2 rs1 : Reg) (imm : BitVec 12) (s : State) : Out := .next (s.stdStore rs2 rs1 imm .b)

/-- SH (R192). -/
def execSh (rs2 rs1 : Reg) (imm : BitVec 12) (s : State) : Out := .next (s.stdStore rs2 rs1 imm .h)

/-- SW (R192). -/
def execSw (rs2 rs1 : Reg) (imm : BitVec 12) (s : State) : Out := .next (s.stdStore rs2 rs1 imm .w)

/-- SD (R192). -/
def execSd (rs2 rs1 : Reg) (imm : BitVec 12) (s : State) : Out := .next (s.stdStore rs2 rs1 imm .d)

/-! ## Custom loads and stores -/

/-- XLD (R100). -/
def execXld (wd : LdWidth) (aw : BitVec 2) (xp rs1 rd : Reg) (s : State) : Out :=
  .next (s.ready [.x rs1, .x xp, .x rd] fun s => s.loadAt xp (s.windowVa aw rs1) (loadBytes wd) (loadSigned wd) rd)

/-- XST (R100). -/
def execXst (wd : StWidth) (aw : BitVec 2) (xp rs1 rd : Reg) (s : State) : Out :=
  .next (s.ready [.x rs1, .x xp, .x rd] fun s => s.storeAt xp (s.windowVa aw rs1) wd (s.thread.getX rd))

/-- LDAQ (R102): as every reply-bearing or local load, it is complete before a later access issues. -/
def execLdaq (_sc : Scope) (aw : BitVec 2) (xp rs1 rd : Reg) (s : State) : Out :=
  .next (s.load64 aw xp rs1 rd (.load 8 false))

/-- LDFF (R103). -/
def execLdff (_sc : Scope) (aw : BitVec 2) (xp rs1 rd : Reg) (s : State) : Out := .next (s.load64 aw xp rs1 rd .ldff)

/-- LDFE (R103). -/
def execLdfe (_sc : Scope) (aw : BitVec 2) (xp rs1 rd : Reg) (s : State) : Out :=
  .next (s.irrevocable fun s => s.load64 aw xp rs1 rd .ldfe)

/-- STRL (R102). -/
def execStrl (sc : Scope) (aw : BitVec 2) (xp rs1 rd : Reg) (s : State) : Out :=
  .next (s.release64 sc aw xp rs1 rd 1 (.store 8))

/-- STFF (R103). -/
def execStff (sc : Scope) (aw : BitVec 2) (xp rs1 rd : Reg) (s : State) : Out :=
  .next (s.release64 sc aw xp rs1 rd 2 .stff)

/-- STEF (R103): reply-bearing. -/
def execStef (sc : Scope) (aw : BitVec 2) (xp rs1 rd : Reg) (s : State) : Out :=
  .next (s.irrevocable fun s => s.ready [.x rs1, .x xp, .x rd] fun s =>
    let va := s.windowVa aw rs1
    s.reach xp va .sync 8 fun dev t s => s.release sc fun s =>
      s.access dev va t (.stef (s.thread.getX rd)) .none id)

/-- FEMARK (R103): the F/E bit becomes x[rd][0]. -/
def execFemark (sc : Scope) (aw : BitVec 2) (xp rs1 rd : Reg) (s : State) : Out :=
  .next (s.release64 sc aw xp rs1 rd 3 fun d => .femark (d.getLsbD 0))

/-- FESTAT (R105). -/
def execFestat (aw : BitVec 2) (xp rs1 rd : Reg) (s : State) : Out := .next (s.load64 aw xp rs1 rd .festat)

/-! ## Atomics and remote updates -/

/-- AMO_ADD (R106). -/
def execAmoAdd (ar : Bool) (aw : BitVec 2) (xp rs1 rd : Reg) (s : State) : Out := .next (s.amo .add ar aw xp rs1 rd)

/-- AMO_AND (R106). -/
def execAmoAnd (ar : Bool) (aw : BitVec 2) (xp rs1 rd : Reg) (s : State) : Out := .next (s.amo .and ar aw xp rs1 rd)

/-- AMO_OR (R106). -/
def execAmoOr (ar : Bool) (aw : BitVec 2) (xp rs1 rd : Reg) (s : State) : Out := .next (s.amo .or ar aw xp rs1 rd)

/-- AMO_XOR (R106). -/
def execAmoXor (ar : Bool) (aw : BitVec 2) (xp rs1 rd : Reg) (s : State) : Out := .next (s.amo .xor ar aw xp rs1 rd)

/-- AMO_MIN (R106). -/
def execAmoMin (ar : Bool) (aw : BitVec 2) (xp rs1 rd : Reg) (s : State) : Out := .next (s.amo .min ar aw xp rs1 rd)

/-- AMO_MAX (R106). -/
def execAmoMax (ar : Bool) (aw : BitVec 2) (xp rs1 rd : Reg) (s : State) : Out := .next (s.amo .max ar aw xp rs1 rd)

/-- AMO_MINU (R106). -/
def execAmoMinU (ar : Bool) (aw : BitVec 2) (xp rs1 rd : Reg) (s : State) : Out := .next (s.amo .minu ar aw xp rs1 rd)

/-- AMO_MAXU (R106). -/
def execAmoMaxU (ar : Bool) (aw : BitVec 2) (xp rs1 rd : Reg) (s : State) : Out := .next (s.amo .maxu ar aw xp rs1 rd)

/-- AMO_SWAP (R106). -/
def execAmoSwap (ar : Bool) (aw : BitVec 2) (xp rs1 rd : Reg) (s : State) : Out := .next (s.amo .swap ar aw xp rs1 rd)

/-- AMO_CAS (R106). -/
def execAmoCas (ar : Bool) (aw : BitVec 2) (xp rs1 rd : Reg) (s : State) : Out := .next (s.amo .cas ar aw xp rs1 rd)

/-- AMO_CAS2 (R106). -/
def execAmoCas2 (ar : Bool) (aw : BitVec 2) (xp rs1 rd : Reg) (s : State) : Out := .next (s.amo .cas2 ar aw xp rs1 rd)

/-- RED_ADD (R107). -/
def execRedAdd (aw : BitVec 2) (xp rs1 rd : Reg) (s : State) : Out := .next (s.red .add 0 aw xp rs1 rd)

/-- RED_AND (R107). -/
def execRedAnd (aw : BitVec 2) (xp rs1 rd : Reg) (s : State) : Out := .next (s.red .and 1 aw xp rs1 rd)

/-- RED_OR (R107). -/
def execRedOr (aw : BitVec 2) (xp rs1 rd : Reg) (s : State) : Out := .next (s.red .or 2 aw xp rs1 rd)

/-- RED_XOR (R107). -/
def execRedXor (aw : BitVec 2) (xp rs1 rd : Reg) (s : State) : Out := .next (s.red .xor 3 aw xp rs1 rd)

/-- RED_MIN (R107). -/
def execRedMin (aw : BitVec 2) (xp rs1 rd : Reg) (s : State) : Out := .next (s.red .min 4 aw xp rs1 rd)

/-- RED_MAX (R107). -/
def execRedMax (aw : BitVec 2) (xp rs1 rd : Reg) (s : State) : Out := .next (s.red .max 5 aw xp rs1 rd)

/-- RED_MINU (R107). -/
def execRedMinU (aw : BitVec 2) (xp rs1 rd : Reg) (s : State) : Out := .next (s.red .minu 6 aw xp rs1 rd)

/-- RED_MAXU (R107). -/
def execRedMaxU (aw : BitVec 2) (xp rs1 rd : Reg) (s : State) : Out := .next (s.red .maxu 7 aw xp rs1 rd)

/-! ## Fences -/

/-- FENCE (R194): as fence.dv with the set all. -/
def execFence (_fm _pred _succ : BitVec 4) (s : State) : Out := .next (s.fenceAll .dv)

/-- FENCE.I (R194): it waits as fence.dv; the words that the thread has fetched ahead are discarded. -/
def execFenceI (s : State) : Out := .next ((s.fenceAll .dv).onThread fun c => { c with ahead := [] })

/-- FENCE with the set all at a scope (R109). -/
def execFenceS (sc : Scope) (s : State) : Out := .next (s.fenceAll sc)

/-- FENCE with the set stores (R109): later stores, AMOs and REDs wait. -/
def execFenceSSt (sc : Scope) (s : State) : Out :=
  .next (s.alone fun s => (s.onThread fun c =>
    { c with storeFence := some (match c.storeFence with | some p => scopeJoin p sc | none => sc) }).retire)

/-- FENCE with the set loads (R109): a split load is the one reply-bearing access that can be outstanding. -/
def execFenceSLd (_sc : Scope) (s : State) : Out := .next (s.alone State.retire)

end Sys2Proof.Machine
end

