-- ==== Sys2Proof/Machine/KeyMap.lean ====
section
/-! DEFINITION. The key-to-slot map and the ring-window index (R75 to R91). -/

namespace Sys2Proof.Machine

/-- Fields of kmcfg (R75). -/
def kmEnabled (w : Word) : Bool := w.getLsbD 63
def kmSlots (w : Word) : Nat := (w.extractLsb' 0 8).toNat + 1

/-- The entry of a slot. -/
def Core.kent (k : Core) (slot : Nat) : KEntry := (Table.find k.kmap slot).getD KEntry.free

/-- Set the entry of a slot; a FREE entry is not listed. -/
def Core.setKent (k : Core) (slot : Nat) (e : KEntry) : Core :=
  { k with kmap := if e.st = .free then Table.erase k.kmap slot else Table.set k.kmap slot e }

/-- The slot and entry that bind a key (R77). -/
def Core.kfind (k : Core) (key : Word) : Option (Nat × KEntry) := k.kmap.find? fun p => p.2.key == key && p.2.st != .free

/-- The code of an entry's state (R77). -/
def kstateCode : KState → Nat
  | .free => 0
  | .pending => 1
  | .valid => 2

/-- The result word: MISS, STATE, CODE, PIN, SLOT (R80). -/
def kword (miss : Bool) (st code pin slot : Nat) : Word :=
  BitVec.ofBool miss ++ BitVec.ofNat 2 st ++ 0#5 ++ BitVec.ofNat 8 code ++ 0#32 ++ BitVec.ofNat 8 pin ++ BitVec.ofNat 8 slot

/-- res(code, e) of R81. -/
def kres (code : Nat) (slot : Nat) (e : KEntry) : Word := kword false (kstateCode e.st) code e.pin.toNat slot

/-- Codes of R80. -/
def kOk : Nat := 0
def kAlreadyBound : Nat := 1
def kSlotBusy : Nat := 2
def kPinned : Nat := 3
def kNotBound : Nat := 4
def kKeyReserved : Nat := 5
def kPinFull : Nat := 6
def kPinZero : Nat := 7
def kNotPending : Nat := 8
def kRange : Nat := 9

/-- A map operation: the core's map after it, and the result word. -/
abbrev KOp := Core → Core × Word

/-- A lookup that takes effect; `pin` for KLOOKP (R82). -/
def klookOp (pin : Bool) (key : Word) : KOp := fun k =>
  if key = BitVec.allOnes 64 then (k, kword true 0 kKeyReserved 0 0)
  else match k.kfind key with
    | none => (k, kword true 0 kOk 0 0)
    | some (slot, e) =>
      if pin then
        if e.pin = 255 then (k, kres kPinFull slot e)
        else
          let e' := { e with pin := e.pin + 1 }
          (k.setKent slot e', kres kOk slot e')
      else (k, kres kOk slot e)

/-- A bind; `pin` for KBINDP (R83). -/
def kbindOp (pin : Bool) (key slotv : Word) : KOp := fun k =>
  if key = BitVec.allOnes 64 then (k, kword false 0 kKeyReserved 0 0)
  else match k.kfind key with
    | some (slot, e) =>
      if pin && e.pin == 255 then (k, kres kPinFull slot e)
      else
        let e' := if pin then { e with pin := e.pin + 1 } else e
        (k.setKent slot e', kres kAlreadyBound slot e')
    | none =>
      if kmSlots k.kmcfg ≤ slotv.toNat then (k, kword false 0 kRange 0 0)
      else
        let slot := slotv.toNat
        let e := k.kent slot
        if e.st ≠ .free then (k, kres kSlotBusy slot e)
        else
          let e' : KEntry := ⟨key, .pending, if pin then 1 else 0⟩
          (k.setKent slot e', kres kOk slot e')

/-- An operation on a slot in range; `f` gives the code and the entry after it. -/
def kslotOp (slotv : Word) (f : KEntry → Nat × KEntry) : KOp := fun k =>
  if kmSlots k.kmcfg ≤ slotv.toNat then (k, kword false 0 kRange 0 0)
  else
    let slot := slotv.toNat
    let (code, e) := f (k.kent slot)
    (k.setKent slot e, kres code slot e)

/-- KREADY (R84). -/
def kreadyOp (slot : Word) : KOp :=
  kslotOp slot fun e => if e.st ≠ .pending then (kNotPending, e) else (kOk, { e with st := .valid })

/-- KPIN and KUNPIN (R86). -/
def kpinOp (slot : Word) : KOp :=
  kslotOp slot fun e =>
    if e.st = .free then (kNotBound, e) else if e.pin = 255 then (kPinFull, e) else (kOk, { e with pin := e.pin + 1 })
def kunpinOp (slot : Word) : KOp :=
  kslotOp slot fun e =>
    if e.st = .free then (kNotBound, e) else if e.pin = 0 then (kPinZero, e) else (kOk, { e with pin := e.pin - 1 })

/-- KUNBIND (R87). -/
def kunbindOp (slot : Word) : KOp :=
  kslotOp slot fun e => if e.st = .free then (kNotBound, e) else if e.pin ≠ 0 then (kPinned, e) else (kOk, KEntry.free)

/-- KINFO (R88). -/
def kinfoWord (k : Core) (w : Word) : Word :=
  let range := kword false 0 kRange 0 0
  let slot := (w.extractLsb' 0 8).toNat
  if w.extractLsb' 10 54 ≠ 0#54 then range
  else match (w.extractLsb' 8 2).toNat with
    | 0 => if kmSlots k.kmcfg ≤ slot then range else kres kOk slot (k.kent slot)
    | 1 => if kmSlots k.kmcfg ≤ slot then BitVec.allOnes 64 else (k.kent slot).key
    | 2 => if slot ≠ 0 then range else k.kmcfg
    | _ => range

/-- A map instruction: EN is checked at decode, once, before any wait (R81), then the registers, and one map operation takes effect. -/
def State.mapInstr (s : State) (regs : List Opnd) (k : State → State) : State :=
  if s.thread.enTested || kmEnabled s.here.kmcfg then s.ready regs k else s.illegal

/-- The result of a map operation goes to rd. -/
def State.mapOp (s : State) (rd : Reg) (op : KOp) : State :=
  let r := op s.here
  ((s.onCore fun _ => r.1).setX rd r.2).retire

/-- KLOOKW's condition: the key is not bound PENDING (R82). -/
def Core.lookable (k : Core) (key : Word) : Bool :=
  match k.kfind key with
  | some (_, e) => e.st != .pending
  | none => true

/-- KLOOKW (R82). -/
def State.klookw (s : State) (rd rs1 : Reg) : State :=
  s.mapInstr [.x rs1, .x rd] fun s =>
    let key := s.thread.getX rs1
    if s.here.lookable key then s.mapOp rd (klookOp false key) else s.park (.key key)

/-- Fields of a ring-window descriptor (R89). -/
def kvBase (d : Word) : Nat := (d.extractLsb' 0 18).toNat
def kvSinks (d : Word) : Nat := (d.extractLsb' 18 14).toNat
def kvRing (d : Word) : Nat := (d.extractLsb' 32 16).toNat
def kvSize (d : Word) : Nat := 8 * (d.extractLsb' 48 8).toNat

/-- The descriptor is malformed (R91). -/
def kvBad (d : Word) : Bool :=
  d.extractLsb' 56 8 != 0#8 || d.extractLsb' 0 3 != 0#3 || kvRing d == 0 || kvSize d < 16

/-- The offset of the entry of a position, and its header when it is a ring entry (R90). -/
def kvEntry (d : Word) (pos : Nat) : Nat × Option Word :=
  if pos < kvSinks d then (kvBase d + kvSize d * pos, none)
  else
    (kvBase d + kvSize d * (kvSinks d + (pos - kvSinks d) % kvRing d),
      some (BitVec.ofNat 64 (2 ^ 63 + (pos - kvSinks d) / kvRing d)))

/-- KVIX and KVIXA: the checks of R91, and then the entry's offset and header. -/
def State.kv (s : State) (rd rs1 rs2 : Reg) (k : Nat → Option Word → State → State) : State :=
  s.mapInstr [.x rs1, .x rs2, .x rd] fun s =>
    let d := s.thread.getX rs2
    let pos := s.thread.getX rs1
    if kvBad d then s.illegalVal d
    else if 2 ^ 63 ≤ pos.toNat then s.illegalVal pos
    else
      let (ent, hdr) := kvEntry d pos.toNat
      if 0x40000 < ent + kvSize d then s.illegalVal pos else k ent hdr s

/-- The absolute VA of an offset in the own core's local storage. -/
def State.ownVa (s : State) (off : Nat) : VA :=
  match meshOf s.cur.vcn with
  | some (x, y) => 0x8#4 ++ 0#37 ++ BitVec.ofNat 6 y ++ BitVec.ofNat 7 x ++ BitVec.ofNat 18 off
  | none => 0xA#4 ++ BitVec.ofNat 68 ((s.cur.vcn - 4608) * 0x10000 + off)

/-! ## Instructions -/

/-- KLOOK (R82). -/
def execKlook (rd rs1 : Reg) (s : State) : Out :=
  .next (s.mapInstr [.x rs1, .x rd] fun s => s.mapOp rd (klookOp false (s.thread.getX rs1)))

/-- KLOOKP (R82). -/
def execKlookp (rd rs1 : Reg) (s : State) : Out :=
  .next (s.irrevocable fun s => s.mapInstr [.x rs1, .x rd] fun s => s.mapOp rd (klookOp true (s.thread.getX rs1)))

/-- KLOOKW (R82). -/
def execKlookw (rd rs1 : Reg) (s : State) : Out := .next (s.klookw rd rs1)

/-- KBIND (R83). -/
def execKbind (rd rs1 rs2 : Reg) (s : State) : Out :=
  .next (s.irrevocable fun s => s.mapInstr [.x rs1, .x rs2, .x rd] fun s =>
    s.mapOp rd (kbindOp false (s.thread.getX rs1) (s.thread.getX rs2)))

/-- KBINDP (R83). -/
def execKbindp (rd rs1 rs2 : Reg) (s : State) : Out :=
  .next (s.irrevocable fun s => s.mapInstr [.x rs1, .x rs2, .x rd] fun s =>
    s.mapOp rd (kbindOp true (s.thread.getX rs1) (s.thread.getX rs2)))

/-- KREADY (R84): a release at core scope. -/
def execKready (rd rs2 : Reg) (s : State) : Out :=
  .next (s.irrevocable fun s => s.mapInstr [.x rs2, .x rd] fun s => s.release .co fun s =>
    s.mapOp rd (kreadyOp (s.thread.getX rs2)))

/-- KPIN (R86). -/
def execKpin (rd rs2 : Reg) (s : State) : Out :=
  .next (s.irrevocable fun s => s.mapInstr [.x rs2, .x rd] fun s => s.mapOp rd (kpinOp (s.thread.getX rs2)))

/-- KUNPIN (R86). -/
def execKunpin (rd rs2 : Reg) (s : State) : Out :=
  .next (s.irrevocable fun s => s.mapInstr [.x rs2, .x rd] fun s => s.mapOp rd (kunpinOp (s.thread.getX rs2)))

/-- KUNBIND (R87). -/
def execKunbind (rd rs2 : Reg) (s : State) : Out :=
  .next (s.irrevocable fun s => s.mapInstr [.x rs2, .x rd] fun s => s.mapOp rd (kunbindOp (s.thread.getX rs2)))

/-- KINFO (R88). -/
def execKinfo (rd rs2 : Reg) (s : State) : Out :=
  .next (s.mapInstr [.x rs2, .x rd] fun s => s.mapOp rd fun k => (k, kinfoWord k (s.thread.getX rs2)))

/-- KVIX (R91): an ordinary read of the header in the own core's local storage. -/
def execKvix (rd rs1 rs2 : Reg) (s : State) : Out :=
  .next (s.kv rd rs1 rs2 fun ent hdr s =>
    let loc := lsLoc s.cur.dev s.cur.vcn ent
    match hdr with
    | none => (s.setX rd (BitVec.ofNat 64 (ent + 8))).retire
    | some h =>
      s.inOrder s.cur.dev (s.ownVa ent) fun s =>
        if s.poisoned loc 8 then s.trap (nackTrap (s.ownVa ent) 5)
        else (s.setX rd (if s.readWord loc = h then BitVec.ofNat 64 (ent + 8) else 0)).retire)

/-- KVIXA (R91): an ordinary store of the header. -/
def execKvixa (rd rs1 rs2 : Reg) (s : State) : Out :=
  .next (s.kv rd rs1 rs2 fun ent hdr s =>
    let done := fun (s : State) => (s.setX rd (BitVec.ofNat 64 (ent + 8))).retire
    match hdr with
    | none => done s
    | some h =>
      s.effect1 ⟨s.ownVa ent, s.cur.dev, some ⟨lsLoc s.cur.dev s.cur.vcn ent, true⟩, 0, 3, 0, 0, h, .store 8 h⟩ done)

end Sys2Proof.Machine
end

