-- ==== Sys2Proof/Machine/Views.lean ====
section
/-! DEFINITION. The program's side of views and copies: LDV, VCOMMIT, VRECLAIM, CPYQ and WAITP (R110 to R115, R129). -/

namespace Sys2Proof.Machine

/-- The thread parks on the answer of an engine of its own device (R96). -/
def State.askEngine (s : State) (va : VA) (f : Fin) (op : EngOp) : State := (s.parkOn (.reply va f)).send (.eng s.issuer op)

/-- VCOMMIT and VRECLAIM: a release at device scope that names a descriptor (R112 to R114). -/
def State.viewOp (s : State) (aw : BitVec 2) (xv rs1 : Reg) (mk : Nat → Word → EngOp) : State :=
  s.irrevocable fun s => s.ready [.x rs1, .x xv] fun s =>
    let va := s.windowVa aw rs1
    s.aligned va 8 fun s => s.resolve s.cur.dev va .readOnly 8 fun t s =>
      s.release .dv fun s => s.inOrder s.cur.dev va fun s =>
        s.askEngine va .none (mk ((t.map (·.loc)).getD 0) (s.thread.getX xv))

/-- The copy hart of a CPYQ: x[xc], or with xc = x0 that of the own cluster (R115). -/
def State.copyHartOf (s : State) (xc : Reg) : Word :=
  if xc = 0#5 then BitVec.ofNat 64 (4608 + 4 * clusterOf s.cur.vcn + s.cur.vcn % 4) else s.thread.getX xc

/-- The promise t has passed at a tick (R129). -/
def promisePassed (now : Nat) (t : Word) : Bool := (now + 2 ^ 48 - t.toNat % 2 ^ 48) % 2 ^ 48 < 2 ^ 47

/-- WAITP (R129): the promise, and then the completion check at the copy hart. -/
def State.waitp (s : State) (rs1 : Reg) : State :=
  s.ready [.x rs1] fun s =>
    let t := s.thread.getX rs1
    if 95 < (t.extractLsb' 57 7).toNat then s.illegalVal t
    else if promisePassed s.now t then s.alone fun s => s.askEngine 0 .none (.waitp t)
    else s.park (.promise (t &&& 0xFFFFFFFFFFFF#64))

/-- LDV (R111). -/
def execLdv (_sc : Scope) (aw : BitVec 2) (xv rs1 rd : Reg) (s : State) : Out :=
  .next (s.ready [.x rs1, .x xv, .x rd] fun s =>
    let va := s.windowVa aw rs1
    let need := (s.thread.getX xv).extractLsb' 0 40
    s.aligned va 8 fun s => s.resolve s.cur.dev va .readOnly 8 fun t s =>
      s.access s.cur.dev va t (.ldv need) (.ldv rd) (·.awaitX rd))

/-- VCOMMIT (R113). -/
def execVcommit (aw : BitVec 2) (xv rs1 : Reg) (s : State) : Out := .next (s.viewOp aw xv rs1 .vcommit)

/-- VRECLAIM (R114). -/
def execVreclaim (aw : BitVec 2) (xv rs1 : Reg) (s : State) : Out := .next (s.viewOp aw xv rs1 .vreclaim)

/-- WAITP (R129). -/
def execWaitp (rs1 : Reg) (s : State) : Out := .next (s.waitp rs1)

/-- CPYQ (R115): a release at system scope; the copy hart reads the block and accepts it. -/
def execCpyq (aw : BitVec 2) (xc rs1 rd : Reg) (s : State) : Out :=
  .next (s.irrevocable fun s => s.ready [.x rs1, .x xc, .x rd] fun s =>
    let va := s.windowVa aw rs1
    s.aligned va 64 fun s => s.resolve s.cur.dev va .readOnly 8 fun t s => s.release .sy fun s =>
      (s.onThread (·.awaitX rd)).askEngine va (.reg rd)
        (.cpyq (s.copyHartOf xc) ((t.map (·.loc)).getD 0) va))

end Sys2Proof.Machine
end

