-- ==== Sys2Proof/Machine/Scheduler.lean ====
section
/-! DEFINITION. Task records, the dispatch choice, dispatch, the saving and resuming of contexts, eviction, and the ends of
waits (R249 to R262, R317 to R321). -/

namespace Sys2Proof.Machine

/-! ## Records (R257) -/

/-- Fields of a record. -/
def Rec.entry (r : Rec) : Word := (r.d0.extractLsb' 0 40).zeroExtend 64
def Rec.fidx (r : Rec) : Nat := (r.d0.extractLsb' 40 8).toNat
def Rec.prio (r : Rec) : Nat := (r.d0.extractLsb' 48 6).toNat
def Rec.chan (r : Rec) : Nat := (r.d0.extractLsb' 54 6).toNat
def Rec.anti (r : Rec) : Bool := r.d0.getLsbD 61
def Rec.reply (r : Rec) : Bool := r.d0.getLsbD 62
def Rec.svcn (r : Rec) : Nat := (r.d2.extractLsb' 0 13).toNat
def Rec.sdev (r : Rec) : Nat := (r.d2.extractLsb' 13 12).toNat
def Rec.seq (r : Rec) : Nat := (r.d2.extractLsb' 25 39).toNat
def Rec.cvcn (r : Rec) : Nat := (r.d3.extractLsb' 0 13).toNat
def Rec.ccid (r : Rec) : Nat := (r.d3.extractLsb' 13 24).toNat
def Rec.creg (r : Rec) : Nat := (r.d3.extractLsb' 37 5).toNat
def Rec.cdev (r : Rec) : Nat := (r.d3.extractLsb' 42 12).toNat
def Rec.col (r : Rec) : Bool := r.d3.getLsbD 54

/-- The key (VTIME, SDEV, SVCN, SEQ) of a record as one number (R285). -/
def Rec.key (r : Rec) : Nat := ((r.d1.toNat * 2 ^ 12 + r.sdev) * 2 ^ 13 + r.svcn) * 2 ^ 39 + r.seq

/-- The eight dwords, and the record of eight dwords. -/
def Rec.words (r : Rec) : List Word := [r.d0, r.d1, r.d2, r.d3, r.d4, r.d5, r.d6, r.d7]
def Rec.ofWords : List Word → Rec
  | [a, b, c, d, e, f, g, h] => ⟨a, b, c, d, e, f, g, h⟩
  | _ => Rec.zero

/-- n words from a place. -/
def State.wordsAt (s : State) (loc n : Nat) : List Word := (List.range n).map fun k => s.readWord (loc + 8 * k)

/-- The record at a place. -/
def State.readRec (s : State) (loc : Nat) : Rec := Rec.ofWords (s.wordsAt loc 8)

/-! ## Hardware writes -/

/-- A write of a doubleword by the scheduler of core v: logged at its channel core or held there (R357, R358), performed, and its word
served (R104) (DEDUCED, log entry 37). -/
def State.hwWrite (s : State) (v loc : Nat) (w : Word) : State := (s.hwStore v loc w).serve loc

/-- Writes of doublewords from a place up. -/
def State.hwWrites (s : State) (v loc : Nat) : List Word → State
  | [] => s
  | w :: t => (s.hwWrite v loc w).hwWrites v (loc + 8) t

/-- Serve every waiter of a range whose words have become full (R70, R104). -/
def State.serveRange (s : State) (l n : Nat) : State :=
  (s.waiters.filterMap fun w => w.req.loc).foldl (fun s k => if l ≤ k ∧ k < l + n then s.serve k else s) s

/-- Scrub the local storage of a visible compute core (R70). -/
def State.scrubLs (s : State) (d v : Nat) : State :=
  let l := lsLoc d v 0
  (s.scrubRange l 0x40000).serveRange l 0x40000

/-! ## Readiness and candidates (R258, R259) -/

/-- RUNNING: a task of the ordered channel is resident or evicted (R256). -/
def Chan.running (c : Chan) : Bool := c.tasks.any fun t => t.cid.isSome

/-- A channel whose records may be dispatched: enabled, not BLOCKED, not in ROLLBACK, and for an ordered one no task RUNNING
and a free undo record (R258, R291, R295). -/
def Chan.open_ (c : Chan) : Bool :=
  c.en && !c.blocked && c.rollback.isNone && (!c.isOrd || !c.running && decide (c.inRing 1 < c.ringCount 1))

/-- An inbox record of a channel that a dispatch may take. -/
def InRec.waits (r : InRec) (c : Nat) : Bool := r.ch == c && r.mark.isNone && !r.record.anti

/-- A record is unbound or bound to the position; with no position, any record is taken (R259). -/
def bindsTo (b : Option (BitVec 3)) (p : Option Nat) : Bool :=
  match b, p with
  | some b, some p => b.toNat == p
  | _, _ => true

/-- The first index of a list that satisfies f. -/
def indexOf {α : Type} (f : α → Bool) : List α → Option Nat
  | [] => none
  | a :: t => if f a then some 0 else (indexOf f t).map (· + 1)

/-- The lowest key of waiting records of a channel. -/
def Core.lowKey (k : Core) (c : Nat) : Option Nat :=
  (k.inbox.filter fun r => r.waits c).foldl
    (fun a r => match a with | none => some r.record.key | some n => some (min n r.record.key)) none

/-- The index of a channel's head in the inbox: the oldest record, or the lowest key (R258, R259); a record with a position binding is a
candidate for that position alone. -/
def Core.headOf (k : Core) (c : Nat) (p : Option Nat) : Option Nat :=
  if (k.chan c).isOrd then
    match k.lowKey c with
    | none => none
    | some n =>
      match indexOf (fun r => r.waits c && r.record.key == n) k.inbox with
      | some i => if ((k.inbox[i]?).map fun r => bindsTo r.binding p).getD false then some i else none
      | none => none
  else indexOf (fun r => r.waits c && bindsTo r.binding p) k.inbox

/-- The effective priority of an item that has waited w ticks (R258). -/
def Core.effective (k : Core) (prio w : Nat) : Nat :=
  let sh := (k.agecfg.extractLsb' 0 5).toNat
  if 20 < sh then prio else min 63 (prio + w / (1400 * 2 ^ sh))

/-- The free CID of lowest n of a core (R251). -/
def State.freeCid (s : State) (d v : Nat) : Option Nat :=
  ((List.range 256).map (256 * v + ·)).find? fun c => (s.ctx d c).place == .free

/-- A choice of the scheduler: a context of the run queue, or a channel's record. -/
inductive Choice where
  | resume (cid : Nat)
  | record (ch idx : Nat)
deriving DecidableEq, Repr

/-- The run-queue candidate for a position (R259). -/
def State.runqCandidate (s : State) (d v : Nat) (p : Option Nat) : List (Nat × Choice) :=
  match (s.core d v).runq with
  | [] => []
  | c :: _ =>
    let x := s.ctx d c
    let since := match x.place with | .runq t => t | _ => (s.dev d).cycle
    if bindsTo x.binding p then [((s.core d v).effective x.prio.toNat (ticksFrom since (s.dev d).cycle), .resume c)] else []

/-- The candidates for a position (R259), in ascending channel order after the run-queue head. -/
def State.candidates (s : State) (d v : Nat) (p : Option Nat) : List (Nat × Choice) :=
  let k := s.core d v
  s.runqCandidate d v p ++
    if (s.freeCid d v).isNone then []
    else (List.range 64).filterMap fun c =>
      if !(k.chan c).open_ then none
      else match k.headOf c p with
        | none => none
        | some i =>
          let r := k.inbox[i]?
          r.map fun r => (k.effective r.record.prio (ticksFrom r.tick (s.dev d).cycle), .record c i)

/-- The highest effective priority among candidates (R259). -/
def topLevel (l : List (Nat × Choice)) : Nat := l.foldl (fun a c => max a c.1) 0

/-- The choice (R259): the run-queue context at the top level, or the first channel after the pointer. -/
def chooseFrom (rr : Nat) (l : List (Nat × Choice)) : Option Choice :=
  let best := (l.filter fun c => c.1 = topLevel l).map (·.2)
  match best.find? (fun c => match c with | .resume _ => true | .record _ _ => false) with
  | some c => some c
  | none =>
    match best.find? (fun c => match c with | .record ch _ => decide (rr < ch) | .resume _ => false) with
    | some c => some c
    | none => best.head?

/-! ## Dispatch (R260, R261) -/

/-- A task-level context is dispatched on a core: it becomes the core tenant's, after the scrub that another tenant's leaving
calls for; the delay in ticks (R261). -/
def State.claim (s : State) (d v t : Nat) : State × Nat :=
  let k := s.core d v
  match k.tenant with
  | some t0 =>
    if t0 = t then (s, 0)
    else ((s.setCore d v { k with tenant := some t, acc := [], accBad := [], kmap := [] }).scrubLs d v, 1024)
  | none => (s.setCore d v { k with tenant := some t }, 0)

/-- The format-table entry of a record's FIDX on a core (R230, R253). -/
def State.fmtEntry (s : State) (d v fidx : Nat) : Word × Word :=
  let i := (fidx + ((s.core d v).fmttab.extractLsb' 0 8).toNat) % 256
  (s.readWord (engLoc d (0x200000000 + 16 * i)), s.readWord (engLoc d (0x200000000 + 16 * i + 8)))

/-- The context that a record becomes (R52, R260, R312). The pc is a multiple of 4 (R55): the low two bits of ENTRY are dropped (DESIGN
CHOICE, log entry 72). -/
def State.newCtx (s : State) (d v p : Nat) (r : InRec) (ch : Chan) : Ctx :=
  let f := s.fmtEntry d v r.record.fidx
  let c0 : Ctx := { Ctx.reset with
    pc := r.record.entry &&& ~~~3#64
    fmt := f.1
    sclp := f.2
    ebudget := (s.core d v).erefill &&& 0xFFFFFFFF#64
    vtime := if ch.isOrd then r.record.d1 else 0
    chan := BitVec.ofNat 6 r.record.chan
    prio := BitVec.ofNat 6 r.record.prio
    tenant := if ch.isSup then 0 else BitVec.ofNat 8 r.tenant
    sup := ch.isSup
    record := r.record
    ordered := ch.isOrd
    revocable := ch.isOrd
    binding := r.binding
    chosenAt := some (s.dev d).cycle
    core := v
    pos := p
    place := .resident
    supTask := ch.isSup }
  let c1 := (((c0.setX 10#5 r.record.d4).setX 11#5 r.record.d5).setX 12#5 r.record.d6).setX 13#5 r.record.d7
  if r.trap then { c1 with tcause := r.record.d4 &&& 0xFF#64, tval := r.record.d5, tstat := r.record.d6 } else c1

/-- The START record and the task of an ordered dispatch (R288, R291). -/
def Chan.startTask (c : Chan) (cid : Nat) (r : InRec) (tenant : Nat) : Chan :=
  { c with
    wu := (c.wu + 1) % max 1 (c.ringCount 1)
    tasks := c.tasks ++ [⟨r.record, some cid, tenant, c.isSup, c.wu, c.wo, c.wd, 1, 0, 0, 0, [], (r.tenant, r.sup)⟩] }

/-- The bytes of a START record. -/
def startBytes (c : Chan) (r : Rec) : List Byte :=
  wordsBytes (BitVec.ofNat 64 (c.wo * 2 ^ 18 + c.wd * 2 ^ 4) :: r.words)

/-- Dispatch the record at index i of the inbox into a position under a free CID (R260). -/
def State.dispatchRecord (s : State) (d v p i cid : Nat) (r : InRec) : State :=
  let k := s.core d v
  let n := r.ch
  let ch := k.chan n
  let c := s.newCtx d v p r ch
  let (s, delay) := if ch.isSup then (s, 0) else s.claim d v r.tenant
  let s := s.modCore d v fun k => { k with inbox := k.inbox.eraseIdx i, rr := BitVec.ofNat 6 n }
  let s := if ch.isOrd then
      (s.writeBytes (lsLoc d v (ch.ringBase 1 + 72 * ch.wu)) (startBytes ch r.record)).modCore d v fun k =>
        k.setChan n (ch.startTask cid r c.tenant.toNat)
    else s
  (s.setPos d v p ⟨.dispatching ((s.dev d).cycle + 16 + delay), cid⟩).setCtx d cid c

/-! ## Images and resumption (R317, R321, R324) -/

/-- The wait that WAIT and WAITV of an image name (R317, R321): the context's own while they name it, else the one that they name instead
(DEDUCED, log entry 58). -/
def Ctx.waitOf (c : Ctx) (w v : Word) : Option Wait :=
  let kind := (w.extractLsb' 60 4).toNat
  let own := waitImage c.wait
  let again := fun (on : WaitOn) => some (Wait.again on [])
  if own.1.extractLsb' 60 4 == w.extractLsb' 60 4 && (kind != 2 || own.1.extractLsb' 0 5 == w.extractLsb' 0 5)
      && (kind == 2 || 5 ≤ kind || own.2 == v) then c.wait
  else match kind with
    | 0 => none
    | 1 => again (.full (0#8 ++ v))
    | 2 => again (.reg (w.extractLsb' 0 5))
    | 3 => again (.key v)
    | 4 => again (.tick v)
    | 5 => some (.reply 0 .none)
    | 6 => again .gvt
    | _ => again .other

/-- An instruction that is issued again at the resumption waits for nothing (R262). -/
def Wait.resumed : Option Wait → Option Wait
  | some (.again _ _) => none
  | w => w

/-- The window byte of an arrival record's VA: the image holds VA[63:0] alone, and the scheduler's copy the rest while the image names the
same barrier (R284, R317) (DEDUCED, log entry 58). -/
def Ctx.arrivalHi (c : Ctx) (va : Word) : Byte :=
  match c.arrival with
  | some a => if a.va.extractLsb' 0 64 = va then a.va.extractLsb' 64 8 else 0
  | none => 0

/-- The context that an image gives: every field but `tenant`, `vtime`, `chan`, `prio`, CID and PL (R321). The pc is a multiple of 4
(R55): the low two bits of the image's are dropped (DESIGN CHOICE, log entry 72). -/
def Ctx.ofImage (c : Ctx) (w : Nat → Word) : Ctx :=
  let fe := w 2432
  let vec := fun (n : Nat) => (List.range 16).foldl
    (fun (a : VWord) k => a ||| ((w (320 + 128 * n + 8 * k)).zeroExtend 1024 <<< (64 * k))) 0
  let csr := fun (n : Nat) => w (2440 + 8 * n)
  { c with
    pc := w 8 &&& ~~~3#64
    x := Vector.ofFn fun n => if n.val = 0 then 0 else w (64 + 8 * n.val)
    v := Vector.ofFn fun n => vec n.val
    m := Vector.ofFn fun n =>
      if n.val = 0 then BitVec.allOnes 128 else w (2368 + 16 * n.val + 8) ++ w (2368 + 16 * n.val)
    xf := fe.extractLsb' 0 32 ||| 1#32
    vf := fe.extractLsb' 32 16
    mf := fe.extractLsb' 48 4 ||| 1#4
    xr := c.xr &&& ~~~(fe.extractLsb' 0 32)
    vr := c.vr &&& ~~~(fe.extractLsb' 32 16)
    xc := c.xc &&& ~~~(fe.extractLsb' 0 32)
    aw := Vector.ofFn fun n => (csr n.val).extractLsb' 0 8
    fmt := csr 4 &&& 0x0F1FFFFF#64
    sclp := csr 5 &&& 0x0003FFFF0003FFFF#64
    vflags := csr 7 &&& 0x1F#64
    vstale := csr 8 &&& 1#64
    mcnt := csr 9
    mthr := csr 10 &&& 0xFFFF#64
    tcause := csr 11 &&& 0xFF#64
    tval := csr 12
    tepc := csr 13
    tstat := csr 14 &&& 0xE000FFFF000000FF#64
    tscratch := csr 15
    mcp := if (w 0).getLsbD 61 then some (c.mcp.getD 0) else none
    arrival := if (w 40).getLsbD 63 then some ⟨c.arrivalHi (w 48) ++ w 48, (w 40).extractLsb' 0 13⟩ else none
    conts := ((w 56).extractLsb' 16 16).toNat
    sending := none
    mism := 0
    sent := 0
    enTested := c.enTested && w 8 == c.pc
    wait := c.waitOf (w 24) (w 32) }

/-- A line of an image can be read: it is translated, and its channel core has not failed (R356). -/
def State.lineReads (s : State) (d cid k : Nat) : Bool :=
  match s.areaLoc d (s.ctx d cid).core (vaAdd (s.imageVa d cid) (64 * k)) .read with
  | some l => !s.frontFailed l
  | none => false

/-- The context as its image gives it, when every line of the image can be read. -/
def State.fromImage (s : State) (d cid : Nat) : Ctx :=
  let c := s.ctx d cid
  if (List.range 48).all (s.lineReads d cid) then
    c.ofImage fun off => s.getImage d cid off
  else c

/-- Deliver the marked record of a bound context (R268). -/
def State.recvMarked (s : State) (d cid : Nat) : State :=
  let c := s.ctx d cid
  match c.wait with
  | some (.recv _ off rd) =>
    let k := s.core d c.core
    match indexOf (fun (r : InRec) => r.mark == some cid) k.inbox with
    | some i => match k.inbox[i]? with
      | some r =>
        ((s.setCore d c.core { k with inbox := k.inbox.eraseIdx i }).writeBytes (lsLoc d c.core off)
          (wordsBytes r.record.words)).setCtx d cid { (c.setX rd 0) with pc := c.pc + 4, wait := none }
      | none => s
    | none => s
  | _ => s

/-- What landed while the context was not resident takes effect (R262, R324). -/
def State.applyLanded (s : State) (d cid : Nat) : State :=
  let c := s.ctx d cid
  let s' := s.setCtx d cid { c with landed := .no }
  match c.landed with
  | .no => s.recvMarked d cid
  | .written => s.setCtx d cid { c with landed := .no, wait := none, pc := if c.wait.isSome then c.pc + 4 else c.pc }
  | .ans a => s'.landAnswer d cid a

/-- A context of the run queue is dispatched into a position (R260): from its image, with REFILL (R242). -/
def State.resumeCtx (s : State) (d v p cid : Nat) : State :=
  let c := s.ctx d cid
  let c1 := s.fromImage d cid
  let c2 := { c1 with
    wait := Wait.resumed c1.wait
    ebudget := (s.core d v).erefill &&& 0xFFFFFFFF#64
    core := v
    pos := p
    place := .resident }
  let (s, delay) := if c.supTask then (s, 0) else s.claim d v c.tenant.toNat
  let s := s.modCore d v fun k => { k with runq := k.runq.filter fun x => x ≠ cid }
  let s := (s.setPos d v p ⟨.parked, cid⟩).setCtx d cid c2
  let s := s.applyLanded d cid
  if (s.ctx d cid).alive then s.setPos d v p ⟨.dispatching ((s.dev d).cycle + 16 + delay), cid⟩ else s

/-- A context joins the tail of its core's run queue, linked through the records (R252, R317). -/
def State.joinRunq (s : State) (d cid : Nat) : State :=
  let c := s.ctx d cid
  let k := s.core d c.core
  let s := (s.setCore d c.core { k with runq := k.runq ++ [cid] }).setCtx d cid { c with place := .runq (s.dev d).cycle }
  let s := (s.setImage d cid 0 (s.getImage d cid 0 ||| (1#64 <<< 60))).setImage d cid 16 (1#64 <<< 63)
  match k.runq.getLast? with
  | some prev => s.setImage d prev 16 (BitVec.ofNat 64 cid)
  | none => s

/-! ## Saving (R318, R319) -/

/-- What a line of a save's area allows: writes at a place, a fault with the subcode of R319, or nothing yet, while a home holds the
walk, the page or the writes (R41, R358). -/
inductive SaveAt where
  | ok (loc : Nat)
  | bad (sub : Nat)
  | wait

/-- A page of an area: translated under tenant 0 with W, MIG 0 and tier HBM or low-power DRAM (R318). -/
def State.pinned (s : State) (d v : Nat) (va : VA) : SaveAt :=
  let a := va.toNat % 2 ^ 71
  match s.leaf d (clusterOf v) 0 (partIssuer d v) va with
  | .error f => if f = walkHeld then .wait else .bad 1
  | .ok (e, b) =>
    let loc := tierLoc d (pteTier e) (ptePa e + a % 2 ^ b)
    if !e.getLsbD 2 then .bad 2
    else if e.getLsbD 7 || 2 ≤ pteTier e then .bad 4
    else if s.tierSize d (pteTier e) ≤ ptePa e + a % 2 ^ b then .bad 1
    else if (s.refusal ⟨partIssuer d v, d, va, some loc, false, .store 8 0, .nowhere⟩ loc).isSome then .bad 2
    else if ((s.dev d).moveOf loc).isSome || (s.ckpt loc).isNone then .wait
    else .ok loc

/-- The outcome of a save: done, the subcode and the bytes written, or nothing yet. -/
inductive SaveRes where
  | done (s : State)
  | fail (s : State) (sub tval : Nat)
  | wait

/-- Write the body lines of an image from line k (R318). -/
def State.saveLines (s : State) (d v : Nat) (area : VA) (img : List Word) (limit : Nat) : List Nat → SaveRes
  | [] => .done s
  | k :: t =>
    if limit ≤ k then .fail s 3 (64 * (k - 1))
    else match s.pinned d v (vaAdd area (64 * k)) with
      | .wait => .wait
      | .bad n => .fail s n (64 * (k - 1))
      | .ok loc => (s.hwWrites v loc ((img.drop (8 * k)).take 8)).saveLines d v area img limit t

/-- Save a context image at an area of `limit` lines (R318): V = 0, the body lines, and then line 0 (DESIGN CHOICE, log entry 16). -/
def State.saveImage (s : State) (d v : Nat) (area : VA) (img : List Word) (limit : Nat) : SaveRes :=
  match s.pinned d v area with
  | .wait => .wait
  | .bad n => .fail s n 0
  | .ok loc =>
    match (s.hwWrite v loc 0).saveLines d v area img limit ((List.range 47).map (· + 1)) with
    | .done s => .done (s.hwWrites v loc (img.take 8))
    | r => r

/-- A unit still holds vector or tile instructions of a context (R202, R234). -/
def MJob.of (cid : Nat) : MJob → Bool
  | .tile j => j.cid == cid
  | .mova c _ _ _ _ => c == cid
  | .movaw c _ _ _ _ => c == cid
def VJob.of (cid : Nat) : VJob → Bool
  | .result c _ _ _ _ => c == cid
  | .row c _ _ _ => c == cid
  | .counts c _ => c == cid
  | .vqapp c _ _ _ => c == cid
def Core.busyFor (k : Core) (cid : Nat) : Bool :=
  k.vq.any (VJob.of cid) || k.mq.any (MJob.of cid) || k.mdone.any fun j => j.cid == cid

/-- A vector or tile instruction of a context of core v is incomplete: it is not saved or moved (R202, R234). -/
def State.busy (s : State) (d v cid : Nat) : Bool := (s.core d v).busyFor cid || (s.ctx d cid).split.isSome

/-- A CTXSAVE or MIGRC pauses a position, or lets it go on (R318, R319, R322). -/
def State.pause (s : State) (d v p : Nat) (b : Bool) : State :=
  s.modCore d v fun k => { k with paused := if b then p :: k.paused.filter (· ≠ p) else k.paused.filter (· ≠ p) }

/-- A position issues nothing because it is paused; one whose context moves itself waits like any parked one (R318, R322). -/
def State.stopped (s : State) (d v p : Nat) : Bool :=
  (s.core d v).paused.contains p && match (s.ctx d (s.pos d v p).cid).wait with
    | some (.again (.pos q) _) => q != p
    | _ => true

/-- A save or a move of a position ends where its context stays: what was held back lands there (R319, R325). -/
def State.unpause (s : State) (d v p cid : Nat) : State :=
  let s := (s.pause d v p false).landLate d cid
  let s' := s.recvMarked d cid
  if (s.ctx d cid).wait.isSome && (s'.ctx d cid).wait.isNone then s'.setPos d v p ⟨.running, cid⟩ else s'

/-- A command with w0[28] of a context has not completed (R232). -/
def Core.counting (k : Core) (cid : Nat) : Bool :=
  (k.mq.any fun j => match j with | .tile t => t.cid == cid && t.ctrap | _ => false)
    || k.mdone.any fun d => d.cid == cid && d.ctrap

/-- The context of a position leaves it for its record, with its image at a VA. -/
def State.leave (s : State) (d v p cid : Nat) (area : VA) (place : Place) : State :=
  ((s.undoSend d cid).setPos d v p ⟨.empty, 0⟩).modCtx d cid fun c =>
    { c with place := place, area := area, landed := .no, sending := none, mism := 0, ahead := [] }

/-- The image of a context that leaves its position: a send that waits there has had no effect (R379). -/
def State.imageOf (s : State) (d cid : Nat) : List Word := ((s.undoSend d cid).ctx d cid).image cid true false 0

/-! ## Eviction (R262) -/

/-- A context parked longer than MAX that the scheduler may evict, and when it parked (DEDUCED, log entry 54). -/
def State.evictable (s : State) (d v top p : Nat) : Option (Nat × Nat) :=
  let k := s.core d v
  let q := s.pos d v p
  let c := s.ctx d q.cid
  let lim := k.vigmax.toNat % 2 ^ 32
  if q.st = .parked ∧ lim ≠ 0xFFFFFFFF ∧ lim < ticksFrom c.parkedAt (s.dev d).cycle ∧ c.prio.toNat ≤ top ∧ !k.noEvict.contains q.cid ∧ !k.paused.contains p then
    some (c.parkedAt, p)
  else none

/-- The victim: parked longest, then lowest position. -/
def State.victim (s : State) (d v : Nat) : Option Nat :=
  let cand := s.candidates d v none
  if cand.isEmpty || (List.range 8).any (fun p => (s.pos d v p).st == .empty) then none
  else
    (((List.range 8).filterMap (s.evictable d v (topLevel cand))).foldl
      (fun (a : Option (Nat × Nat)) b => match a with | none => some b | some a => if b.1 < a.1 then some b else some a)
      none).map (·.2)

/-- A context waits on the energy budget: its wait counts as ended at once (R262). -/
def Ctx.onBudget (c : Ctx) : Bool :=
  match c.wait with
  | some (.again .budget _) => true
  | _ => false

/-- Evict the context of a position; a save that cannot complete is abandoned, with a SAVEFAULT trap record (R262, R319) (DEDUCED, log entry 55). -/
def State.evict (s : State) (d v p : Nat) : State :=
  let cid := (s.pos d v p).cid
  let c := s.ctx d cid
  if s.busy d v cid then s
  else
    let area := s.recordVa d v cid
    match s.saveImage d v area (s.imageOf d cid) 48 with
    | .wait => s
    | .fail s n b =>
      (s.modCore d v fun k => { k with noEvict := cid :: k.noEvict }).trapRecord d v 0x12 (BitVec.ofNat 64 b)
        (TrapInfo.tstat { cause := 0x12, tval := 0, sub := n } c.sup) cid
    | .done s =>
      let s := s.leave d v p cid area .evicted
      if c.onBudget then s.joinRunq d cid else s

/-! ## The end of a wait (R262) -/

/-- Look at another context as the one that moves. -/
def State.focus (s : State) (d v p cid : Nat) : State :=
  { s with cur := { s.cur with dev := d, vcn := v, pos := p, cid := cid, words := [], since := none } }

/-- Every task of the core's ordered channels with a key below a bound. -/
def Core.tasksBelow (k : Core) (key : Nat) : List OTask :=
  (k.chans.flatMap fun p => p.2.tasks).filter fun t => t.record.key < key

/-- IRREV's condition (R294): the GVT key has reached the task's key, and every lower task of the core is committed. -/
def State.irrevReady (s : State) (d v : Nat) (key : Nat) : Bool :=
  decide (key ≤ (s.dev d).gvtKey) && !(s.core d v).jubilee && ((s.core d v).tasksBelow key).isEmpty

/-- An unanswered TSEND or TCALL of a context to a core (R271). -/
def State.sendsTo (s : State) (cid dev vcn : Nat) : Bool :=
  s.anyEntry s.cur.dev fun e =>
    e.isOpen cid && (e.kind == 5 || e.kind == 6) && e.dev == dev && (e.data.extractLsb' 0 13).toNat == vcn

/-- A queue place of the matrix unit is free (R233). -/
def Core.mqFree (k : Core) : Bool := k.mq.length < 2

/-- An inbox place is free (R264). -/
def Core.inboxRoom (k : Core) : Bool := k.inbox.length + k.resv < (k.inbase.extractLsb' 0 9).toNat

/-- Places of a link that are taken: fills on their way and fills held at the target (R199). -/
def State.linkLoad (s : State) (d target : Nat) (dir : Dir) : Nat :=
  (s.net.filter fun m => match m with
    | .nfill d' v dir' _ _ _ _ _ _ => d' == d && v == target && dir' == dir
    | _ => false).length
  + (s.ctxs.filter fun p => keyDev p.1 == d).foldl
      (fun a p => a + (p.2.held.filter fun h => h.link == some (target, dir)).length) 0

/-- A walk of a TLBI's scope that began before its drop is still in progress: of the own cluster, of the own device, or of every device of the
domain that is up (R39). -/
def State.staleWalk (s : State) (scope : Nat) : Bool :=
  let d := s.cur.dev
  s.devs.any fun p => (if scope ≤ 3 then p.1 == d else p.1 == d || s.inDomain d p.1 && !s.device.down.contains p.1)
    && p.2.walks.any fun w => w.stale && w.ended.isNone && (decide (2 < scope) || w.cluster == clusterOf s.cur.vcn)

/-- The condition of a parked instruction may hold, for the context in focus (R262). -/
def State.condition (s : State) (on : WaitOn) : Bool :=
  let c := s.thread
  let k := s.here
  match on with
  | .reg r => c.fullX r
  | .vreg r => c.fullV r
  | .mreg r => c.fullM r
  | .key w => k.lookable w
  | .tick t => decide (t.toNat ≤ s.now)
  | .promise t => promisePassed s.now t
  | .ring ch n => decide ((k.chan ch).inRing n < (k.chan ch).ringCount n)
  | .gvt => s.irrevReady s.cur.dev s.cur.vcn c.record.key
  | .acks sc => !s.unacked sc
  | .refused sc => !s.refusedIn sc
  | .journal => k.freeEntry.isSome
  | .matching dev va => !s.matching dev va
  | .inbox => k.inboxRoom
  | .queue => k.mqFree
  | .split => c.split.isNone
  | .drain => !s.busy s.cur.dev s.cur.vcn s.cur.cid
  | .sends dev vcn => !s.sendsTo s.cur.cid dev vcn
  | .fork => (c.fork.map fun f => f.left == 0).getD true
  | .link dir => match meshOf s.cur.vcn with
    | some q => s.linkLoad s.cur.dev (vcnAt (neighbour q dir).1 (neighbour q dir).2) dir < 8
    | none => true
  | .pos p =>
    let q := s.pos s.cur.dev s.cur.vcn p
    match q.st with
    | .empty => true
    | .dispatching _ => false
    | _ => !s.busy s.cur.dev s.cur.vcn q.cid
  | .counts => !k.counting s.cur.cid
  | .held va => match s.resolveAt s.cur.dev s.issuer va .read 8 false with
    | .ok t => (s.moveHolds (s.reqOf s.cur.dev va (some t) (.load 8 false)) t.loc).isNone
    | .error f => f ≠ walkHeld
  | .walks sc => !s.staleWalk sc
  | .full va => match s.resolveAt s.cur.dev s.issuer va .read 8 false with
    | .ok t => s.full (s.atPort t.loc)
    | .error f => f ≠ walkHeld
  | .budget | .other => true

/-- The awaited event of an evicted context has happened (R262). -/
def State.waitOver (s : State) (d cid : Nat) : Bool :=
  let c := s.ctx d cid
  match c.wait with
  | none => true
  | some (.word _ _) | some (.reply _ _) => c.landed != .no
  | some (.recv _ _ _) => (s.core d c.core).inbox.any fun r => r.mark == some cid
  | some (.again on _) => (s.focus d c.core c.pos cid).condition on

/-! ## Events -/

/-- DISPATCH_CHOICE (R259, R260): in the turn of an EMPTY position of the core that moves. -/
def execDispatchChoice (s : State) : Out :=
  let d := s.cur.dev
  let v := s.cur.vcn
  let p := s.cur.pos
  .next (
    if (s.pos d v p).st ≠ .empty then s
    else match chooseFrom (s.core d v).rr.toNat (s.candidates d v (some p)) with
      | none => s
      | some (.resume cid) => s.resumeCtx d v p cid
      | some (.record _ i) =>
        match (s.core d v).inbox[i]?, s.freeCid d v with
        | some r, some cid => s.dispatchRecord d v p i cid r
        | _, _ => s)

/-- EVICTION (R262). -/
def execEviction (s : State) : Out :=
  .next (match s.victim s.cur.dev s.cur.vcn with
    | some p => s.evict s.cur.dev s.cur.vcn p
    | none => s)

/-- WAIT_END (R262). -/
def execWaitEnd (cid : Nat) (s : State) : Out :=
  .next (
    if (s.ctx s.cur.dev cid).place = .evicted ∧ s.waitOver s.cur.dev cid then s.joinRunq s.cur.dev cid else s)

end Sys2Proof.Machine
end

