-- ==== Sys2Proof/Machine/Tasks.lean ====
section
/-! DEFINITION. The scheduler's instructions: sends, the end of a task, RECV, the deque, fork and join, and barriers (R263 to
R278, R284, R291). -/

namespace Sys2Proof.Machine

/-! ## Target words and stamps (R257, R264) -/

/-- Fields of a target word. -/
def twPeer (t : Word) : Bool := t.getLsbD 31
def twDev (t : Word) : Nat := (t.extractLsb' 19 12).toNat
def twCh (t : Word) : BitVec 6 := t.extractLsb' 13 6
def twVcn (t : Word) : Nat := (t.extractLsb' 0 13).toNat

/-- The VCN that names an idle core. -/
def anyIdle : Nat := 0x1FFF

/-- The target word is malformed (R264). -/
def twBad (t : Word) : Bool :=
  t.extractLsb' 32 32 != 0#32 || twCh t == 63#6 || (!twPeer t && twDev t != 0) || (4608 ≤ twVcn t && twVcn t != anyIdle)

/-- The device a target word names, from a device. -/
def twDevice (d : Nat) (t : Word) : Nat := if twPeer t then twDev t else d

/-- d2 of a record: SEQ, SDEV and SVCN. -/
def stampD2 (d v : Nat) (seq : BitVec 39) : Word := seq ++ BitVec.ofNat 12 d ++ BitVec.ofNat 13 v

/-- The read-only fields of a record as the hardware fills them (R257, R264). -/
def Rec.stamp (r : Rec) (ch : BitVec 6) (reply : Bool) (d2 d3 : Word) : Rec :=
  { r with d0 := 0#1 ++ BitVec.ofBool reply ++ 0#2 ++ ch ++ r.d0.extractLsb' 0 54, d2 := d2, d3 := d3 }

/-- d3 of a TCALL: CDEV, CREG, CCID, CVCN. -/
def callD3 (d v cid : Nat) (rd : Reg) : Word := 0#10 ++ BitVec.ofNat 12 d ++ rd ++ BitVec.ofNat 24 cid ++ BitVec.ofNat 13 v

/-- The scope of a code (R60). -/
def scopeOf (c : BitVec 3) : Scope :=
  match c.toNat with
  | 0 => .th | 1 => .co | 2 => .cl | 3 => .dv | 4 => .dm | _ => .sy

/-- The spanning scope of two cores (R135). For two cores of one cluster R135's definition gives .cl, where R146 names .dv for two cores of
one device: the model takes R135's (DESIGN CHOICE, log entry 73). -/
def spanning (d v d' v' : Nat) : Scope :=
  if d ≠ d' then .dm else if v = v' then .co else if clusterOf v = clusterOf v' then .cl else .dv

/-- The spanning scope of a sender and a target word (R139); an idle core is one of the own cluster. -/
def sendScope (d v : Nat) (t : Word) : Scope :=
  if twDevice d t ≠ d then .dm else if twVcn t = anyIdle then .cl else spanning d v d (twVcn t)

/-! ## Sending (R264, R299) -/

/-- The answer of a record goes from a part to its sender. -/
def State.answerSend (s : State) (src : Nat) (who : Issuer) (k : SendKind) (a : Ans) : State :=
  match k with
  | .tsend i | .tcall i | .fork i => s.send (.ans src who (.journal i) a)
  | .tsends => s.send (.ans src who .reply a)
  | .anti => s

/-- Count an ordered record as sent under the core's colour, and lower its minimum-sent key (R299). -/
def Core.countSent (k : Core) (col : Bool) (key : Nat) : Core :=
  if col then { k with sent1 := k.sent1 + 1, min1 := min k.min1 key }
  else { k with sent0 := k.sent0 + 1, min0 := min k.min0 key }

/-- Count an ordered record as received under a colour. -/
def Core.countReceived (k : Core) (col : Bool) : Core :=
  if col then { k with recv1 := k.recv1 + 1 } else { k with recv0 := k.recv0 + 1 }

/-- COL of an ordered record (R257). -/
def Rec.colour (r : Rec) (c : Bool) : Rec :=
  { r with d3 := (r.d3 &&& ~~~(1#64 <<< 54)) ||| (if c then 1#64 <<< 54 else 0) }

/-- A device can be reached: it is the own one, or of the domain and not down (R27, R335). -/
def State.reachable (s : State) (d n : Nat) : Bool := n == d || s.inDomain d n && !(s.dev d).down.contains n

/-- A record to a channel counts as an ordered record when the channel is ordered, and one for an idle core when a core of the cluster has that
channel ordered (DEDUCED, log entry 21); an anti-message always does (R299). -/
def State.toOrdered (s : State) (who : Issuer) (dst vcn ch : Nat) : Bool :=
  if vcn = anyIdle then s.cores.any fun p => p.1 / 8192 == dst && clusterOf (p.1 % 8192) == clusterOf who.vcn && (p.2.chan ch).isOrd
  else ((s.core dst vcn).chan ch).isOrd

/-- A stamped record leaves its core for a target; to a device out of reach it is answered with NACK 6 (R27, R299, R335). -/
def State.launchRecord (s : State) (who : Issuer) (dst vcn : Nat) (r : Rec) (kind : SendKind) (ordSender : Bool) : State :=
  if s.reachable who.dev dst then
    let counted := r.anti || s.toOrdered who dst vcn r.chan
    let col := (s.dev who.dev).colour
    let r' := if counted then r.colour col else r
    let s := if counted then s.modCore who.dev who.vcn fun k => k.countSent col r.key else s
    s.send (.record ⟨who, dst, vcn, r', kind, ordSender, counted⟩)
  else s.answerSend (gateway who.dev) who kind (.nack 6)

/-- Send a record as TSEND, TSENDS or TCALL do, with the SEQ that it has taken (R257, R264). -/
def State.sendRecord (s : State) (who : Issuer) (t : Word) (r : Rec) (seq : BitVec 39) (reply : Bool) (d3 : Word) (kind : SendKind)
    (ordSender : Bool) : State :=
  s.launchRecord who (twDevice who.dev t) (twVcn t) (r.stamp (twCh t) reply (stampD2 who.dev who.vcn seq) d3) kind ordSender

/-- The handle of a send (R264). -/
def handle (d : Nat) (t : Word) (seq : BitVec 39) : Word := seq ++ BitVec.ofNat 12 (twDevice d t) ++ BitVec.ofNat 13 (twVcn t)

/-- The journal entry of a send (R314), a release at the spanning scope (R139). -/
def sendEntry (cid d v : Nat) (t : Word) (seq : BitVec 39) (creg : Nat) (call jub fork sup : Bool) : JEntry :=
  ⟨none, cid, 0, twDevice d t, twPeer t, none, if call then 6 else 5, 0, 0, scopeCode (sendScope d v t), t, seq.toNat, creg, jub, false,
    fork, sup⟩

/-- The three sends. -/
inductive SendOp where
  | tsend | tsends | tcall
deriving DecidableEq, Repr

/-- The record image at a record offset; poisoned words are refused (DEDUCED, log entry 10). -/
def State.image (s : State) (off : Nat) (k : Rec → State → State) : State :=
  let l := lsLoc s.cur.dev s.cur.vcn off
  if s.poisoned l 64 then s.trap (nackTrap (s.ownVa off) 5) else k (s.readRec l) s

/-- A send takes the core's SEQ, and a TCALL empties its continuation register and counts the continuation, before anything for which it may
park (R6, R264); one that is issued again keeps the SEQ it took (DEDUCED, log entry 85). -/
def State.beginSend (s : State) (creg : Option Reg) (k : BitVec 39 → State → State) : State :=
  let q := match s.thread.sending with | some g => g.seq | none => s.here.seq
  let s := if s.thread.sending.isSome then s else s.onCore fun k => { k with seq := k.seq + 1 }
  k q (s.onThread fun c => match creg with
    | some rd => { (c.awaitCall rd) with conts := c.conts + 1, sending := some ⟨q, creg, false⟩ }
    | none => { c with sending := some ⟨q, none, false⟩ })

/-- A posted send reserves its inbox place and finds its journal entry, or parks (R97, R264). -/
def State.sendPlaces (s : State) (k : Nat → State → State) : State :=
  if !s.here.inboxRoom then s.park .inbox
  else
    let s := (s.onCore fun k => { k with resv := k.resv + 1 }).onThread fun c =>
      { c with sending := c.sending.map fun g => { g with resv := true } }
    match s.here.freeEntry with
    | none => s.park .journal
    | some i => k i s

/-- A posted send leaves: its entry and its record (R264). -/
def State.postSend (s : State) (i : Nat) (t : Word) (r : Rec) (seq : BitVec 39) (reply : Bool) (d3 : Word) (kind : SendKind) (creg : Nat)
    (fork : Bool) : State :=
  let e := sendEntry s.cur.cid s.cur.dev s.cur.vcn t seq creg reply false fork s.thread.sup
  ((s.onCore fun k => { k with journal := Table.set k.journal i e }).onThread fun c => { c with sending := none }).sendRecord s.issuer t r seq
    reply d3 kind s.thread.ordered

/-- A send that leaves at once (R264); `out` for an ordered send of a revocable task, which writes an output record (R289). -/
def State.sendNow (s : State) (op : SendOp) (t : Word) (r : Rec) (rd : Reg) (out : Bool) : State :=
  match op with
  | .tsends =>
    s.beginSend none fun seq s => s.release (sendScope s.cur.dev s.cur.vcn t) fun s =>
      ((s.onThread fun c => { (c.awaitX rd) with sending := none }).parkOn (.reply (0#8 ++ t) (.reg rd))).sendRecord s.issuer t r seq false 0
        .tsends s.thread.ordered
  | .tsend =>
    s.beginSend none fun seq s => s.sendPlaces fun i s => s.release (sendScope s.cur.dev s.cur.vcn t) fun s =>
      let s := if out then
          s.ringWrite 2 (wordsBytes [0#32 ++ t.extractLsb' 0 32, r.d1, stampD2 s.cur.dev s.cur.vcn seq, 0])
        else s
      ((s.postSend i t r seq false 0 (.tsend i) 0 false).setX rd (handle s.cur.dev t seq)).retire
  | .tcall =>
    s.beginSend (some rd) fun seq s => s.sendPlaces fun i s => s.release (sendScope s.cur.dev s.cur.vcn t) fun s =>
      (s.postSend i t r seq true (callD3 s.cur.dev s.cur.vcn s.cur.cid rd) (.tcall i) rd.toNat false).retire

/-- The header of a deferred send (R290). -/
def deferredSend (t : Word) : Word :=
  BitVec.ofNat 4 5 ++ 0#8 ++ 0#3 ++ 3#2 ++ 0#4 ++ BitVec.ofBool (twPeer t) ++ BitVec.ofNat 12 (twDev t) ++ 0#11
    ++ t.extractLsb' 0 19

/-- A TSEND of a revocable task (R291): a deferred one keeps the record image as it stands (R290), and its fields are filled when jubilee
sends it. -/
def State.sendRevocable (s : State) (t : Word) (r : Rec) (rd : Reg) : State :=
  if r.d1 = 0 then
    s.alone fun s => s.ringRoom 3 1 fun s =>
      ((s.ringWrite 3 (wordsBytes (deferredSend t :: r.words))).setX rd (handle s.cur.dev t 0)).retire
  else if r.d1 ≤ s.thread.vtime then s.illegalVal r.d1
  else if twVcn t = anyIdle then s.illegalVal t
  else s.ringRoom 2 1 fun s => s.sendNow .tsend t r rd true

/-- TSEND, TSENDS and TCALL (R264). -/
def State.sendInstr (s : State) (op : SendOp) (rd rs1 rs2 : Reg) : State :=
  s.ready [.x rs1, .x rs2, .x rd] fun s =>
    let t := s.thread.getX rs1
    if twBad t then s.illegalVal t
    else if op = .tsends ∧ twPeer t ∧ !s.inDomain s.cur.dev (twDev t) then s.trap (nackTrap (0#8 ++ t) 6)
    else s.recordOffset (s.thread.getX rs2) fun off s => s.image off fun r s =>
      if s.thread.revocable then s.sendRevocable t r rd else s.sendNow op t r rd false

/-- TSEND (R264). -/
def execTsend (rd rs1 rs2 : Reg) (s : State) : Out := .next (s.sendInstr .tsend rd rs1 rs2)

/-- TSENDS (R264). -/
def execTsends (rd rs1 rs2 : Reg) (s : State) : Out := .next (s.irrevocable fun s => s.sendInstr .tsends rd rs1 rs2)

/-- TCALL (R264). -/
def execTcall (rd rs1 rs2 : Reg) (s : State) : Out := .next (s.irrevocable fun s => s.sendInstr .tcall rd rs1 rs2)

/-- TCANCEL (R271) (DEDUCED, log entry 62). -/
def execTcancel (rd rs1 : Reg) (s : State) : Out :=
  .next (s.irrevocable fun s => s.ready [.x rs1, .x rd] fun s =>
    let h := s.thread.getX rs1
    let dev := (h.extractLsb' 13 12).toNat
    let vcn := (h.extractLsb' 0 13).toNat
    if vcn = anyIdle then s.illegal
    else if !s.inDomain s.cur.dev dev then s.trap (nackTrap (0#8 ++ h) 6)
    else if s.sendsTo s.cur.cid dev vcn then s.park (.sends dev vcn)
    else s.alone fun s =>
      let s := (s.onThread (·.awaitX rd)).parkOn (.reply (0#8 ++ h) (.reg rd))
      if s.reachable s.cur.dev dev then s.send (.cancel s.issuer h) else s.send (.ans (gateway s.cur.dev) s.issuer .reply (.nack 6)))

/-! ## Channels and the end of a task -/

/-- CHBLK and CHUNBLK (R270). -/
def State.chBlock (s : State) (rs1 : Reg) (b : Bool) : State :=
  s.irrevocable fun s => s.ready [.x rs1] fun s =>
    let c := s.thread.getX rs1
    if 63 < c.toNat then s.illegalVal c
    else (s.onCore fun k => k.setChan c.toNat { k.chan c.toNat with blocked := b }).retire

/-- CHBLK (R270). -/
def execChblk (rs1 : Reg) (s : State) : Out := .next (s.chBlock rs1 true)

/-- CHUNBLK (R270). -/
def execChunblk (rs1 : Reg) (s : State) : Out := .next (s.chBlock rs1 false)

/-- The task of the thread that moves ends (R267, R293). -/
def State.endTask (s : State) : State := s.endContext s.cur.dev s.cur.cid

/-- TEND (R267). -/
def execTend (s : State) : Out := .next s.endTask

/-- TRET (R266): the fill of the caller's continuation, as a release, and the end of the task. -/
def execTret (rs1 : Reg) (s : State) : Out :=
  .next (s.irrevocable fun s => s.ready [.x rs1] fun s =>
    let r := s.thread.record
    let v := s.thread.getX rs1
    if r.reply then
      s.release (spanning s.cur.dev s.cur.vcn r.cdev r.cvcn) fun s =>
        let s' := s.endTask
        if s.reachable s.cur.dev r.cdev then
          (s'.flits (meshLegs (coreKey s.cur.dev s.cur.vcn) (coreKey r.cdev r.cvcn)) 1).send (.fill s.cur.dev r.cdev r.cvcn r.ccid false r.creg (v.zeroExtend 1024) true)
        else s'
    else s.endTask)

/-- TYIELD (R269): with a candidate for its position the context is saved and joins the run-queue tail. Where the save fails the thread goes
on after TYIELD, and its core gets the trap record of an abandoned eviction (DESIGN CHOICE, log entry 96). -/
def execTyield (s : State) : Out :=
  let d := s.cur.dev
  let v := s.cur.vcn
  let cid := s.cur.cid
  .next (
    if (s.candidates d v (some s.cur.pos)).isEmpty then s.retire
    else if s.busy d v cid then s.park .drain
    else
      let old := s
      let s := s.retire
      let area := s.recordVa d v cid
      match s.saveImage d v area (s.imageOf d cid) 48 with
      | .wait => old.parkHeld area
      | .fail s n b => s.trapRecord d v 0x12 (BitVec.ofNat 64 b) (TrapInfo.tstat { cause := 0x12, tval := 0, sub := n } s.thread.sup) cid
      | .done s => (s.leave d v s.cur.pos cid area .evicted).joinRunq d cid)

/-- RECV (R268). -/
def execRecv (rd rs1 : Reg) (s : State) : Out :=
  .next (s.irrevocable fun s => s.ready [.x rs1, .x rd] fun s =>
    let w := s.thread.getX rs1
    let c := (w.extractLsb' 0 6).toNat
    let ch := s.here.chan c
    if c = 63 ∨ ch.isOrd then s.illegalVal w
    else s.recordOffset (w &&& ~~~63#64) fun off s =>
      match indexOf (fun (r : InRec) => r.waits c) s.here.inbox with
      | some i =>
        match s.here.inbox[i]? with
        | some r =>
          (((s.onCore fun k => { k with inbox := k.inbox.eraseIdx i }).hwWrites s.cur.vcn (lsLoc s.cur.dev s.cur.vcn off)
            r.record.words).setX rd 0).retire
        | none => s
      | none =>
        if ch.bound.isSome ∧ ch.bound ≠ some s.cur.cid then (s.setX rd 1).retire
        else (s.onCore fun k => k.setChan c { ch with bound := some s.cur.cid }).parkOn (.recv (BitVec.ofNat 6 c) off rd))

/-! ## The deque (R272, R273) -/

/-- CAP of the deque. -/
def Core.dequeCap (k : Core) : Nat := (k.deqbase.extractLsb' 0 9).toNat

/-- An operation on the port of the core's deque, which serves one in a tick (R273). -/
def State.onDeque (s : State) (f : List Rec → List Rec) : State :=
  s.onCore fun k => { k with deque := f k.deque, dqTick := some s.now }

/-- The port serves one operation in a tick: an owner's that comes second stalls to its position's next turn (R273; DESIGN CHOICE, log
entry 86). -/
def State.dequePort (s : State) (k : State → State) : State := if s.here.dqTick == some s.now then s.stall else k s

/-- DQPUSH (R272, R273). -/
def execDqpush (rd rs1 : Reg) (s : State) : Out :=
  .next (s.irrevocable fun s => s.ready [.x rs1, .x rd] fun s =>
    s.recordOffset (s.thread.getX rs1) fun off s => s.image off fun r s => s.release .dv fun s => s.dequePort fun s =>
      if s.here.deque.length < s.here.dequeCap then
        ((s.onDeque (· ++ [r])).setX rd 0).retire
      else ((s.onDeque id).setX rd 1).retire)

/-- DQPOP (R272): the bottom record. -/
def execDqpop (rd rs1 : Reg) (s : State) : Out :=
  .next (s.irrevocable fun s => s.ready [.x rs1, .x rd] fun s =>
    s.recordOffset (s.thread.getX rs1) fun off s => s.dequePort fun s =>
      match s.here.deque.getLast? with
      | some r =>
        (((s.onDeque List.dropLast).hwWrites s.cur.vcn (lsLoc s.cur.dev s.cur.vcn off) r.words).setX rd 0).retire
      | none => ((s.onDeque id).setX rd 2).retire)

/-- A steal at the victim's port: the top record, EMPTY or REFUSED (R272); the code first. -/
def State.stealAt (s : State) (who : Issuer) (vcn : Nat) : State × List Word :=
  let k := { s.core who.dev vcn with dqTick := some (s.dev who.dev).cycle }
  if !who.sup ∧ k.tenant ≠ some who.tenant then (s, [3])
  else match k.deque with
    | r :: t => (s.setCore who.dev vcn { k with deque := t }, 0 :: r.words)
    | [] => (s.setCore who.dev vcn k, [2])

/-- DQSTEAL (R272, R273): reply-bearing at the victim. -/
def execDqsteal (rd rs1 rs2 : Reg) (s : State) : Out :=
  .next (s.irrevocable fun s => s.ready [.x rs1, .x rs2, .x rd] fun s =>
    let v := s.thread.getX rs1
    if 4607 < v.toNat then s.illegalVal v
    else s.recordOffset (s.thread.getX rs2) fun off s => s.alone fun s =>
      ((s.onThread (·.awaitX rd)).parkOn (.reply 0 (.steal rd off))).send (.steal s.issuer v.toNat))

/-! ## Fork and join (R274, R275) -/

/-- A core is idle (R265). -/
def State.idle (s : State) (d v : Nat) : Bool :=
  let k := s.core d v
  (List.range 8).all (fun p => (s.pos d v p).st == .empty) && k.inbox.isEmpty && k.deque.isEmpty && k.runq.isEmpty
    && !s.ctxs.any fun p => keyDev p.1 == d && p.2.core == v && p.2.place.outside

/-- The fork descriptor (R274): eight dwords (DEDUCED, log entry 59). -/
def forkBad (w : List Word) : Bool :=
  let d := fun n => w.getD n 0
  (d 0).extractLsb' 60 4 != 0#4 || (d 0).extractLsb' 54 6 == 63#6 || (d 1).extractLsb' 40 24 != 0#24
    || (d 2).extractLsb' 0 32 == 0#32 || ((d 2).extractLsb' 32 3 != 2#3 && (d 2).extractLsb' 32 3 != 3#3)
    || (d 2).extractLsb' 35 29 != 0#29 || d 6 != 0 || d 7 != 0

/-- The idle cores of a scope in the order of recruitment: the same tenant first, then the others (R274). -/
def State.recruits (s : State) (cluster : Bool) : List Nat :=
  let d := s.cur.dev
  let v := s.cur.vcn
  let all := (if cluster then (List.range 192).map (192 * clusterOf v + ·) else List.range 4608).filter fun c => c ≠ v && s.idle d c
  let same := fun c => (s.core d c).tenant == some s.thread.tenant.toNat
  all.filter same ++ all.filter fun c => !same c

/-- The parts of a fork: M, and the target and record of each part but the first (R274). -/
def State.forkPlan (s : State) (w : List Word) : Nat × List (Nat × Rec) :=
  let d := fun n => w.getD n 0
  let n := ((d 1).extractLsb' 0 40).toNat
  let grain := ((d 2).extractLsb' 0 32).toNat
  if n = 0 then (1, [])
  else
    let idle := s.recruits ((d 2).extractLsb' 32 3 == 2#3)
    let m := min ((n + grain - 1) / grain) (1 + idle.length)
    (m, (idle.take (m - 1)).zipIdx.map fun (c, k) =>
      (c, ⟨d 0, 0, 0, 0, BitVec.ofNat 64 ((k + 1) * n / m), BitVec.ofNat 64 ((k + 2) * n / m), d 4, d 5⟩))

/-- The rest of a FORKR: the records go one by one, and it retires when every one is answered (R274). -/
def State.forkOn (s : State) (rd : Reg) (f : Fork) : State :=
  match f.todo with
  | (c, r) :: t =>
    s.beginSend none fun seq s => s.sendPlaces fun i s =>
      let tw : Word := 0#45 ++ BitVec.ofNat 6 r.chan ++ BitVec.ofNat 13 c
      let s := s.postSend i tw r seq false 0 (.fork i) 0 true
      let f' : Fork := { f with todo := t, left := f.left + 1 }
      (s.onThread fun c => { c with fork := some f' }).park .other
  | [] =>
    if f.left = 0 then ((s.onThread fun c => { c with fork := none }).setX rd f.result).retire else s.park .fork

/-- FORKR (R274; DEDUCED, log entry 22): checks, the join cell as STRL at device scope and its acknowledgement, and the sends. -/
def State.forkr (s : State) (rd rs1 : Reg) : State :=
  s.ready [.x rs1, .x rd] fun s =>
    let x := s.thread.getX rs1
    s.recordOffset x fun off s =>
      let l := lsLoc s.cur.dev s.cur.vcn off
      if s.poisoned l 64 then s.trap (nackTrap (s.ownVa off) 5)
      else
        let w := s.wordsAt l 8
        let va : VA := 0x00#8 ++ w.getD 3 0
        if forkBad w then s.illegalVal x
        else s.aligned va 8 fun s => s.resolve s.cur.dev va .write 8 fun t s => s.release .dv fun s =>
          let (m, parts) := s.forkPlan w
          let n := ((w.getD 1 0).extractLsb' 0 40).toNat
          let result : Word := BitVec.ofNat 24 m ++ BitVec.ofNat 40 (n / m)
          let d := BitVec.ofNat 64 m
          s.effect ⟨va, s.cur.dev, t, 1, 3, 3, 0, d, .store 8 d⟩ fun s =>
            (s.onThread fun c => { c with fork := some ⟨parts, 0, result⟩ }).park (.matching s.cur.dev va)

/-- FORKR (R274). -/
def execForkr (rd rs1 : Reg) (s : State) : Out :=
  .next (match s.thread.fork with
    | some f => if s.unacked .dv then s.park (.acks .dv) else s.forkOn rd f
    | none => s.irrevocable fun s => s.forkr rd rs1)

/-- JOIN (R275). -/
def execJoin (rd rs1 : Reg) (s : State) : Out :=
  .next (s.irrevocable fun s => s.ready [.x rs1, .x rd] fun s =>
    let va := s.windowVa 0#2 rs1
    s.aligned va 8 fun s => s.resolve s.cur.dev va .amo 8 fun t s => s.release .dv fun s =>
      s.access s.cur.dev va t .join (.join rd) (·.awaitX rd))

/-! ## Barriers (R276 to R278) -/

/-- The combiner that binds a VA. -/
def Core.combiner (k : Core) (va : VA) : Option (Nat × BitVec 3) := (k.comb.find? fun c => c.2.1 == va).map fun c => (c.1, c.2.2)

/-- The lowest free combiner of the four. -/
def Core.freeComb (k : Core) : Option Nat := (List.range 4).find? fun i => (Table.find k.comb i).isNone

/-- BARREG's value is malformed (R277). -/
def barBad (c : Word) : Bool :=
  c.getLsbD 23 || c.extractLsb' 27 4 != 0#4 || c.extractLsb' 32 32 != 0#32 || 6 ≤ (c.extractLsb' 24 3).toNat

/-- BARREG (R277). -/
def execBarreg (rd rs1 rs2 : Reg) (s : State) : Out :=
  .next (s.irrevocable fun s => s.ready [.x rs1, .x rs2, .x rd] fun s =>
    let va := s.windowVa 0#2 rs1
    let c := s.thread.getX rs2
    if barBad c then s.illegal
    else
      let bound := s.here.combiner va
      if c.getLsbD 31 then
        match bound with
        | some (i, _) => ((s.onCore fun k => { k with comb := Table.erase k.comb i }).setX rd (BitVec.ofNat 64 i)).retire
        | none => (s.setX rd 5).retire
      else
        let sc := c.extractLsb' 24 3
        match (bound.map (·.1)).orElse fun _ => s.here.freeComb with
        | none => (s.setX rd 4).retire
        | some i =>
          let old := Table.find s.here.comb i
          let bind := fun (s : State) => s.onCore fun k => { k with comb := Table.set k.comb i (va, sc) }
          if c.extractLsb' 0 23 = 0#23 then ((bind s).setX rd (BitVec.ofNat 64 i)).retire
          else s.aligned va 8 fun s => s.resolve s.cur.dev va .amo 8 fun t s => s.release (scopeOf sc) fun s =>
            (bind s).access s.cur.dev va t (.barset sc (c.extractLsb' 0 23)) (.bind rd i old) (·.awaitX rd))

/-- A barrier instruction finds its VA in a combiner, with its scope (R276). -/
def State.atBarrier (s : State) (rs1 : Reg) (k : VA → Scope → State → State) : State :=
  let va := s.windowVa 0#2 rs1
  match s.here.combiner va with
  | none => s.illegalVal (va.extractLsb' 0 64)
  | some (_, sc) => k va (scopeOf sc) s

/-- BARARV (R278). -/
def execBararv (rs1 : Reg) (s : State) : Out :=
  .next (s.irrevocable fun s => s.ready [.x rs1] fun s => s.atBarrier rs1 fun va sc s =>
    if s.thread.arrival.isSome then s.illegalVal (va.extractLsb' 0 64)
    else s.aligned va 8 fun s => s.resolve s.cur.dev va .amo 8 fun t s => s.release sc fun s =>
      s.access s.cur.dev va t (.bararv false) (.arrive va) id)

/-- BARWAIT (R278). -/
def execBarwait (rd rs1 : Reg) (s : State) : Out :=
  .next (s.ready [.x rs1, .x rd] fun s => s.atBarrier rs1 fun va _ s =>
    match s.thread.arrival with
    | some a =>
      if a.va = va then
        s.aligned va 8 fun s => s.resolve s.cur.dev va .amo 8 fun t s =>
          s.access s.cur.dev va t (.barwait a.ph) (.barwait rd) (·.awaitX rd)
      else s.illegalVal (va.extractLsb' 0 64)
    | none => s.illegalVal (va.extractLsb' 0 64))

/-- BARDROP (R278). -/
def execBardrop (rs1 : Reg) (s : State) : Out :=
  .next (s.irrevocable fun s => s.ready [.x rs1] fun s => s.atBarrier rs1 fun va sc s =>
    s.aligned va 8 fun s => s.resolve s.cur.dev va .amo 8 fun t s => s.release sc fun s =>
      s.access s.cur.dev va t .bardrop .none id)

end Sys2Proof.Machine
end

