-- ==== Sys2Proof/Machine/VirtualTime.lean ====
section
/-! DEFINITION. The arrival of records, ordered channels, rollback, IRREV, global virtual time and jubilee (R265, R285 to R302). -/

namespace Sys2Proof.Machine

/-! ## Arrival (R265, R281, R286, R297) -/

/-- A record joins the inbox of a core. -/
def State.putInbox (s : State) (d v : Nat) (r : InRec) : State := s.modCore d v fun k => { k with inbox := k.inbox ++ [r] }

/-- The receipt of an ordered record is counted under the colour it carries (R299). -/
def State.receipt (s : State) (d v : Nat) (m : RecMsg) : State :=
  if m.counted then s.modCore d v fun k => k.countReceived m.record.col else s

/-- One record of a FORKR is answered (R274). -/
def State.forkAnswered (s : State) (who : Issuer) : State :=
  s.modCtx who.dev who.cid fun c => { c with fork := c.fork.map fun f => { f with left := f.left - 1 } }

/-- A bounced record enters its sender's ch63 (R265), and the forker's when FORKR sent it (R274) (DEDUCED, log entry 52). -/
def State.toSender (s : State) (m : RecMsg) (bnc : Bool) : State :=
  let r := if bnc then { m.record with d0 := m.record.d0 ||| (1#64 <<< 63) } else m.record
  (s.modCore m.who.dev m.who.vcn fun k => { k with resv := k.resv - 1 }).putInbox m.who.dev m.who.vcn
    ⟨r, 63, m.who.tenant, m.who.sup, (s.dev m.who.dev).cycle, none, none, false⟩

/-- A record is refused at core v with a NACK subcode; a record of FORKR enters the forker's ch63 (R274). -/
def State.refuseRecord (s : State) (v : Nat) (m : RecMsg) (n : Nat) : State :=
  let s := s.receipt m.dst v m
  match m.kind with
  | .fork i => (s.toSender m false).send (.ans (coreKey m.dst v) m.who (.journal i) (.vals [1]))
  | k => s.answerSend (coreKey m.dst v) m.who k (.nack n)

/-- A record finds no place at core v, or no idle core (R265, R300); an ordered one counts as received at the sending core. -/
def State.bounceRecord (s : State) (v : Nat) (ordered : Bool) (m : RecMsg) : State :=
  let s := s.receipt m.who.dev m.who.vcn m
  let src := coreKey m.dst v
  match m.kind with
  | .tsends => s.answerSend src m.who .tsends (.vals [1])
  | .anti => s
  | .tsend i | .tcall i | .fork i =>
    if ordered then
      s.modCore m.who.dev m.who.vcn fun k => { k with bounced := k.bounced ++ [(m, (s.dev m.who.dev).cycle + 256)] }
    else (s.toSender m true).send (.ans src m.who (.journal i) (.vals [1]))

/-- A record is accepted. -/
def State.acceptRecord (s : State) (v : Nat) (m : RecMsg) : State := (s.receipt m.dst v m).answerSend (coreKey m.dst v) m.who m.kind (.vals [0])

/-- Whether a core has an ordered-channel entry with DOM = 1. -/
def Core.hasDom (k : Core) : Bool := k.chans.any fun p => p.2.isOrd && p.2.d1.getLsbD 63

/-- A device takes part in the domain round (R298). -/
def State.inRound (s : State) (d : Nat) : Bool := s.cores.any fun p => p.1 / 8192 == d && p.2.hasDom

/-- What R265 and R286 refuse at a core: a NACK subcode (DEDUCED, log entry 49). -/
def State.arrivalFault (s : State) (d v : Nat) (m : RecMsg) : Option Nat :=
  let k := s.core d v
  let c := k.chan m.record.chan
  if k.fenced || k.failed then some 3
  else if !c.en || c.isSup && !m.who.sup then some 2
  else if !m.who.sup && !s.idle d v && k.tenant != some m.who.tenant then some 2
  else if c.isOrd then
    if m.record.reply || m.kind == .tsends || decide (m.record.key < (s.dev d).gvtKey)
        || m.record.sdev != d && !(s.inRound d && s.inRound m.record.sdev) then some 2
    else none
  else if m.record.anti then some 2
  else match m.kind with
    | .tsend _ | .fork _ => if m.ordSender && m.record.d1 != 0 then some 2 else none
    | _ => none

/-- The inbox record of an arrival: the tenant it carries, and ORDF from the channel; COL is 0 outside an ordered channel (R257, R265). -/
def State.asInbox (s : State) (d v : Nat) (m : RecMsg) : InRec :=
  let k := s.core d v
  let ord := (k.chan m.record.chan).isOrd
  let r := { m.record with
    d0 := (m.record.d0 &&& ~~~(1#64 <<< 60)) ||| (if ord then 1#64 <<< 60 else 0)
    d3 := if ord then m.record.d3 else m.record.d3 &&& ~~~(1#64 <<< 54) }
  ⟨r, m.record.chan, if m.who.sup then k.tenant.getD 0 else m.who.tenant, m.who.sup, (s.dev d).cycle, none, none, false⟩

/-- The record of an arrival goes to the context bound in RECV (R268): written at its offset, or marked in the inbox, as it is while a save of the
context is in progress (R325). -/
def State.deliverBound (s : State) (d v cid : Nat) (r : InRec) : State :=
  let c := s.ctx d cid
  let s := s.modCore d v fun k => k.setChan r.ch { k.chan r.ch with bound := none }
  match (if s.heldBack d cid then .evicted else c.place), c.wait with
  | .resident, some (.recv _ off rd) =>
    ((s.hwWrites v (lsLoc d v off) r.record.words).setPos d v c.pos ⟨.running, cid⟩).modCtx d cid fun c =>
      { (c.setX rd 0) with pc := c.pc + 4, wait := none }
  | _, _ => s.putInbox d v { r with mark := some cid }

/-! ## Rollback (R295, R296) -/

/-- The last n ring indexes before a write position, newest first. -/
def ringBack (cnt w : Nat) : Nat → List Nat
  | 0 => []
  | n + 1 => let i := (w + cnt - 1) % max 1 cnt; i :: ringBack cnt i n

/-- Copy a LINE record back to its line; a START record changes nothing (R288, R295). -/
def State.undoRecord (s : State) (d v loc : Nat) : State :=
  let h := s.readWord loc
  if h.extractLsb' 62 2 = 1#2 then
    s.hwWrites v (lsLoc d v ((h.extractLsb' 6 12).toNat * 64)) (s.wordsAt (loc + 8) 8)
  else s

/-- The anti-message of an output record (R289, R296). -/
def State.antiMessage (s : State) (d v : Nat) (t : OTask) (loc : Nat) : State :=
  let tw := s.readWord loc
  let d0 : Word := 0#2 ++ 3#2 ++ twCh tw ++ 0#54
  s.launchRecord ⟨d, v, noCid, t.sup, t.tenant⟩ (twDevice d tw) (twVcn tw)
    ⟨d0, s.readWord (loc + 8), s.readWord (loc + 16), 0, 0, 0, 0, 0⟩ .anti true

/-- Undo one task, the newest of its channel (R295). Its record goes before those that arrived after it, so that records of equal keys are
taken in arrival order again (R285). -/
def State.undoTask (s : State) (d v c : Nat) (t : OTask) : State :=
  let ch := (s.core d v).chan c
  let s := match t.cid with | some cid => s.endContext d cid | none => s
  let ls := lsLoc d v 0
  let s := (ringBack (ch.ringCount 1) ch.wu t.nUndo).foldl (fun s i => s.undoRecord d v (ls + ch.ringBase 1 + 72 * i)) s
  let s := (ringBack (ch.ringCount 2) ch.wo t.nOut).foldl (fun s i => s.antiMessage d v t (ls + ch.ringBase 2 + 32 * i)) s
  let r := s.readRec (ls + ch.ringBase 1 + 72 * t.start + 8)
  let back : InRec := ⟨r, c, t.sender.1, t.sender.2, (s.dev d).cycle, none, none, false⟩
  s.modCore d v fun k => { (k.setChan c
    { k.chan c with wu := t.start, wo := t.outPos, wd := t.defPos, tasks := (k.chan c).tasks.dropLast }) with inbox := back :: k.inbox }

/-- Undo tasks, newest first. -/
def State.undoTasks (s : State) (d v c : Nat) : List OTask → State
  | [] => s
  | t :: l => (s.undoTask d v c t).undoTasks d v c l

/-- Roll a channel back: undo, newest first, the tasks down to the oldest that `undo` names (R295) (DESIGN CHOICE, log entry 56). -/
def State.rollback (s : State) (d v c : Nat) (undo : OTask → Bool) : State :=
  let tasks := ((s.core d v).chan c).tasks
  let gone := (tasks.dropWhile fun t => !undo t).reverse
  let u := gone.foldl (fun a t => a + t.nUndo) 0
  let a := gone.foldl (fun a t => a + t.nOut) 0
  (s.undoTasks d v c gone).modCore d v fun k =>
    k.setChan c { k.chan c with rollback := some ((s.dev d).cycle + 40 + 12 * u + 20 * a) }

/-- The waiting twin of a record in an inbox: same channel, same key, the other sign (R297). -/
def Core.twin (k : Core) (c : Nat) (r : Rec) : Option Nat :=
  indexOf (fun q => q.ch == c && q.record.key == r.key && q.record.anti != r.anti) k.inbox

/-- The newest dispatched, uncommitted task of a channel has a greater key. -/
def Chan.straggles (c : Chan) (key : Nat) : Bool :=
  match c.tasks.getLast? with
  | some t => decide (key < t.record.key)
  | none => false

/-- A positive record reaches core v (R265, R297) (DEDUCED, log entry 53). -/
def State.arrive (s : State) (v : Nat) (m : RecMsg) : State :=
  let d := m.dst
  let c := m.record.chan
  match s.arrivalFault d v m with
  | some n => s.refuseRecord v m n
  | none =>
    let k := s.core d v
    let ch := k.chan c
    let r := s.asInbox d v m
    match ch.bound with
    | some cid => (s.deliverBound d v cid r).acceptRecord v m
    | none =>
      if ch.isOrd && ch.rollback.isSome then
        s.setCore d v (k.setChan c { ch with waiting := ch.waiting ++ [m] })
      else
        match (if ch.isOrd then k.twin c r.record else none) with
        | some i => (s.setCore d v { k with inbox := k.inbox.eraseIdx i }).acceptRecord v m
        | none =>
          if !k.inboxRoom then s.bounceRecord v ch.isOrd m
          else if ch.isOrd && ch.straggles r.record.key then
            ((s.rollback d v c fun t => decide (r.record.key < t.record.key)).modCore d v fun k =>
              k.setChan c { k.chan c with straggler := some r }).acceptRecord v m
          else (s.putInbox d v r).acceptRecord v m

/-- An anti-message reaches core v (R296, R297). -/
def State.arriveAnti (s : State) (v : Nat) (m : RecMsg) : State :=
  let d := m.dst
  let c := m.record.chan
  match s.arrivalFault d v m with
  | some n => s.refuseRecord v m n
  | none =>
    let k := s.core d v
    let ch := k.chan c
    if ch.rollback.isSome then s.setCore d v (k.setChan c { ch with waiting := ch.waiting ++ [m] })
    else
      let s := s.receipt d v m
      match k.twin c m.record with
      | some i => s.modCore d v fun k => { k with inbox := k.inbox.eraseIdx i }
      | none =>
        if ch.tasks.any fun t => t.record.key == m.record.key then
          (s.rollback d v c fun t => decide (m.record.key ≤ t.record.key)).modCore d v fun k =>
            match k.twin c m.record with
            | some i => { k with inbox := k.inbox.eraseIdx i }
            | none => k
        else s.putInbox d v (s.asInbox d v m)

/-- The core that takes a record for an idle core: one of the cluster with the sender's tenant first, then any (R265). -/
def State.idleTarget (s : State) (m : RecMsg) : Option Nat :=
  let l := ((List.range 192).map (192 * clusterOf m.who.vcn + ·)).filter fun c => s.idle m.dst c
  (l.find? fun c => (s.core m.dst c).tenant == some m.who.tenant).orElse fun _ => l.head?

/-- A record or anti-message arrives. -/
def State.arriveMsg (s : State) (m : RecMsg) : State :=
  if m.record.anti then s.arriveAnti m.vcn m
  else if m.vcn = anyIdle then
    match s.idleTarget m with
    | some v => s.arrive v m
    | none => s.bounceRecord gatewayVcn false m
  else s.arrive m.vcn m

/-! ## IRREV and jubilee (R294, R301) -/

/-- The entry of a jubilee effect (R314). -/
def jubileeEntry (va : VA) (dev own : Nat) (t : Option Target) (width scope op : Nat) (data : Word) (ref : Option Nat) (sup : Bool) : JEntry :=
  ⟨ref, noCid, va, dev, dev != own, t.map (·.loc), 7, op, width, scope, data, 0, 0, true, false, false, sup⟩

/-- An open jubilee effect of a core satisfies f. -/
def Core.jubileeOpen (k : Core) (f : JEntry → Bool) : Bool :=
  k.journal.any fun p => p.2.jubilee && p.2.ref.isNone && f p.2

/-- A release of jubilee, as `who`, waits for the earlier effects whose homes lie in its scope (R141); while one of them stands refused it is
not performed (R99) (DEDUCED, log entry 74). -/
def State.jubileeWaits (s : State) (who : Issuer) (sc : Scope) : Bool :=
  (s.core who.dev who.vcn).journal.any fun p => p.2.jubilee && p.2.kind == 7 && s.inScope who p.2 sc

/-- The access of a deferred record (R290). -/
def deferredAcc (kind width op : Nat) (data : Word) : Acc :=
  match kind with
  | 0 => .store (2 ^ width) data
  | 1 => .store 8 data
  | 2 => .stff data
  | 3 => .femark (data.getLsbD 0)
  | _ => .red (match op with
      | 0 => .add | 1 => .and | 2 => .or | 3 => .xor | 4 => .min | 5 => .max | 6 => .minu | _ => .maxu) data

/-- A deferred store, RED or F/E write is performed or posted; none while it must wait (R141, R301). -/
def State.deferredStore (s : State) (d v : Nat) (t : OTask) (h : Word) (loc : Nat) : Option State :=
  let k := s.core d v
  let kind := (h.extractLsb' 60 4).toNat
  let scope := h.extractLsb' 49 3
  let width := (h.extractLsb' 47 2).toNat
  let op := (h.extractLsb' 43 4).toNat
  let dev := if h.getLsbD 42 then (h.extractLsb' 30 12).toNat else d
  let va : VA := h.extractLsb' 52 8 ++ s.readWord (loc + 8)
  let data := s.readWord (loc + 16)
  let a := deferredAcc kind width op data
  let who : Issuer := ⟨d, v, noCid, t.sup, t.tenant⟩
  let isRel := kind = 1 || kind = 2 || kind = 3
  if isRel && s.jubileeWaits who (scopeOf scope) then none
  else if k.jubileeOpen fun e => e.kind == 7 && e.dev == dev && sameWord e.va va then none
  else
    let post := fun (tg : Option Target) => match k.freeEntry with
      | none => none
      | some i => some ((s.modCore d v fun k => { k with
          journal := Table.set k.journal i (jubileeEntry va dev d tg width scope.toNat op data none t.sup) }).sendReq
            ⟨who, dev, va, tg.map (·.loc), (tg.map (·.feOk)).getD false, a, .journal i⟩)
    if dev = d then
      match s.resolveAt d who va a.perm a.width false with
      | .error f => match if f = walkHeld then none else k.freeEntry with
        | none => none
        | some i => some ((s.modCore d v fun k => { k with
            journal := Table.set k.journal i (jubileeEntry va dev d none width scope.toNat op data (some (nackOf f)) t.sup) }).trapRecord
              d v 0x06 (BitVec.ofNat 64 i) (refuseStat (nackOf f)) noCid)
      | .ok tg =>
        if isOwn d v tg.loc then
          match s.perform ⟨who, d, va, some tg.loc, tg.feOk, a, .nowhere⟩ tg.loc with
          | some (s', _) => some (s'.serve tg.loc)
          | none => some s
        else post (some tg)
    else post none

/-- A deferred send leaves as a posted send of the core, with the level and tenant of its task (R301). -/
def State.deferredSendOut (s : State) (d v : Nat) (t : OTask) (h : Word) (loc : Nat) : Option State :=
  let k := s.core d v
  let tw : Word := 0#32 ++ BitVec.ofBool (h.getLsbD 42) ++ h.extractLsb' 30 12 ++ h.extractLsb' 0 19
  let who : Issuer := ⟨d, v, noCid, t.sup, t.tenant⟩
  if !k.inboxRoom || s.jubileeWaits who (sendScope d v tw) then none
  else match k.freeEntry with
    | none => none
    | some i =>
      some ((s.setCore d v { k with
        seq := k.seq + 1
        resv := k.resv + 1
        journal := Table.set k.journal i (sendEntry noCid d v tw k.seq 0 false true false t.sup) }).sendRecord who tw
          (s.readRec (loc + 8)) k.seq false 0 (.tsend i) false)

/-- The next deferred effect of a task of channel c is performed; none while it must wait (R301). -/
def State.nextEffect (s : State) (d v c : Nat) (t : OTask) : Option State :=
  let ch := (s.core d v).chan c
  let loc := lsLoc d v (ch.ringBase 3 + 72 * ((t.defPos + t.done) % max 1 (ch.ringCount 3)))
  let h := s.readWord loc
  (if (h.extractLsb' 60 4).toNat = 5 then s.deferredSendOut d v t h loc else s.deferredStore d v t h loc).map fun s =>
    s.modCore d v fun k => k.setChan c { k.chan c with
      tasks := (k.chan c).tasks.map fun x => if x.record = t.record then { x with done := x.done + 1 } else x }

/-- IRREV of a revocable task whose condition holds: one deferred effect at a time, then its records are freed (R294). -/
def State.makeIrrevocable (s : State) : State :=
  let c := s.thread.chan.toNat
  match (s.here.chan c).taskOf s.cur.cid with
  | none => (s.onThread fun x => { x with revocable := false }).retire
  | some t =>
    if t.done < t.nDef then
      match s.nextEffect s.cur.dev s.cur.vcn c t with
      | some s => s.park .other
      | none => s.park .journal
    else
      ((s.onCore fun k => k.setChan c ((k.chan c).onTask s.cur.cid fun t =>
        { t with nUndo := 0, nOut := 0, nDef := 0, done := 0, lines := [] })).onThread fun x => { x with revocable := false }).retire

/-- The ended, uncommitted task of least key below a bound, with its channel. -/
def Core.lowestTask (k : Core) (key : Nat) : Option (Nat × OTask) :=
  (k.chans.flatMap fun p => p.2.tasks.map fun t => (p.1, t)).foldl
    (fun a b => if key ≤ b.2.record.key || b.2.cid.isSome then a
      else match a with
        | none => some b
        | some a => if b.2.record.key < a.2.record.key then some b else some a) none

/-- One step of a core's jubilee: an effect, the freeing of a committed task, or the end (R301). -/
def State.jubileeStep (s : State) (d v : Nat) : State :=
  let k := s.core d v
  match k.lowestTask (s.dev d).gvtKey with
  | none => s.setCore d v { k with jubilee := false }
  | some (c, t) =>
    if t.done < t.nDef then (s.nextEffect d v c t).getD s
    else s.setCore d v (k.setChan c { k.chan c with tasks := (k.chan c).tasks.filter fun x => x.record ≠ t.record })

/-! ## Rounds (R298, R299, R339) -/

/-- The devices of the round that device d roots: all of the domain round, or d alone. A device of the last domain round that is down goes on
taking part, so that no round closes until the domain has been reconfigured without it (R339). -/
def State.roundOf (s : State) (d : Nat) : List Nat :=
  if s.inRound d then (List.range 3072).filter fun n => s.inDomain d n &&
    (s.inRound n || (s.dev d).gvtPart.contains n && (s.dev d).down.contains n)
  else [d]

/-- The PER of the round (R253). -/
def State.gvtPeriod (s : State) (d : Nat) : Nat := 1400 * ((s.core d 0).gvtper.extractLsb' 0 7).toNat

/-- The cores of a device that the state lists. -/
def State.coresOf (s : State) (d : Nat) : List Core := (s.cores.filter fun p => p.1 / 8192 = d).map (·.2)

/-- Change every listed core of a device. -/
def State.mapCores (s : State) (d : Nat) (f : Core → Core) : State :=
  { s with cores := s.cores.map fun p => if p.1 / 8192 = d then (p.1, f p.2) else p }

/-- START reaches the cores of a device: the send colour becomes `col`, whose counts and minimum restart (R299). A device that joins with that
colour already in use keeps the counts of the records it has sent under it (DESIGN CHOICE, log entry 15). -/
def State.startRound (s : State) (col : Bool) (devs : List Nat) (d : Nat) : State :=
  (s.mapCores d fun k =>
    if (s.dev d).colour = col then k
    else if col then { k with sent1 := 0, recv1 := 0, min1 := keyTop } else { k with sent0 := 0, recv0 := 0, min0 := keyTop }).modDev d
      fun v => { v with colour := col, gvtCalm := true, gvtPart := devs }

/-- The keys that a core reports in a pass (R299) (DEDUCED, log entry 51). -/
def Core.reported (k : Core) (next : Bool) : List Nat :=
  (k.inbox.filter fun r => (k.chan r.ch).isOrd).map (·.record.key)
    ++ k.chans.flatMap (fun p => (p.2.tasks.filter fun t => t.cid.isSome).map (·.record.key)
        ++ (match p.2.straggler with | some r => [r.record.key] | none => []) ++ p.2.waiting.map (·.record.key))
    ++ k.bounced.map (·.1.record.key)
    ++ [if next then k.min1 else k.min0]

/-- A publication: every core of the device has `gvt` and its jubilee in the next tick (R299, R301); the GVT key never falls. -/
def State.publish (s : State) (key : Nat) (d : Nat) : State :=
  (s.mapCores d fun k => { k with jubilee := true }).modDev d fun v => { v with gvtKey := max key v.gvtKey, gvtStalled := false }

/-- The key that a closing round finds: the least reported; with none reported, the key after those of the ended, uncommitted tasks, which
nothing can precede any more (DEDUCED, log entry 51). -/
def roundKey (ks : List Core) (next : Bool) : Nat :=
  let key := (ks.flatMap fun k => k.reported next).foldl min keyTop
  let ended := ks.flatMap fun k => k.chans.flatMap fun p => (p.2.tasks.filter fun t => t.cid.isNone).map (·.record.key)
  if key = keyTop ∧ ended ≠ [] then ended.foldl max 0 + 1 else key

/-- A pass over the devices of a round (R299): it closes the round when every record of the colour has been received. -/
def State.gvtPassOn (s : State) (root : Nat) (r : Round) : State :=
  let devs := r.members
  let ks := devs.flatMap s.coresOf
  let sent := ks.foldl (fun (a : Nat) (k : Core) => a + if r.colour then k.sent1 else k.sent0) 0
  let recv := ks.foldl (fun (a : Nat) (k : Core) => a + if r.colour then k.recv1 else k.recv0) 0
  let key := roundKey ks (!r.colour)
  if recv = sent then
    let s := s.modDev root fun v => { v with round := none }
    if (s.dev root).gvtKey < key ∧ key ≠ keyTop then devs.foldl (fun s d => s.publish key d) s
    else devs.foldl (fun s d => s.modDev d fun v => { v with gvtStalled := v.gvtCalm }) s
  else s.modDev root fun v => { v with round := some { r with passes := r.passes + 1 } }

/-! ## Instruction and events -/

/-- IRREV (R294). -/
def execIrrev (s : State) : Out :=
  .next (
    if !s.thread.ordered then s.illegal
    else if !s.thread.revocable then s.retire
    else if s.irrevReady s.cur.dev s.cur.vcn s.thread.record.key then s.makeIrrevocable
    else s.park .gvt)

/-- RECORD_ARRIVAL (R265): message n is a task record. -/
def execRecordArrival (n : Nat) (s : State) : Out :=
  .next (match s.net[n]? with
    | some (.record m) => if m.record.anti then s else (s.unsend n).arriveMsg m
    | _ => s)

/-- ANTI_MESSAGE_ARRIVAL (R297): message n is an anti-message. -/
def execAntiMessageArrival (n : Nat) (s : State) : Out :=
  .next (match s.net[n]? with
    | some (.record m) => if m.record.anti then (s.unsend n).arriveMsg m else s
    | _ => s)

/-- ROLLBACK_END (R295): the straggler is placed, and the records that waited are classified in arrival order. -/
def execRollbackEnd (ch : BitVec 6) (s : State) : Out :=
  let d := s.cur.dev
  let v := s.cur.vcn
  let c := (s.core d v).chan ch.toNat
  .next (match c.rollback with
    | none => s
    | some t =>
      if !tickDone t s.now then s
      else
        let s := s.modCore d v fun k => k.setChan ch.toNat { c with rollback := none, straggler := none, waiting := [] }
        let s := match c.straggler with | some r => s.putInbox d v r | none => s
        c.waiting.foldl State.arriveMsg s)

/-- ORDERED_RESEND (R300): bounced record n of the core is sent again. -/
def execOrderedResend (n : Nat) (s : State) : Out :=
  .next (match s.here.bounced[n]? with
    | some (m, t) =>
      if !tickDone t s.now then s
      else (s.onCore fun k => { k with bounced := k.bounced.eraseIdx n }).launchRecord m.who m.dst m.vcn m.record m.kind m.ordSender
    | none => s)

/-- GVT_ROUND_START (R298, R299): at the root, in a tick of its period, when no round is open. -/
def execGvtRoundStart (s : State) : Out :=
  let d := s.cur.dev
  let devs := s.roundOf d
  .next (
    if s.device.round.isSome ∨ s.now % max 1 (s.gvtPeriod d) ≠ 0 ∨ devs.head? ≠ some d then s
    else
      let col := s.device.colour
      (devs.foldl (fun s n => s.startRound (!col) devs n) s).modDev d fun v => { v with round := some ⟨col, devs, 0⟩ })

/-- GVT_PASS (R299): a pass over every device of the round, none of which is down (R339). -/
def execGvtPass (s : State) : Out :=
  let d := s.cur.dev
  .next (match s.device.round with
    | none => s
    | some r => if r.members.all (fun n => s.reachable d n) then s.gvtPassOn d r else s)

/-- JUBILEE (R301): one step of the jubilee of the core. -/
def execJubilee (s : State) : Out :=
  .next (if s.here.jubilee then s.jubileeStep s.cur.dev s.cur.vcn else s)

end Sys2Proof.Machine
end

