-- ==== Sys2Proof/Machine/System.lean ====
section
/-! DEFINITION. Neighbour fills, traps taken and left, sleeping, saving, loading and moving contexts, TLBI and SCRUB (R37 to
R40, R197 to R199, R310 to R326). -/

namespace Sys2Proof.Machine

/-! ## Neighbour fills (R197 to R200) -/

/-- NPUT and VNPUT: a release at thread scope, and a fill over a link (R139, R198, R199). -/
def State.nput (s : State) (src : Opnd) (dir : Dir) (pos : BitVec 3) (vec : Bool) (r : Nat) (val : Ctx → VWord) : State :=
  s.irrevocable fun s =>
    match meshOf s.cur.vcn with
    | none => s.illegal
    | some p =>
      s.ready [src] fun s =>
        let q := neighbour p dir
        let target := vcnAt q.1 q.2
        s.release .th fun s =>
          if 8 ≤ s.linkLoad s.cur.dev target dir then s.park (.link dir)
          else (s.send (.nfill s.cur.dev target dir pos.toNat vec r (val s.thread) s.thread.tenant.toNat ((s.now + 3) % 2 ^ 64))).retire

/-- NPUT (R198). -/
def execNput (rt : Reg) (dir : Dir) (rs : Reg) (pos : BitVec 3) (s : State) : Out :=
  .next (s.nput (.x rs) dir pos false rt.toNat fun c => (c.getX rs).zeroExtend 1024)

/-- A fill sent earlier over the same link is still on its way. -/
def Msg.onLink (d v : Nat) (dir : Dir) : Msg → Bool
  | .nfill d' v' dir' _ _ _ _ _ _ => d' == d && v' == v && dir' == dir
  | _ => false

/-- NEIGHBOUR_FILL_ARRIVAL (R199): in the third tick, and in the order of the link; bound to the resident context of the position, landed,
held or discarded. -/
def execNeighbourFillArrival (n : Nat) (s : State) : Out :=
  .next (match s.net[n]? with
    | some (.nfill d v dir p vec r val ten due) =>
      if (s.net.take n).any (Msg.onLink d v dir) || !tickDone due (s.dev d).cycle then s else
      let s' := s.unsend n
      let q := s.pos d v p
      if q.st = .empty ∨ (s.ctx d q.cid).tenant.toNat ≠ ten ∨ (s.core d v).fenced ∨ !vec ∧ r = 0 then s'
      else s'.externalFill d q.cid vec r val (some (v, dir))
    | _ => s)

/-! ## Traps and returns (R311, R315, R379) -/

/-- A parked thread is at an instruction boundary (R379): its instruction waits, with no effect beyond its own core. A FORKR that has written
its join cell has had one, and so has an instruction some of whose words have left, or a TLBI after its drop. -/
def Ctx.atBoundary (c : Ctx) : Bool :=
  match c.wait with
  | none => true
  | some (.again (.walks _) _) => false
  | some (.again _ _) => c.fork.isNone && c.sent == 0
  | some (.recv _ _ _) => true
  | _ => false

/-- The trap of a pending asynchronous trap (R217, R311). -/
def AsyncTrap.info : AsyncTrap → TrapInfo
  | .postrefuse _ i n => { cause := 0x06, tval := BitVec.ofNat 64 i, sub := n, async := true }
  | .splitNack va n => { nackTrap va n with async := true, nrst := true }

/-- The oldest pending asynchronous trap can be taken: task level, at a boundary (R311). -/
def Ctx.asyncReady (c : Ctx) : Bool := !c.sup && c.atBoundary && !c.pend.isEmpty

/-- The binding of a parked RECV ends when its thread takes a trap, and so does what a parked send has taken: the instruction has had no effect
(R379). -/
def State.unbind (s : State) : State :=
  let s := s.undoSend s.cur.dev s.cur.cid
  match s.thread.wait with
  | some (.recv c _ _) => s.onCore fun k => k.setChan c.toNat { k.chan c.toNat with
      bound := if (k.chan c.toNat).bound = some s.cur.cid then none else (k.chan c.toNat).bound }
  | _ => s

/-- ASYNCHRONOUS_TRAP (R311), in the position that moves. -/
def execAsynchronousTrap (s : State) : Out :=
  let c := s.thread
  let st := (s.pos s.cur.dev s.cur.vcn s.cur.pos).st
  .next (match c.pend with
    | t :: l =>
      if c.asyncReady && (st == .running || st == .parked) then
        (s.unbind.onThread fun c => { c with pend := l }).trap t.info
      else s
    | [] => s)

/-- TRAPRET (R315). -/
def execTrapret (s : State) : Out :=
  .next (s.supervisor fun s =>
    let p := s.thread.tepc
    if p.toNat % 4 ≠ 0 then s.misalign p else s.onThread Ctx.trapReturn)

/-- UNASSIGNED_ENCODING (R58). -/
def execUnassignedEncoding (word : BitVec 32) (s : State) : Out := .next (s.illegalVal (word.zeroExtend 64))

/-! ## Waits that a tick or a key ends -/

/-- SLEEPT (R316). -/
def State.sleept (s : State) (rs1 : Reg) : State :=
  s.ready [.x rs1] fun s =>
    let t := s.thread.getX rs1
    if t.toNat ≤ s.now then s.retire else s.park (.tick t)

/-- SLEEPT (R316). -/
def execSleept (rs1 : Reg) (s : State) : Out := .next (s.sleept rs1)

/-- The words of a parked instruction become those of the instruction being issued; it has been parked since it parked, and what a send had
taken it takes again. -/
def State.reissued (s : State) (ws : List (BitVec 32)) : State :=
  let s := s.undoSend s.cur.dev s.cur.cid
  let s := { s with cur := { s.cur with words := ws, since := some s.thread.parkedAt } }
  (s.setPos s.cur.dev s.cur.vcn s.cur.pos ⟨.running, s.cur.cid⟩).onThread fun c => { c with wait := none }

/-- Fields of a parked word. -/
def wordRs1 (ws : List (BitVec 32)) : Reg := (ws.headD 0).extractLsb' 15 5
def wordRd (ws : List (BitVec 32)) : Reg := (ws.headD 0).extractLsb' 7 5

/-- The thread that moves is parked in its position. -/
def State.isParked (s : State) : Bool := s.pos s.cur.dev s.cur.vcn s.cur.pos == ⟨.parked, s.cur.cid⟩

/-- KLOOKW_WAKE (R82). -/
def execKlookwWake (s : State) : Out :=
  .next (match s.thread.wait with
    | some (.again (.key _) ws) => if s.isParked then (s.reissued ws).klookw (wordRd ws) (wordRs1 ws) else s
    | _ => s)

/-- SLEEPT_EXPIRY (R316). -/
def execSleeptExpiry (s : State) : Out :=
  .next (match s.thread.wait with
    | some (.again (.tick _) ws) => if s.isParked then (s.reissued ws).sleept (wordRs1 ws) else s
    | _ => s)

/-- WAITP_PROMISE_EXPIRY (R129). -/
def execWaitpPromiseExpiry (s : State) : Out :=
  .next (match s.thread.wait with
    | some (.again (.promise _) ws) => if s.isParked then (s.reissued ws).waitp (wordRs1 ws) else s
    | _ => s)

/-! ## CTXSAVE and the journal (R314, R318 to R320) -/

/-- The dwords of a journal image (R314); the WIDTH of a send is free (DESIGN CHOICE, log entry 18) (DEDUCED, log entry 60). -/
def JEntry.image (e : JEntry) (free : Word) : List Word :=
  let send := e.kind = 5 || e.kind = 6
  let width : BitVec 2 := if send then free.extractLsb' 0 2 else BitVec.ofNat 2 e.width
  let info : Word := BitVec.ofBool e.ref.isSome ++ 0#7 ++ BitVec.ofNat 8 (e.ref.getD 0) ++ BitVec.ofNat 4 e.kind
    ++ BitVec.ofNat 4 (if e.kind = 4 then e.op else 0) ++ width ++ BitVec.ofNat 3 e.scope ++ BitVec.ofBool e.peer
    ++ BitVec.ofNat 12 (if e.peer then e.dev else 0) ++ e.va.extractLsb' 64 8 ++ 0#14
  [if send then 0 else e.va.extractLsb' 0 64, info, e.data,
    BitVec.ofNat 39 (if send then e.seq else 0) ++ 0#1 ++ BitVec.ofNat 24 e.cid, 0, 0, 0, 0]

/-- CTXSAVE's descriptor is malformed (R318). -/
def saveBad (d : Word) (own : Nat) : Bool :=
  d.extractLsb' 22 42 != 0#42 || d.extractLsb' 6 4 != 0#4 || d.getLsbD 3 || d.extractLsb' 4 2 == 3#2
    || 48 < (d.extractLsb' 16 6).toNat || (d.extractLsb' 4 2 == 0#2 && (d.extractLsb' 0 3).toNat == own)

/-- The area of a save: a multiple of 64 in global space (R318). -/
def State.saveArea (s : State) (va : VA) (k : State → State) : State :=
  if va.toNat % 64 ≠ 0 then s.misalignVa va else if va.getLsbD 71 then s.illegal else k s

/-- Each of n words from a VA of the own device may be accessed (R98). -/
def State.inOrderWords (s : State) (va : VA) (n : Nat) (k : State → State) : State :=
  match (List.range n).find? fun i => s.matching s.cur.dev (vaAdd va (8 * i)) with
  | some i => s.park (.matching s.cur.dev (vaAdd va (8 * i)))
  | none => k s

/-- SAVE of a position (R318, R319), which is paused while the save waits. -/
def State.savePos (s : State) (rd : Reg) (p : Nat) (area : VA) (limit : Nat) : State :=
  let d := s.cur.dev
  let v := s.cur.vcn
  let q := s.pos d v p
  match q.st with
  | .empty => ((s.pause d v p false).setX rd 1).retire
  | .dispatching _ => s.park (.pos p)
  | _ =>
    if s.busy s.cur.dev s.cur.vcn q.cid then (s.pause d v p true).park (.pos p)
    else match s.saveImage d v area (s.imageOf d q.cid) limit with
      | .wait => (s.pause d v p true).parkHeld area
      | .fail s n b => (s.unpause d v p q.cid).trap { cause := 0x12, tval := BitVec.ofNat 64 b, sub := n }
      | .done s => ((((s.pause d v p false).leave d v p q.cid area .saved).landLate d q.cid).setX rd 0).retire

/-- JREAD: the entry's image as ordinary stores (R320). -/
def State.journalRead (s : State) (rd : Reg) (i : Nat) (area : VA) : State :=
  match Table.find s.here.journal i with
  | none => (s.setX rd 3).retire
  | some e =>
    s.resolve s.cur.dev area .write 8 fun t s =>
      let eff := (e.image s.freeWord).zipIdx.map fun (w, k) =>
        (⟨vaAdd area (8 * k), s.cur.dev, t.map fun t => ⟨t.loc + 8 * k, t.feOk⟩, 0, 3, 0, 0, w, .store 8 w⟩ : Eff)
      s.effects eff fun s => (s.drawn.setX rd 0).retire

/-- JRETIRE (R320). -/
def State.journalRetire (s : State) (rd : Reg) (i : Nat) : State :=
  match Table.find s.here.journal i with
  | none => (s.setX rd 3).retire
  | some e =>
    if e.ref.isNone then (s.setX rd 2).retire
    else ((s.onCore fun k => { k with journal := Table.erase k.journal i }).setX rd 0).retire

/-- CTXSAVE, whose descriptor names the operation: SAVE, JREAD or JRETIRE (R318, R320) (DEDUCED, log entry 61). -/
def State.ctxsave (s : State) (rd rs1 rs2 : Reg) : State :=
  s.supervisor fun s => s.ready [.x rs1, .x rs2, .x rd] fun s =>
    let d := s.thread.getX rs1
    let area := s.windowVa 0#2 rs2
    let j := (d.extractLsb' 10 6).toNat
    if saveBad d s.cur.pos then s.illegalVal d
    else s.saveArea area fun s =>
      if d.extractLsb' 4 2 = 2#2 then s.journalRetire rd j
      else s.alone fun s =>
        if d.extractLsb' 4 2 = 1#2 then s.journalRead rd j area
        else
          let lines := if (d.extractLsb' 16 6).toNat = 0 then 48 else (d.extractLsb' 16 6).toNat
          s.storeGate fun s => s.inOrderWords area (8 * lines) fun s => s.savePos rd (d.extractLsb' 0 3).toNat area lines

/-- CTXSAVE (R318). -/
def execCtxsave (rd rs1 rs2 : Reg) (s : State) : Out := .next (s.ctxsave rd rs1 rs2)

/-- JREAD (R320): the same words as CTXSAVE; OP of x[rs1] chooses. -/
def execJread (rd rs1 rs2 : Reg) (s : State) : Out := .next (s.ctxsave rd rs1 rs2)

/-- JRETIRE (R320): the same words as CTXSAVE; OP of x[rs1] chooses. -/
def execJretire (rd rs1 rs2 : Reg) (s : State) : Out := .next (s.ctxsave rd rs1 rs2)

/-! ## CTXLOAD and MIGRC (R321 to R323) -/

/-- A context SAVED on the core at a VA. -/
def State.savedHere (s : State) (cid : Nat) (va : VA) : Bool :=
  let c := s.ctx s.cur.dev cid
  c.place == .saved && c.core == s.cur.vcn && c.area == va

/-- A doubleword that an instruction reads at its home within its own step: refused, held, or its value (R41, R336). -/
def State.readHere (s : State) (va : VA) (t : Option Target) (k : Word → State → State) : State :=
  let r := s.reqOf s.cur.dev va t (.load 8 false)
  let loc := (t.map (·.loc)).getD 0
  match s.refusal r loc with
  | some n => s.trap (nackTrap va n)
  | none => if (s.moveHolds r loc).isSome then s.parkHeld va else k (s.seen r (s.atPort loc)) s

/-- Line k of the image that a CTXLOAD reads and those after it: each is translated, refused, held, or read (R38, R41, R321, R356). -/
def State.readLines (s : State) (va : VA) (k : State → State) : List Nat → State
  | [] => k s
  | n :: l =>
    let a := vaAdd va (64 * n)
    s.resolve s.cur.dev a .readOnly 8 fun t s => s.readHere a t fun _ s => s.readLines va k l

/-- CTXLOAD (R321): what the image holds, the wait it names included, is the context's from here on (DEDUCED, log entry 58). -/
def execCtxload (rd rs1 : Reg) (s : State) : Out :=
  .next (s.supervisor fun s => s.ready [.x rs1, .x rd] fun s =>
    let va := s.windowVa 0#2 rs1
    s.aligned va 64 fun s => s.resolve s.cur.dev va .readOnly 8 fun t s => s.alone fun s => s.inOrderWords va 384 fun s =>
      s.readHere va t fun hdr s =>
      let cid := (hdr.extractLsb' 0 24).toNat
      if hdr.getLsbD 63 = false then (s.setX rd 1).retire
      else if !s.savedHere cid va then (s.setX rd 2).retire
      else s.readLines va (fun s =>
        let s := s.setCtx s.cur.dev cid { s.fromImage s.cur.dev cid with place := .evicted }
        let s := if s.waitOver s.cur.dev cid then s.joinRunq s.cur.dev cid else s
        (s.setX rd 0).retire) ((List.range 47).map (· + 1)))

/-- A context that MIGRC refuses to move (R322). -/
def Ctx.pinned (c : Ctx) : Bool :=
  c.revocable || c.arrival.isSome || match c.wait with
    | some (.recv _ _ _) => true
    | some (.again (.key _) _) => true
    | _ => false

/-- The items that can still reach the source core for a context (R323). -/
def State.outCount (s : State) (d v cid : Nat) : Nat :=
  let c := s.ctx d cid
  (match c.wait with | some (.reply _ _) | some (.word _ _) => 1 | _ => 0)
    + (match c.split with | some p => p.left | none => 0)
    + c.conts + ((s.core d v).journal.filter fun p => p.2.isOpen cid).length

/-- The target refuses the move (R322) (DEDUCED, log entry 57). -/
def State.migrRefused (s : State) (d target : Nat) (c : Ctx) : Bool :=
  let k := s.core d target
  (List.range 8).all (fun p => (s.pos d target p).st != .empty) || (s.freeCid d target).isNone || k.fenced
    || !s.idle d target && (match k.tenant with | some t => t != c.tenant.toNat | none => false)

/-- The context of a position moves to a core, where what was held back lands (R322, R323, R325). -/
def State.moveCtx (s : State) (d v p target : Nat) : State :=
  let q := s.pos d v p
  let out := s.outCount d v q.cid
  let s := if out = 0 then s else s.modCore d v fun k => { k with fwd := k.fwd ++ [⟨q.cid, target, out⟩] }
  let s := ((s.undoSend d q.cid).setPos d v p ⟨.empty, 0⟩).pause d v p false
  let c := s.ctx d q.cid
  let (s, delay) := if c.supTask then (s, 0) else s.claim d target c.tenant.toNat
  let p' := ((List.range 8).find? fun p => (s.pos d target p).st == .empty).getD 0
  ((s.setPos d target p' ⟨if c.wait.isSome then .parked else .dispatching ((s.dev d).cycle + 16 + delay), q.cid⟩).setCtx d q.cid
    { c with core := target, pos := p', sending := none, ahead := [] }).landLate d q.cid

/-- MIGRC (R322). -/
def execMigrc (rd rs1 rs2 : Reg) (s : State) : Out :=
  .next (s.supervisor fun s => s.ready [.x rs1, .x rs2, .x rd] fun s =>
    let a := s.thread.getX rs1
    let b := s.thread.getX rs2
    if a.extractLsb' 3 61 ≠ 0#61 then s.illegalVal a
    else if 4607 < b.toNat ∨ b.toNat = s.cur.vcn then s.illegalVal b
    else s.alone fun s =>
      let d := s.cur.dev
      let v := s.cur.vcn
      let p := a.toNat
      let q := s.pos d v p
      let c := s.ctx d q.cid
      let code := fun (n : Word) => ((s.unpause d v p q.cid).setX rd n).retire
      match q.st with
      | .empty => ((s.pause d v p false).setX rd 1).retire
      | .dispatching _ => s.park (.pos p)
      | _ =>
        if s.migrRefused d b.toNat c then code 2
        else if 16 ≤ s.here.fwd.length then code 3
        else if c.pinned then code 4
        else if s.busy s.cur.dev s.cur.vcn q.cid then (s.pause d v p true).park (.pos p)
        else (((s.pause d v p false).setX rd 0).retire).moveCtx d v p b.toNat)

/-! ## TLBI and page walks (R37 to R40) -/

/-- TLBI's descriptor is malformed (R39). -/
def tlbiBad (d : Word) : Bool :=
  d.extractLsb' 16 48 != 0#48 || d.extractLsb' 6 2 != 0#2 || d.getLsbD 3 || d.extractLsb' 4 2 == 3#2
    || 6 ≤ (d.extractLsb' 0 3).toNat || (d.extractLsb' 4 2 == 2#2 && d.extractLsb' 8 8 != 0#8)

/-- An entry that a TLBI drops. -/
def TlbEntry.dropped (e : TlbEntry) (kind ten : Nat) (va : VA) : Bool :=
  match kind with
  | 0 => e.tenant == ten && !va.getLsbD 71 && e.page == va.toNat % 2 ^ 71 / 2 ^ e.bits * 2 ^ e.bits
  | 1 => e.tenant == ten
  | _ => true

/-- A walk that is in progress when a TLBI drops entries of its TLB: its leaf is not cached (R39, R40). -/
def Walk.outdate (w : Walk) : Walk := if w.ended.isNone && w.table.isSome then { w with stale := true } else w

/-- Drop the matching entries of a device, of one cluster or of all; the walks in progress there began before the drop (R39). -/
def Device.tlbi (v : Device) (cluster : Option Nat) (kind ten : Nat) (va : VA) : Device :=
  let at_ := fun (n : Nat) => match cluster with | some c => n == c | none => true
  { v with
    tlb := v.tlb.filter fun e => !(e.dropped kind ten va && at_ e.cluster)
    walks := v.walks.map fun w => if at_ w.cluster then w.outdate else w }

/-- Drop the matching entries of every device of a scope (R39). -/
def State.tlbiAll (s : State) (scope kind ten : Nat) (va : VA) : State :=
  let d := s.cur.dev
  if scope ≤ 2 then s.onDevice fun v => v.tlbi (some (clusterOf s.cur.vcn)) kind ten va
  else if scope = 3 then s.onDevice fun v => v.tlbi none kind ten va
  else { s with devs := s.devs.map fun p => if s.reachable d p.1 then (p.1, p.2.tlbi none kind ten va) else p }

/-- The end of a TLBI whose drop has been made (R39): it waits for the walks that began before the drop; a device of the scope that goes down
meanwhile has not answered. -/
def State.tlbiEnd (s : State) (scope : Nat) (rd : Reg) : State :=
  if s.staleWalk scope then s.park (.walks scope)
  else
    let lost := 4 ≤ scope && s.device.down.any fun n => s.inDomain s.cur.dev n && (s.dev n).walks.any fun w => w.stale && w.ended.isNone
    ((s.onThread fun c => { c with sent := 0 }).setX rd (bit (s.thread.sent == 2 || lost))).retire

/-- TLBI (R39, R40): `sent` is 1 once the drop has been made, and 2 when a device of the scope was down then. -/
def execTlbi (aw : BitVec 2) (rd rs1 rs2 : Reg) (s : State) : Out :=
  .next (s.supervisor fun s => s.ready [.x rs1, .x rs2, .x rd] fun s =>
    let d := s.thread.getX rs2
    let scope := (d.extractLsb' 0 3).toNat
    if tlbiBad d then s.illegalVal d
    else if s.thread.sent ≠ 0 then s.tlbiEnd scope rd
    else s.complete (if 4 ≤ scope then .dm else .dv) fun s =>
      let part := 4 ≤ scope && s.device.down.any fun n => s.inDomain s.cur.dev n
      ((s.tlbiAll scope (d.extractLsb' 4 2).toNat (d.extractLsb' 8 8).toNat (s.windowVa aw rs1)).onThread fun c =>
        { c with sent := if part then 2 else 1 }).tlbiEnd scope rd)

/-- A cluster's TLB caches the leaf of a page, and may drop another entry (R37). -/
def Device.cacheLeaf (v : Device) (cl ten a b : Nat) (e : Word) (drop : Nat) : Device :=
  { v with tlb := ⟨cl, ten, a / 2 ^ b * 2 ^ b, b, e⟩ ::
      (v.tlb.eraseIdx drop).filter fun t => !(t.cluster == cl && t.tenant == ten && t.page == a / 2 ^ t.bits * 2 ^ t.bits) }

/-- Change the open walk of a cluster for a page. -/
def Device.onWalk (v : Device) (cl ten a : Nat) (f : Walk → Walk) : Device :=
  { v with walks := v.walks.map fun w => if w.isFor cl ten a && w.ended.isNone then f w else w }

/-- A walk ends: a valid leaf is cached unless a TLBI has come in between, and the accesses that wait take the result in turn (R37 to R40). -/
def Device.endWalk (v : Device) (w : Walk) (drop : Nat) (e : WalkEnd) : Device :=
  let v := v.onWalk w.cluster w.tenant w.va fun x => { x with ended := some e }
  match e with
  | .leaf pte b => if w.stale then v else v.cacheLeaf w.cluster w.tenant w.va b pte drop
  | .fault _ _ => v

/-- The next step of a walk: the descriptor, or the entry of a level at that entry's home (R30, R38). -/
def State.stepWalk (s : State) (d drop : Nat) (w : Walk) : State :=
  match w.table, w.levels with
  | none, _ => match s.rootOf d w.tenant with
    | .error f => s.modDev d fun v => v.endWalk w drop (.fault f.1 f.2)
    | .ok root => s.modDev d fun v => v.onWalk w.cluster w.tenant w.va fun x => { x with table := some root }
  | some _, [] => s
  | some t, l :: rest => match s.walkLevel d w.va false l t with
    | .error f => if f = walkHeld then s else s.modDev d fun v => v.endWalk w drop (.fault f.1 f.2)
    | .ok (.table t') => s.modDev d fun v => v.onWalk w.cluster w.tenant w.va fun x => { x with levels := rest, table := some t' }
    | .ok (.leaf e _ b) => s.modDev d fun v => v.endWalk w drop (.leaf e b)

/-- PAGE_WALK (R30, R37, R38): the walk of one of the 24 clusters for a page of a tenant begins when a walker is free, or takes its next step;
misses for the same page share it, and at most 16 of a cluster are in progress, the oldest first. A valid leaf is cached; a fault caches
nothing (DESIGN CHOICE, log entry 12). -/
def execPageWalk (cl : Nat) (ten : BitVec 8) (va : BitVec 72) (drop : Nat) (s : State) : Out :=
  let d := s.cur.dev
  let a := va.toNat % 2 ^ 71
  let l := s.device.openWalks cl
  .next (
    if 24 ≤ cl then s
    else match (l.take 16).find? fun w => w.isFor cl ten.toNat a with
      | some w => s.stepWalk d drop w
      | none =>
        if 16 ≤ l.length then s
        else match s.rootOf d ten.toNat with
          | .error _ => s
          | .ok root => s.onDevice fun v => { v with walks := v.walks ++ [⟨cl, ten.toNat, a, [0, 1, 2, 3, 4], some root, false, [], none⟩] })

/-- An access still waits for a translation by device d: a parked thread, one whose fetch waits, or a peer's access on its way (R38). -/
def State.stillWaits (s : State) (d : Nat) (q : Issuer × VA) : Bool :=
  let c := s.ctx q.1.dev q.1.cid
  let k := s.core q.1.dev q.1.vcn
  (s.net.any fun m => match m with
    | .req r => r.dst == d && r.loc.isNone && r.who == q.1 && r.va == q.2
    | _ => false)
  || (q.1.dev == d && c.place == .resident && c.core == q.1.vcn && c.sup == q.1.sup && c.tenant.toNat == q.1.tenant && !k.fenced && !k.failed
    && match c.wait with
      | some (.again (.held va) _) => va == q.2
      | none => q.2.extractLsb' 64 8 == 0#8 && q.2.extractLsb' 5 59 == c.pc.extractLsb' 5 59
      | _ => false)

/-- Walks whose result every waiting access has taken are forgotten, and so is a place in the queue for a walker that no access needs. -/
def State.walkSettle (s : State) : State :=
  if s.devs.all (fun p => p.2.walks.isEmpty) then s
  else { s with devs := s.devs.map fun p => (p.1, { p.2 with
    walks := (p.2.walks.map fun w => { w with waiting := w.waiting.filter (s.stillWaits p.1) }).filter fun w =>
      w.ended.isNone && w.table.isSome || !w.waiting.isEmpty }) }

/-- Engine space is refused with PERM 5 before anything else is looked up (R215, R216, R326). -/
def State.notEngine (s : State) (va : VA) (k : State → State) : State :=
  if va.extractLsb' 68 4 = 0xA#4 then s.trapVa 0x04 va 5 else k s

/-! ## SCRUB (R326) -/

/-- The words of a SCRUB from its progress on: at most eight in an issue (DEDUCED, log entry 47). -/
def State.scrubWords (s : State) (va : VA) (total : Nat) : Nat → State
  | 0 => s.park .other
  | n + 1 =>
    let done := s.thread.sent
    if total ≤ done then (s.onThread fun c => { c with sent := 0 }).retire
    else
      let a := vaAdd va (8 * done)
      s.notEngine a fun s => s.resolve s.cur.dev a .writeOnly 8 fun t s =>
        s.effect ⟨a, s.cur.dev, t, 0, 3, 0, 0, 0, .scrub⟩ fun s =>
          (s.onThread fun c => { c with sent := done + 1 }).scrubWords va total n

/-- SCRUB (R326). -/
def execScrub (rs1 rs2 : Reg) (s : State) : Out :=
  .next (s.supervisor fun s => s.ready [.x rs1, .x rs2] fun s =>
    let va := s.windowVa 0#2 rs1
    let n := s.thread.getX rs2
    if va.toNat % 64 ≠ 0 then s.misalignVa va
    else if n.toNat % 64 ≠ 0 then s.misalign n
    else s.scrubWords va (n.toNat / 8) 9)

end Sys2Proof.Machine
end

