-- ==== Sys2Proof/WellFormed.lean ====
section
/-! DEFINITION. Well-formedness of an instruction: the checks of decode (R57, step 2) that use the word alone and that the
types of Syntax.lean do not already make. -/

namespace Sys2Proof

/-- The lane width in bits of a vector type (R46). -/
def VTy.width : VTy → Nat
  | .f32 => 32 | .bf16 => 16 | .f16 => 16 | .i8 => 8 | .i16 => 16 | .i32 => 32 | .i64 => 64

/-- f32, bf16 and f16 are the float types (R203). -/
def VTy.isFloat : VTy → Bool
  | .f32 | .bf16 | .f16 => true
  | _ => false

/-- The number of lanes of a type (R201). -/
def VTy.lanes (t : VTy) : Nat := 1024 / t.width

/-- Bits of one element of a format code of R152 as a tile stores it (R73, R153): 6-bit elements take a byte. -/
def elemBits (f : BitVec 4) : Nat :=
  match f.toNat with
  | 0 => 32 | 1 => 16 | 2 => 16 | 3 => 8 | 4 => 8 | 5 => 8 | 6 => 8 | 7 => 4 | 8 => 8 | 9 => 4 | 10 => 4 | _ => 0

/-- The natural row stride of a format in bytes: 32 elements (R228). -/
def naturalStride (f : BitVec 4) : Nat := 4 * elemBits f

/-- A format that carries a block scale (R152): codes 0011 to 1010. -/
def hasScale (f : BitVec 4) : Bool := 3 ≤ f.toNat && f.toNat ≤ 10

/-- The three IEEE formats (R152). -/
def isIeee (f : BitVec 4) : Bool := f.toNat ≤ 2

/-- A row stride in units of 8 bytes is 0 (natural) or at least natural (R228). -/
def strideOk (f : BitVec 4) (s : BitVec 10) : Bool := s == 0#10 || naturalStride f ≤ 8 * s.toNat

/-- A block stride in units of 128 bytes is 0 or at least the plane count (R228). -/
def blockStrideOk (planes : Nat) (s : BitVec 10) : Bool := s == 0#10 || planes ≤ s.toNat

/-- The rules that tie MMA's strides to its plane counts pa and pb (R228). -/
def mmaRule (pa pb : Nat) (c : TileCmd) : Bool := blockStrideOk pa c.s1 && blockStrideOk pb c.s2

/-- The rules that tie MACCST's fields to its output format and saturate bit (R228, R237). -/
def maccstRule (ofmt : BitVec 4) (sat : Bool) (c : TileCmd) : Bool :=
  (isIeee ofmt || ofmt == 3#4 || ofmt == 4#4 || ofmt == 12#4)
    && (!sat || isIeee ofmt)
    && ((ofmt == 3#4 || ofmt == 4#4) || c.off3 == 0#18)
    && (if ofmt == 12#4 then c.s1 == 0#10 else strideOk ofmt c.s1)

/-- The rules that tie MPACK's fields to its plane count minus 1 and its source format (R228, R239). -/
def mpackRule (pp : Nat) (ifmt : BitVec 4) (c : TileCmd) : Bool :=
  (1 ≤ pp && pp ≤ 15) && ifmt.toNat ≤ 10 && (hasScale ifmt || c.off4 == 0#18) && strideOk ifmt c.s2

/-- The rules that tie MXPOSE's fields to its plane count minus 1 and its format (R228, R240). -/
def mxposeRule (pp : Nat) (ifmt : BitVec 4) : Bool :=
  ifmt.toNat ≤ 11 && (ifmt == 11#4 && pp ≤ 15 || pp == 0)

/-- The decode checks of R227 to R229 on the words of a tile command. -/
def TileCmd.wf (op : TileOp) (c : TileCmd) : Bool :=
  c.pm1.toNat ≤ 15 && c.pm2.toNat ≤ 15 &&
  match op with
  | .mma | .mmaz =>
    c.kb != 0#6 && c.ofmt == 0#4 && c.ifmt == 0#4 && !c.sat
      && (if c.shadow then c.pm1 == 0#5 && c.pm2 == 0#5
          else mmaRule (c.pm1.toNat + 1) (c.pm2.toNat + 1) c)
  | .maccst =>
    c.kb == 0#6 && c.pm1 == 0#5 && c.pm2 == 0#5 && c.off2 == 0#18 && c.off4 == 0#18 && c.ifmt == 0#4
      && c.s2 == 0#10
      && (if c.shadow then c.ofmt == 0#4 && !c.sat else maccstRule c.ofmt c.sat c)
  | .maccld =>
    c.kb == 0#6 && c.pm1 == 0#5 && c.pm2 == 0#5 && c.off2 == 0#18 && c.off3 == 0#18 && c.off4 == 0#18
      && c.ofmt == 0#4 && c.ifmt == 0#4 && !c.sat && c.s1 == 0#10 && c.s2 == 0#10
  | .mpack =>
    c.kb == 0#6 && c.pm2 == 0#5 && c.tile == 0#2 && c.ofmt == 0#4 && !c.sat && c.s1 == 0#10
      && (if c.shadow then c.pm1 == 0#5 && c.ifmt == 0#4 else mpackRule c.pm1.toNat c.ifmt c)
  | .mxpose =>
    c.kb == 0#6 && c.pm2 == 0#5 && c.off3 == 0#18 && c.off4 == 0#18 && c.tile == 0#2 && c.ofmt == 0#4
      && !c.sat && c.s1 == 0#10 && c.s2 == 0#10
      && (if c.shadow then c.pm1 == 0#5 && c.ifmt == 0#4 else mxposeRule c.pm1.toNat c.ifmt)
  | .mzero =>
    c.kb == 0#6 && c.pm1 == 0#5 && c.off1 == 0#18 && c.pm2 == 0#5 && c.off2 == 0#18 && c.off3 == 0#18
      && c.off4 == 0#18 && c.ofmt == 0#4 && c.ifmt == 0#4 && !c.sat && c.s1 == 0#10 && c.s2 == 0#10

/-- VCVT's types: different, and at most a factor of two apart (R63, R211). -/
def vcvtOk (dst src : VTy) : Bool :=
  dst != src && dst.width ≤ 2 * src.width && src.width ≤ 2 * dst.width

/-- The well-formed terms: those that some word decodes to, and the events. -/
def Instr.wf : Instr → Bool
  | .vminu ty _ _ _ _ | .vmaxu ty _ _ _ _ | .vshl ty _ _ _ _ | .vshr ty _ _ _ _ | .vshrl ty _ _ _ _ => !ty.isFloat
  | .vcmp cc ty md _ _ _ => md != 0#2 && (!ty.isFloat || (cc != .ltu && cc != .leu))
  | .vcvt dst src _ _ _ _ => vcvtOk dst src
  | .vquant ty _ _ _ | .vdeq ty _ _ _ | .vsqrt ty _ _ _ | .vrsqrt ty _ _ _ | .vexp2 ty _ _ _ | .vlog2 ty _ _ _
  | .vscale ty _ _ _ | .vmova ty _ _ _ => ty.isFloat
  | .vmovaw ty _ _ _ => ty.isFloat || ty == .i32
  | .mma c => c.wf .mma
  | .mmaz c => c.wf .mmaz
  | .maccst c => c.wf .maccst
  | .maccld c => c.wf .maccld
  | .mpack c => c.wf .mpack
  | .mxpose c => c.wf .mxpose
  | .mzero c => c.wf .mzero
  | _ => true

/-- `Instr.wf` as a proposition. -/
abbrev WellFormed (i : Instr) : Prop := i.wf = true

end Sys2Proof
end

