-- ==== Sys2Proof/Machine/Vector.lean ====
section
/-! DEFINITION. The vector unit: element-wise operations, comparison, conversion, reductions, lane moves, vector memory, block
formats, appended tokens and accumulator rows (R201 to R225). -/

namespace Sys2Proof.Machine

/-! ## Lanes -/

/-- Lane i of width w. -/
def lane (w : Nat) (v : VWord) (i : Nat) : Nat := (v.extractLsb' (w * i) w).toNat

/-- A register from its lanes of width w. -/
def ofLanes (w : Nat) (l : List Nat) : VWord := BitVec.ofNat 1024 (l.foldr (fun a b => a % 2 ^ w + 2 ^ w * b) 0)

/-- The flags of a list of results. -/
def flagsOf (l : List FRes) : VFlags := l.foldl (fun f r => f ||| r.2) 0

/-- Every enabled lane of n lanes of width w gets its result, and a disabled one keeps the old value (R201). -/
def lanewise (w : Nat) (m : MWord) (old : VWord) (f : Nat → FRes) : VWord × VFlags :=
  let r := (List.range (1024 / w)).map fun i => if m.getLsbD i then f i else (lane w old i, 0)
  (ofLanes w (r.map (·.1)), flagsOf r)

/-! ## The unit's queue (R202) -/

/-- An entry takes one of the queue's two places. -/
def VJob.places : VJob → Nat
  | .result _ _ _ _ _ | .vqapp _ _ _ _ => 1
  | .row _ _ _ _ | .counts _ _ => 0

/-- The queue is full. -/
def Core.vqFull (k : Core) : Bool := 2 ≤ (k.vq.map VJob.places).sum

/-- An instruction for the unit: operands, and then a stall while the queue is full (DEDUCED, log entry 45). -/
def State.vector (s : State) (l : List Opnd) (k : State → State) : State :=
  s.ready l fun s => if s.here.vqFull then s.stall else k s

/-- A vector instruction that completes within its rotation: vd, and the flags. -/
def State.vdone (s : State) (vd : VReg) (r : VWord × VFlags) : State := (s.onThread fun c => (c.setV vd r.1).raise r.2).retire

/-- A multi-rotation instruction enters the queue with its result; vd is empty until it completes (DESIGN CHOICE, log entry 41). -/
def State.venter (s : State) (vd : VReg) (r : VWord × VFlags) (n : Counts) : State :=
  ((s.onCore fun k => { k with vq := k.vq ++ [.result s.cur.cid vd r.1 r.2 n] }).onThread fun c => c.awaitV vd).retire

/-! ## Element-wise operations (R204 to R208) -/

/-- A binary operation of R204 on a lane. -/
inductive VOp where
  | add | sub | mul | div | min | max | minu | maxu | and | or | xor | shl | shr | shrl
deriving DecidableEq, Repr

/-- Float lanes. -/
def VOp.float (op : VOp) (f : FFmt) (a b : Nat) : FRes :=
  let x := f.decode a
  let y := f.decode b
  match op with
  | .add => f.add x y
  | .sub => f.add x y.negate
  | .mul => f.mul x y
  | .div => f.div x y
  | .min => f.minmax false a b
  | .max => f.minmax true a b
  | .and => (a &&& b, 0)
  | .or => (a ||| b, 0)
  | .xor => (a ^^^ b, 0)
  | _ => (0, 0)

/-- Integer lanes of w bits. -/
def VOp.int (op : VOp) (w : Nat) (a b : Nat) : Nat :=
  let x := signed w a
  let y := signed w b
  match op with
  | .add => (a + b) % 2 ^ w
  | .sub => (a + 2 ^ w - b) % 2 ^ w
  | .mul => a * b % 2 ^ w
  | .div => if b = 0 then 2 ^ w - 1 else lowBits w (x.tdiv y)
  | .min => if x ≤ y then a else b
  | .max => if x ≤ y then b else a
  | .minu => if a ≤ b then a else b
  | .maxu => if a ≤ b then b else a
  | .and => a &&& b
  | .or => a ||| b
  | .xor => a ^^^ b
  | .shl => a * 2 ^ (b % w) % 2 ^ w
  | .shr => lowBits w (x / 2 ^ (b % w))
  | .shrl => a / 2 ^ (b % w)

/-- One lane of a type. -/
def VOp.lane (op : VOp) (ty : VTy) (a b : Nat) : FRes :=
  if ty.isFloat then op.float (VTy.fmt ty) a b else (op.int ty.width a b, 0)

/-- `vOP.T vd, vs1, vs2, m` (R204). -/
def State.vbinary (s : State) (op : VOp) (ty : VTy) (vd vs1 vs2 : VReg) (m : MReg) : State :=
  s.vector [.v vs1, .v vs2, .m m, .v vd] fun s =>
    let c := s.thread
    let w := ty.width
    let r := lanewise w (c.getM m) (c.getV vd) fun i => op.lane ty (lane w (c.getV vs1) i) (lane w (c.getV vs2) i)
    if op = .div then s.venter vd r Counts.zero else s.vdone vd r

/-- VADD (R204). -/
def execVadd (ty : VTy) (vd vs1 vs2 : VReg) (m : MReg) (s : State) : Out := .next (s.vbinary .add ty vd vs1 vs2 m)

/-- VSUB (R204). -/
def execVsub (ty : VTy) (vd vs1 vs2 : VReg) (m : MReg) (s : State) : Out := .next (s.vbinary .sub ty vd vs1 vs2 m)

/-- VMUL (R204, R206). -/
def execVmul (ty : VTy) (vd vs1 vs2 : VReg) (m : MReg) (s : State) : Out := .next (s.vbinary .mul ty vd vs1 vs2 m)

/-- VFMA on a lane (R205). -/
def fmaLane (ty : VTy) (a b c : Nat) : FRes :=
  if ty.isFloat then
    let f := VTy.fmt ty
    f.fma (f.decode a) (f.decode b) (f.decode c)
  else ((a * b + c) % 2 ^ ty.width, 0)

/-- VFMA (R205). -/
def execVfma (ty : VTy) (vd vs1 vs2 : VReg) (m : MReg) (s : State) : Out :=
  .next (s.vector [.v vs1, .v vs2, .m m, .v vd] fun s =>
    let c := s.thread
    let w := ty.width
    s.vdone vd (lanewise w (c.getM m) (c.getV vd) fun i =>
      fmaLane ty (lane w (c.getV vs1) i) (lane w (c.getV vs2) i) (lane w (c.getV vd) i)))

/-- VMIN (R156, R204). -/
def execVmin (ty : VTy) (vd vs1 vs2 : VReg) (m : MReg) (s : State) : Out := .next (s.vbinary .min ty vd vs1 vs2 m)

/-- VMAX (R156, R204). -/
def execVmax (ty : VTy) (vd vs1 vs2 : VReg) (m : MReg) (s : State) : Out := .next (s.vbinary .max ty vd vs1 vs2 m)

/-- VMINU (R204). -/
def execVminu (ty : VTy) (vd vs1 vs2 : VReg) (m : MReg) (s : State) : Out := .next (s.vbinary .minu ty vd vs1 vs2 m)

/-- VMAXU (R204). -/
def execVmaxu (ty : VTy) (vd vs1 vs2 : VReg) (m : MReg) (s : State) : Out := .next (s.vbinary .maxu ty vd vs1 vs2 m)

/-- VDIV (R155, R204). -/
def execVdiv (ty : VTy) (vd vs1 vs2 : VReg) (m : MReg) (s : State) : Out := .next (s.vbinary .div ty vd vs1 vs2 m)

/-- VAND (R204). -/
def execVand (ty : VTy) (vd vs1 vs2 : VReg) (m : MReg) (s : State) : Out := .next (s.vbinary .and ty vd vs1 vs2 m)

/-- VOR (R204). -/
def execVor (ty : VTy) (vd vs1 vs2 : VReg) (m : MReg) (s : State) : Out := .next (s.vbinary .or ty vd vs1 vs2 m)

/-- VXOR (R204). -/
def execVxor (ty : VTy) (vd vs1 vs2 : VReg) (m : MReg) (s : State) : Out := .next (s.vbinary .xor ty vd vs1 vs2 m)

/-- VSHL (R204). -/
def execVshl (ty : VTy) (vd vs1 vs2 : VReg) (m : MReg) (s : State) : Out := .next (s.vbinary .shl ty vd vs1 vs2 m)

/-- VSHR (R204). -/
def execVshr (ty : VTy) (vd vs1 vs2 : VReg) (m : MReg) (s : State) : Out := .next (s.vbinary .shr ty vd vs1 vs2 m)

/-- VSHRL (R204). -/
def execVshrl (ty : VTy) (vd vs1 vs2 : VReg) (m : MReg) (s : State) : Out := .next (s.vbinary .shrl ty vd vs1 vs2 m)

/-- A unary operation of R207 on a lane. -/
inductive VUn where
  | sqrt | rsqrt | exp2 | log2 | abs | neg
deriving DecidableEq, Repr

/-- One lane. -/
def VUn.lane (op : VUn) (ty : VTy) (a : Nat) : FRes :=
  let f := VTy.fmt ty
  let w := ty.width
  let x := f.decode a
  match op with
  | .sqrt => f.sqrt x
  | .rsqrt => f.rsqrt x
  | .exp2 => f.exp2 x
  | .log2 => f.log2 x
  | .abs => (if ty.isFloat then a % 2 ^ (w - 1) else lowBits w (max (signed w a) (-signed w a)), 0)
  | .neg => (if ty.isFloat then a ^^^ 2 ^ (w - 1) else lowBits w (-signed w a), 0)

/-- `vOP.T vd, vs1, m` (R207); all but VABS and VNEG take several rotations (R202). -/
def State.vunary (s : State) (op : VUn) (ty : VTy) (vd vs1 : VReg) (m : MReg) : State :=
  s.vector [.v vs1, .m m, .v vd] fun s =>
    let c := s.thread
    let r := lanewise ty.width (c.getM m) (c.getV vd) fun i => op.lane ty (lane ty.width (c.getV vs1) i)
    match op with
    | .abs | .neg => s.vdone vd r
    | _ => s.venter vd r Counts.zero

/-- VSQRT (R207). -/
def execVsqrt (ty : VTy) (vd vs1 : VReg) (m : MReg) (s : State) : Out := .next (s.vunary .sqrt ty vd vs1 m)

/-- VRSQRT (R207). -/
def execVrsqrt (ty : VTy) (vd vs1 : VReg) (m : MReg) (s : State) : Out := .next (s.vunary .rsqrt ty vd vs1 m)

/-- VEXP2 (R207). -/
def execVexp2 (ty : VTy) (vd vs1 : VReg) (m : MReg) (s : State) : Out := .next (s.vunary .exp2 ty vd vs1 m)

/-- VLOG2 (R207). -/
def execVlog2 (ty : VTy) (vd vs1 : VReg) (m : MReg) (s : State) : Out := .next (s.vunary .log2 ty vd vs1 m)

/-- VABS (R155, R207). -/
def execVabs (ty : VTy) (vd vs1 : VReg) (m : MReg) (s : State) : Out := .next (s.vunary .abs ty vd vs1 m)

/-- VNEG (R155, R207). -/
def execVneg (ty : VTy) (vd vs1 : VReg) (m : MReg) (s : State) : Out := .next (s.vunary .neg ty vd vs1 m)

/-- VSCALE (R208). -/
def execVscale (ty : VTy) (vd vs1 : VReg) (m : MReg) (s : State) : Out :=
  .next (s.vector [.v vs1, .m m, .v vd] fun s =>
    let c := s.thread
    let w := ty.width
    let f := VTy.fmt ty
    s.vdone vd (lanewise w (c.getM m) (c.getV vd) fun i =>
      f.scale (f.decode (lane w (c.getV vs1) i)) (signed w (lane w (c.getV vd) i))))

/-! ## Compare and select (R209, R210) -/

/-- A condition on two lanes: the answer and the flags (R209). -/
def condLane (cc : Cond) (ty : VTy) (a b : Nat) : Bool × VFlags :=
  if ty.isFloat then floatCond (VTy.fmt ty) cc a b
  else
    let x := signed ty.width a
    let y := signed ty.width b
    (match cc with
      | .eq => a == b
      | .ne => a != b
      | .lt => decide (x < y)
      | .le => decide (x ≤ y)
      | .ltu => decide (a < b)
      | .leu => decide (a ≤ b), 0)

/-- VCMP (R209). -/
def execVcmp (cc : Cond) (ty : VTy) (md : MReg) (vs1 vs2 : VReg) (m : MReg) (s : State) : Out :=
  .next (s.vector [.v vs1, .v vs2, .m m, .m md] fun s =>
    let c := s.thread
    let w := ty.width
    let r := (List.range ty.lanes).map fun i =>
      if (c.getM m).getLsbD i then condLane cc ty (lane w (c.getV vs1) i) (lane w (c.getV vs2) i) else (false, 0)
    let bits := r.foldr (fun a n => (if a.1 then 1 else 0) + 2 * n) 0
    (s.onThread fun c => (c.setM md (BitVec.ofNat 128 bits)).raise (r.foldl (fun f a => f ||| a.2) 0)).retire)

/-- VSEL (R210). -/
def execVsel (ty : VTy) (vd vs1 vs2 : VReg) (m : MReg) (s : State) : Out :=
  .next (s.vector [.v vs1, .v vs2, .m m, .v vd] fun s =>
    let c := s.thread
    s.vdone vd (lanewise ty.width (c.getM m) (c.getV vs2) fun i => (lane ty.width (c.getV vs1) i, 0)))

/-! ## Conversions (R157, R211) -/

/-- One lane of a conversion. -/
def cvtLane (dst src : VTy) (r : Rnd) (a : Nat) : FRes :=
  match src.isFloat, dst.isFloat with
  | true, true => (VTy.fmt src).convert (VTy.fmt dst) r a
  | true, false =>
    let x := (VTy.fmt src).toInt r dst.width a
    (lowBits dst.width x.1, x.2)
  | false, true => (VTy.fmt dst).ofInt r (signed src.width a)
  | false, false => (lowBits dst.width (signed src.width a), 0)

/-- Lane i of an even pair of registers: the lower half is in the even register (R211). -/
def Ctx.pairLane (c : Ctx) (v : VReg) (w i : Nat) : Nat :=
  let h := 1024 / w
  if i < h then lane w (c.getV v) i else lane w (c.getV (v + 1)) (i - h)

/-- VCVT (R211): the wider side of a pair of widths is an even register pair. -/
def execVcvt (dst src : VTy) (rtz : Bool) (vd vs1 : VReg) (m : MReg) (s : State) : Out :=
  .next (
    let wd := dst.width
    let ws := src.width
    let even := fun (v : VReg) => v.toNat % 2 == 0
    let regs := (if ws > wd then [Opnd.v vs1, .v (vs1 + 1)] else [.v vs1]) ++ [.m m]
      ++ (if wd > ws then [Opnd.v vd, .v (vd + 1)] else [.v vd])
    s.group ((ws ≤ wd || even vs1) && (wd ≤ ws || even vd)) fun s =>
      s.vector regs fun s =>
        let c := s.thread
        let r := (List.range (1024 / min wd ws)).map fun i =>
          if (c.getM m).getLsbD i then cvtLane dst src (if rtz then .tz else .ne) (c.pairLane vs1 ws i)
          else (c.pairLane vd wd i, 0)
        let out := r.map (·.1)
        let half := 1024 / wd
        (s.onThread fun c =>
          let c := c.setV vd (ofLanes wd (out.take half))
          (if wd > ws then c.setV (vd + 1) (ofLanes wd (out.drop half)) else c).raise (flagsOf r)).retire)

/-! ## Reductions (R158, R212) -/

/-- One level of the tree. -/
def pairUp (f : Nat → Nat → FRes) : List Nat → List FRes
  | a :: b :: t => f a b :: pairUp f t
  | _ => []

/-- The tree over 2^n lanes: the result and the flags. -/
def reduceTree (f : Nat → Nat → FRes) : Nat → List Nat → Nat × VFlags
  | 0, l => (l.headD 0, 0)
  | n + 1, l =>
    let r := pairUp f l
    let t := reduceTree f n (r.map (·.1))
    (t.1, flagsOf r ||| t.2)

/-- What a disabled lane enters as (R158). -/
def neutral (ty : VTy) (max_ : Bool) : Nat :=
  if ty.isFloat then
    let f := VTy.fmt ty
    if max_ then f.signed true f.inf else f.signed true 0
  else if max_ then 2 ^ (ty.width - 1) else 0

/-- A reduction (R212): lane 0 of vd, and zero in every other lane. -/
def State.vreduce (s : State) (op : VOp) (max_ : Bool) (ty : VTy) (vd vs1 : VReg) (m : MReg) : State :=
  s.vector [.v vs1, .m m, .v vd] fun s =>
    let c := s.thread
    let l := (List.range ty.lanes).map fun i =>
      if (c.getM m).getLsbD i then lane ty.width (c.getV vs1) i else neutral ty max_
    let r := reduceTree (op.lane ty) (Nat.log2 ty.lanes) l
    s.venter vd (ofLanes ty.width [r.1], r.2) Counts.zero

/-- VREDSUM (R212). -/
def execVredsum (ty : VTy) (vd vs1 : VReg) (m : MReg) (s : State) : Out := .next (s.vreduce .add false ty vd vs1 m)

/-- VREDMAX (R212). -/
def execVredmax (ty : VTy) (vd vs1 : VReg) (m : MReg) (s : State) : Out := .next (s.vreduce .max true ty vd vs1 m)

/-! ## Lane moves (R213, R214) -/

/-- VBCAST (R213). -/
def execVbcast (ty : VTy) (vd : VReg) (rs1 : Reg) (m : MReg) (s : State) : Out :=
  .next (s.vector [.x rs1, .m m, .v vd] fun s =>
    let c := s.thread
    s.vdone vd (lanewise ty.width (c.getM m) (c.getV vd) fun _ => ((c.getX rs1).toNat % 2 ^ ty.width, 0)))

/-- A lane index in x[rs2]; one of L or more traps ILLEGAL (R213). -/
def State.laneIndex (s : State) (ty : VTy) (rs2 : Reg) (k : Nat → State → State) : State :=
  let i := s.thread.getX rs2
  if ty.lanes ≤ i.toNat then s.illegalVal i else k i.toNat s

/-- VEXTR (R213). -/
def execVextr (ty : VTy) (rd : Reg) (vs1 : VReg) (rs2 : Reg) (s : State) : Out :=
  .next (s.vector [.v vs1, .x rs2, .x rd] fun s => s.laneIndex ty rs2 fun i s =>
    let a := lane ty.width (s.thread.getV vs1) i
    (s.setX rd (if ty.isFloat then BitVec.ofNat 64 a else BitVec.ofInt 64 (signed ty.width a))).retire)

/-- VINS (R213). -/
def execVins (ty : VTy) (vd : VReg) (rs1 rs2 : Reg) (s : State) : Out :=
  .next (s.vector [.x rs1, .x rs2, .v vd] fun s => s.laneIndex ty rs2 fun i s =>
    let c := s.thread
    s.vdone vd (lanewise ty.width (BitVec.allOnes 128) (c.getV vd) fun j =>
      (if j = i then (c.getX rs1).toNat % 2 ^ ty.width else lane ty.width (c.getV vd) j, 0)))

/-- VPERM (R214). -/
def execVperm (ty : VTy) (vd vs1 vs2 : VReg) (m : MReg) (s : State) : Out :=
  .next (s.vector [.v vs1, .v vs2, .m m, .v vd] fun s =>
    let c := s.thread
    let w := ty.width
    s.vdone vd (lanewise w (c.getM m) (c.getV vd) fun i =>
      (lane w (c.getV vs1) (lane w (c.getV vs2) i % ty.lanes), 0)))

/-- VNPUT (R200). -/
def execVnput (dir : Dir) (pos : BitVec 3) (vt vs1 : VReg) (s : State) : Out :=
  .next (s.nput (.v vs1) dir pos true vt.toNat fun c => c.getV vs1)

/-! ## Vector memory (R215 to R217) -/

/-- A piece of a vector access: byte position in the register, bytes, VA and, but for a deferred store, the place. -/
structure Piece where
  pos : Nat
  n : Nat
  va : VA
  tgt : Option Target
deriving DecidableEq, Repr

/-- The place of a piece. -/
def Piece.loc (p : Piece) : Nat := (p.tgt.map (·.loc)).getD 0

/-- Bytes of a register replaced from byte `pos` by the low n bytes of a value. -/
def putBytes (v : VWord) (pos n val : Nat) : VWord :=
  let m : VWord := BitVec.ofNat 1024 ((2 ^ (8 * n) - 1) * 2 ^ (8 * pos))
  v &&& ~~~m ||| BitVec.ofNat 1024 (val % 2 ^ (8 * n) * 2 ^ (8 * pos))

/-- The bytes of a register. -/
def getBytes (v : VWord) (pos n : Nat) : Word := BitVec.ofNat 64 (v.toNat / 2 ^ (8 * pos) % 2 ^ (8 * n))

/-- The pieces of a split load, each with the mark of the first of its 64-byte line, whose flit goes with it (R337). -/
def markLines (seen : List Nat) : List Piece → List (Piece × Bool)
  | [] => []
  | p :: t => (p, !seen.contains (p.va.toNat / 64)) :: markLines (p.va.toNat / 64 :: seen) t

/-- The poisoned piece of lowest address, as a refused word (R217). -/
def lowestBad (l : List Piece) : Option (VA × Nat) :=
  l.foldl (fun a p => match a with | some b => if p.va < b.1 then some (p.va, 5) else some b | none => some (p.va, 5)) none

/-- A vector load of pieces (R134, R215, R216): local pieces at once, and the others as a split load, of which a poisoned local piece reads as
0 and is reported after the fill (R217). -/
def State.vload (s : State) (vd : VReg) (l : List Piece) : State :=
  let own := fun (p : Piece) => isOwn s.cur.dev s.cur.vcn p.loc
  let near := l.filter own
  let far := l.filter fun p => !own p
  match l.find? fun p => s.matching s.cur.dev p.va with
  | some p => s.park (.matching s.cur.dev p.va)
  | none =>
    if s.thread.split.isSome ∧ (far ≠ [] ∨ near.any fun p => match s.thread.split with
        | some q => q.vas.any (fun q => sameWord p.va q.2) | none => false) then s.park .split
    else
      let bad := near.filter fun p => s.poisoned p.loc p.n
      let val := near.foldl (fun v p => putBytes v p.pos p.n (if s.poisoned p.loc p.n then 0 else s.readMem p.loc p.n)) (s.thread.getV vd)
      if far = [] then match bad with
        | p :: _ => s.trap (nackTrap p.va 5)
        | [] => s.vdone vd (val, 0)
      else
        let s1 := (s.onThread fun c =>
          { c.awaitV vd with split := some ⟨vd, val, far.length, far.map (fun p => (p.pos, p.va)), lowestBad bad⟩ }).retire
        (markLines [] far).foldl (fun s' q => s'.send (.req ⟨s.issuer, s.cur.dev, q.1.va, some q.1.loc, (q.1.tgt.map (·.feOk)).getD false,
          .load q.1.n false, .split q.1.pos q.1.n q.2⟩)) s1

/-- A vector store of pieces: each is an ordinary store (R97, R215, R216). -/
def State.vstore (s : State) (v : VWord) (l : List Piece) : State :=
  s.effects (l.map fun p =>
    ⟨p.va, s.cur.dev, p.tgt, 0, if p.n = 8 then 3 else 2, 0, 0, getBytes v p.pos p.n, .store p.n (getBytes v p.pos p.n)⟩)
    State.retire

/-- The words of a VLD or VST that the mask enables (R215). -/
def State.blockPieces (s : State) (va : VA) (m : MWord) (p : Perm) (k : List Piece → State → State) : State :=
  if va.toNat % 8 ≠ 0 ∨ 2 ^ 16 < va.toNat % 2 ^ 16 + 128 then s.misalignVa va
  else s.notEngine va fun s =>
    (if p = .writeOnly then s.resolveStore else s.resolve) s.cur.dev va p 8 fun t s =>
      k (((List.range 16).filter fun i => m.getLsbD i).map fun i =>
        ⟨8 * i, 8, vaAdd va (8 * i), t.map fun t => { t with loc := t.loc + 8 * i }⟩) s

/-- VLD (R215). -/
def execVld (aw : BitVec 2) (vd : VReg) (rs1 : Reg) (m : MReg) (s : State) : Out :=
  .next (s.vector [.x rs1, .m m, .v vd] fun s =>
    s.blockPieces (s.windowVa aw rs1) (s.thread.getM m) .readOnly fun l s => s.vload vd l)

/-- VST (R215). -/
def execVst (aw : BitVec 2) (vs3 : VReg) (rs1 : Reg) (m : MReg) (s : State) : Out :=
  .next (s.vector [.x rs1, .m m, .v vs3] fun s =>
    s.blockPieces (s.windowVa aw rs1) (s.thread.getM m) .writeOnly fun l s => s.vstore (s.thread.getV vs3) l)

/-- The place of a lane: a revocable task's store is translated when it is performed (R301). -/
def State.laneTarget (s : State) (va : VA) (p : Perm) (n : Nat) : Except VaFault (Option Target) :=
  match s.resolveAt s.cur.dev s.issuer va p n false with
  | .ok t =>
    .ok (if p = .writeOnly && s.thread.revocable && !(isLsVa va && isOwn s.cur.dev s.cur.vcn t.loc) then none else some t)
  | .error f => if p = .writeOnly && s.thread.revocable then .ok none else .error f

/-- The lanes of a VLDX or VSTX that the mask enables, checked in ascending order (R216). -/
def State.lanePieces (s : State) (dw : Bool) (aw : BitVec 2) (rs1 : Reg) (vs2 : VReg) (m : MWord) (p : Perm)
    (k : List Piece → State → State) : List Nat → List Piece → State
  | [], acc => k acc.reverse s
  | i :: t, acc =>
    if !m.getLsbD i then s.lanePieces dw aw rs1 vs2 m p k t acc
    else
      let n := if dw then 8 else 4
      let off := signed (8 * n) (lane (8 * n) (s.thread.getV vs2) i)
      let va := s.thread.va aw (s.thread.getX rs1 + BitVec.ofInt 64 off)
      if va.toNat % n ≠ 0 then s.misalignVa va
      else if va.extractLsb' 68 4 = 0xA#4 then s.trapVa 0x04 va 5
      else match s.laneTarget va p n with
        | .error f => if f = walkHeld then s.parkHeld va else s.trapVa f.1 va f.2
        | .ok tgt => s.lanePieces dw aw rs1 vs2 m p k t (⟨n * i, n, va, tgt⟩ :: acc)

/-- The lane numbers of an indexed access. -/
def laneList (dw : Bool) : List Nat := List.range (if dw then 16 else 32)

/-- VLDX (R216). -/
def execVldx (dw : Bool) (aw : BitVec 2) (vd : VReg) (rs1 : Reg) (vs2 : VReg) (m : MReg) (s : State) : Out :=
  .next (s.vector [.x rs1, .v vs2, .m m, .v vd] fun s =>
    s.lanePieces dw aw rs1 vs2 (s.thread.getM m) .readOnly (fun l s => s.vload vd l) (laneList dw) [])

/-- VSTX (R216). -/
def execVstx (dw : Bool) (aw : BitVec 2) (vs3 : VReg) (rs1 : Reg) (vs2 : VReg) (m : MReg) (s : State) : Out :=
  .next (s.vector [.x rs1, .v vs2, .m m, .v vs3] fun s =>
    s.lanePieces dw aw rs1 vs2 (s.thread.getM m) .writeOnly (fun l s => s.vstore (s.thread.getV vs3) l) (laneList dw) [])

/-! ## Block formats (R218 to R220) -/

/-- VFMT of fmt (R230). -/
def Ctx.vfmt (c : Ctx) : Nat := (c.fmt.extractLsb' 24 4).toNat

/-- The format code must be 0011 to 1010 (R219). -/
def State.blockFormat (s : State) (k : Nat → State → State) : State :=
  let f := s.thread.vfmt
  if 3 ≤ f ∧ f ≤ 10 then k f s else s.illegalVal s.thread.fmt

/-- The bytes that codes occupy: one a byte, or two for a 4-bit format (R73). -/
def packCodes (f : Nat) (l : List Nat) : List Nat :=
  if elemBits (BitVec.ofNat 4 f) = 4 then
    (List.range (l.length / 2)).map fun k => l.getD (2 * k) 0 % 16 + 16 * (l.getD (2 * k + 1) 0 % 16)
  else l

/-- Element k of a block that starts at byte `at_` of a register. -/
def blockCode (f : Nat) (v : VWord) (at_ k : Nat) : Nat :=
  if elemBits (BitVec.ofNat 4 f) = 4 then lane 4 v (2 * at_ + k) else lane 8 v (at_ + k)

/-- Bytes that a block's elements take in a register (R218). -/
def blockSize (f : Nat) : Nat := if elemBits (BitVec.ofNat 4 f) = 4 then 16 else 32

/-- VQUANT (R219). -/
def execVquant (ty : VTy) (vd vs1 : VReg) (m : MReg) (s : State) : Out :=
  .next (s.vector [.v vs1, .m m, .v vd] fun s => s.blockFormat fun f s =>
    let c := s.thread
    let blocks := (List.range (ty.lanes / 32)).map fun b =>
      quantBlock f ((List.range 32).map fun k =>
        let i := 32 * b + k
        if (c.getM m).getLsbD i then (VTy.fmt ty).decode (lane ty.width (c.getV vs1) i) else FVal.zero)
    let elems := blocks.flatMap fun b => packCodes f b.1
    let out := elems ++ List.replicate (64 - elems.length) 0 ++ blocks.map (·.2.1)
    s.venter vd (ofLanes 8 out, 0) (Counts.sum (blocks.map (·.2.2))))

/-- One lane of VDEQ: the result, its flags and counts (R220). -/
def deqLane (g : FFmt) (e : Elem) : FRes × Counts :=
  let n := countIf e.2 Counts.fmtOnce
  match e.1 with
  | .nan _ => ((g.nan, 0), n.add Counts.nanOnce)
  | .inf neg => ((g.signed neg g.inf, 0), n)
  | .fin x => (g.roundEx .ne x, n)

/-- VDEQ (R220). -/
def execVdeq (ty : VTy) (vd vs1 : VReg) (m : MReg) (s : State) : Out :=
  .next (s.vector [.v vs1, .m m, .v vd] fun s => s.blockFormat fun f s =>
    let c := s.thread
    let elems := (List.range (ty.lanes / 32)).flatMap fun b =>
      decodeBlock f ((List.range 32).map fun k => blockCode f (c.getV vs1) (blockSize f * b) k) (lane 8 (c.getV vs1) (64 + b))
    let r := elems.map (deqLane (VTy.fmt ty))
    let on := fun (i : Nat) => (c.getM m).getLsbD i
    let out := lanewise ty.width (c.getM m) (c.getV vd) fun i => ((r[i]?).map (·.1)).getD (0, 0)
    s.venter vd out (Counts.sum (r.zipIdx.map fun (e, i) => if on i then e.2 else Counts.zero)))

/-! ## Appending a token (R221, R222) -/

/-- Formats that VQAPP accepts (R222). -/
def appendable (f : Nat) : Bool := 3 ≤ f && f ≤ 9

/-- VQAPP (R222): the thread issues nothing until it completes. -/
def execVqapp (vs : VReg) (rs1 : Reg) (m : MReg) (s : State) : Out :=
  .next (s.vector [.v vs, .x rs1, .m m] fun s =>
    let c := s.thread
    let f := c.vfmt
    let o := c.getX rs1
    if !appendable f then s.illegalVal c.fmt
    else if o.toNat % 64 ≠ 0 ∨ 0x40000 < o.toNat + 64 + 128 * elemBits (BitVec.ofNat 4 f) then s.illegalVal o
    else
      let w := (lanewise 32 (c.getM m) 0 fun i => (lane 32 (c.getV vs) i, 0)).1
      (s.onCore fun k => { k with vq := k.vq ++ [.vqapp s.cur.cid w o.toNat (BitVec.ofNat 4 f)] }).onThread fun c =>
        { c with wait := some (.reply 0 .none) })

/-- The code of token t of column j of a record (R221). -/
def State.recordCode (s : State) (rec_ bits j t : Nat) : Nat :=
  if bits = 4 then
    let b := s.readMem (rec_ + 64 + 16 * j + t / 2) 1
    if t % 2 = 0 then b % 16 else b / 16
  else s.readMem (rec_ + 64 + 32 * j + t) 1

/-- Store the code of token t of column j. -/
def State.setRecordCode (s : State) (rec_ bits j t c : Nat) : State :=
  if bits = 4 then
    let l := rec_ + 64 + 16 * j + t / 2
    let b := s.readMem l 1
    s.writeMem l 1 (if t % 2 = 0 then b / 16 * 16 + c % 16 else b % 16 + 16 * (c % 16))
  else s.writeMem (rec_ + 64 + 32 * j + t) 1 c

/-- Append the tokens of the columns in turn. -/
def State.appendColumns (s : State) (rec_ : Nat) (f bits t : Nat) (w : VWord) : List Nat → State × Counts
  | [] => (s, Counts.zero)
  | j :: js =>
    let old := (List.range t).map fun i => s.recordCode rec_ bits j i
    let r := appendToken f (freeCode f (Config.unscaled f (lane 32 w j))) old (s.readMem (rec_ + 8 + j) 1) (fp32.decode (lane 32 w j))
    let s := (r.1.zipIdx.foldl (fun s' (c, i) => s'.setRecordCode rec_ bits j i c) s).writeMem (rec_ + 8 + j) 1 r.2.1
    let x := s.appendColumns rec_ f bits t w js
    (x.1, r.2.2.add x.2)

/-- VQAPP completes: one access to the record (R222) (DEDUCED, log entry 44). -/
def State.vqappDone (s : State) (d v cid : Nat) (w : VWord) (o f : Nat) : State :=
  let rec_ := lsLoc d v o
  let bits := elemBits (BitVec.ofNat 4 f)
  let h := s.readWord rec_
  let t := h.toNat
  if s.poisoned rec_ (64 + 128 * bits) then s.trapCtx d cid { cause := 0x05, tval := BitVec.ofNat 64 o, sub := 5 }
  else if 32 ≤ t then s.trapCtx d cid { cause := 0x00, tval := h }
  else
    let r := s.appendColumns rec_ f bits t w (List.range 32)
    let s := (r.1.writeWord rec_ (h + 1)).serveRange rec_ (64 + 128 * bits)
    (s.modCtx d cid fun c => { c with mcnt := addCounts c.mcnt r.2 }).finish d cid 0 .none (.vals [])

/-- VECTOR_COMPLETION (R202): the oldest instruction completes. -/
def execVectorCompletion (s : State) : Out :=
  .next (match s.here.vq with
    | [] => s
    | j :: t =>
      let d := s.cur.dev
      let v := s.cur.vcn
      let s := s.onCore fun k => { k with vq := t }
      let done := fun (cid : Nat) (f : Ctx → Ctx) => if cid = noCid then s else s.modCtx d cid f
      match j with
      | .result cid vd val fl n => done cid fun c => ({ c.setV vd val with mcnt := addCounts c.mcnt n } : Ctx).raise fl
      | .row cid vd val n => done cid fun c => { c.setV vd val with mcnt := addCounts c.mcnt n }
      | .counts cid n => done cid fun c => { c with mcnt := addCounts c.mcnt n }
      | .vqapp cid w o f => if cid = noCid then s else s.vqappDone d v cid w o f.toNat)

/-! ## Accumulator rows (R223 to R225) -/

/-- The matrix unit belongs to visible compute cores; elsewhere its instructions are illegal (R225, R227; DEDUCED, log entry 24). -/
def State.matrixUnit (s : State) (k : State → State) : State := if s.cur.vcn < 4608 then k s else s.illegal

/-- A row index above 31 traps ILLEGAL; a full queue stalls the position (R225). -/
def State.tileRow (s : State) (rs1 : Reg) (k : Nat → State → State) : State :=
  let i := s.thread.getX rs1
  if 31 < i.toNat then s.illegalVal i else if s.here.mqFree then k i.toNat s else s.stall

/-- VMOVA (R223). -/
def execVmova (ty : VTy) (vd : VReg) (acc : Tile) (rs1 : Reg) (s : State) : Out :=
  .next (s.matrixUnit fun s => s.ready [.x rs1, .v vd] fun s => s.tileRow rs1 fun i s =>
    ((s.onCore fun k => { k with mq := k.mq ++ [.mova s.cur.cid ty vd acc i] }).onThread fun c => c.awaitV vd).retire)

/-- VMOVAW (R224). -/
def execVmovaw (ty : VTy) (acc : Tile) (rs1 : Reg) (vs : VReg) (s : State) : Out :=
  .next (s.matrixUnit fun s => s.ready [.x rs1, .v vs] fun s => s.tileRow rs1 fun i s =>
    (s.onCore fun k => { k with mq := k.mq ++ [.movaw s.cur.cid ty acc i (s.thread.getV vs)] }).retire)

end Sys2Proof.Machine
end

