-- ==== Sys2Proof/Machine/Matrix.lean ====
section
/-! DEFINITION. Tile commands: their push, their execution in queue order, and their completion (R227 to R245). -/

namespace Sys2Proof.Machine

/-! ## The push (R229 to R232, R235, R242, R244) -/

/-- Fields of fmt and sclp (R230). -/
def Ctx.fmtPa (c : Ctx) : Nat := (c.fmt.extractLsb' 0 4).toNat
def Ctx.fmtPb (c : Ctx) : Nat := (c.fmt.extractLsb' 4 4).toNat
def Ctx.fmtPp (c : Ctx) : Nat := (c.fmt.extractLsb' 8 4).toNat
def Ctx.fmtIfmt (c : Ctx) : BitVec 4 := c.fmt.extractLsb' 12 4
def Ctx.fmtOfmt (c : Ctx) : BitVec 4 := c.fmt.extractLsb' 16 4
def Ctx.fmtSat (c : Ctx) : Bool := c.fmt.getLsbD 20
def Ctx.pbase (c : Ctx) : Nat := (c.sclp.extractLsb' 0 18).toNat
def Ctx.sbase (c : Ctx) : Nat := (c.sclp.extractLsb' 32 18).toNat

/-- Whether the values of fmt meet the rules that the word fields would (R229). -/
def Ctx.shadowOk (x : Ctx) (op : TileOp) (c : TileCmd) : Bool :=
  match op with
  | .mma | .mmaz => mmaRule (x.fmtPa + 1) (x.fmtPb + 1) c
  | .maccst => maccstRule x.fmtOfmt x.fmtSat c
  | .mpack => mpackRule x.fmtPp x.fmtIfmt c
  | .mxpose => mxposeRule x.fmtPp x.fmtIfmt
  | .maccld | .mzero => true

/-- A command with its fields resolved (R229, R231): plane counts, formats, strides in bytes and effective offsets. -/
def Ctx.resolveTile (x : Ctx) (cid : Nat) (op : TileOp) (c : TileCmd) : TileJob :=
  let f := c.shadow
  let pack := decide (op = .mpack) || decide (op = .mxpose)
  let pa := if f then (if pack then x.fmtPp else x.fmtPa) + 1 else c.pm1.toNat + 1
  let pb := if f then x.fmtPb + 1 else c.pm2.toNat + 1
  let ofmt := if f then x.fmtOfmt else c.ofmt
  let ifmt := if f then x.fmtIfmt else c.ifmt
  let base := (x.getX c.base).toNat
  let p := base + (if f then x.pbase else 0)
  let q := base + (if f then x.sbase else 0)
  let mul := decide (op = .mma) || decide (op = .mmaz)
  ⟨cid, op, c.ctrap, c.xd, c.tile, p + c.off1.toNat, p + c.off2.toNat, q + c.off3.toNat, q + c.off4.toNat, c.kb.toNat, pa, pb,
    ofmt, ifmt, if f then x.fmtSat else c.sat,
    if mul then 128 * (if c.s1 = 0#10 then pa else c.s1.toNat) else if c.s1 = 0#10 then naturalStride ofmt else 8 * c.s1.toNat,
    if mul then 128 * (if c.s2 = 0#10 then pb else c.s2.toNat) else if c.s2 = 0#10 then naturalStride ifmt else 8 * c.s2.toNat,
    x.pc, [], false, [], none, 0, x.tenant.toNat⟩

/-- The operands of a command in the order of its offsets: effective offset, alignment and bytes (R228, R231). -/
def TileJob.operands (j : TileJob) : List (Nat × Nat × Nat) :=
  match j.op with
  | .mma | .mmaz =>
    [(j.o1, 128, j.s1 * (j.kb - 1) + 128 * j.pa), (j.o2, 128, j.s2 * (j.kb - 1) + 128 * j.pb), (j.o3, 1, 32 * j.kb),
      (j.o4, 1, 32 * j.kb)]
  | .maccst =>
    if j.ofmt = 12#4 then [(j.o1, 8, 14336)]
    else (j.o1, 8, 31 * j.s1 + naturalStride j.ofmt) :: (if hasScale j.ofmt then [(j.o3, 1, 32)] else [])
  | .maccld => [(j.o1, 8, 14336)]
  | .mpack =>
    [(j.o1, 128, 128 * j.pa), (j.o2, 8, 31 * j.s2 + naturalStride j.ifmt), (j.o3, 1, 32)]
      ++ (if hasScale j.ifmt then [(j.o4, 1, 32)] else [])
  | .mxpose =>
    if j.ifmt = 11#4 then [(j.o1, 128, 128 * j.pa), (j.o2, 128, 128 * j.pa)]
    else [(j.o1, 8, 32 * naturalStride j.ifmt), (j.o2, 8, 32 * naturalStride j.ifmt)]
  | .mzero => []

/-- The checks of R231: the first operand that fails decides, alignment before extent. -/
def State.tileOperands (s : State) (k : State → State) : List (Nat × Nat × Nat) → State
  | [] => k s
  | (o, a, n) :: t =>
    if o % a ≠ 0 then s.misalign (BitVec.ofNat 64 o)
    else if 0x40000 < o + n then s.illegalVal (BitVec.ofNat 64 o)
    else s.tileOperands k t

/-- Ticks of occupancy (R235). -/
def TileJob.occ (j : TileJob) : Nat :=
  match j.op with
  | .mma | .mmaz => 2 * j.pa * j.kb
  | .maccst => if j.ofmt = 12#4 then 64 else 32
  | .maccld => 64
  | .mpack => 32 + 2 * j.pa
  | .mxpose => 32
  | .mzero => 1

/-- can_charge and charge (R242). -/
def Core.refill (k : Core) : Nat := (k.erefill.extractLsb' 0 32).toNat
def canCharge (refill budget d : Nat) : Bool :=
  refill == 0 || (if d ≤ refill then decide (d ≤ budget) else budget == refill)
def charged (refill budget d : Nat) : Nat := if refill = 0 then budget else if d ≤ refill then budget - d else 0

/-- What the pushing thread still has outstanding comes before every access of the command (R140); the stores of one that has moved are in the
journals of the cores it left (R322). -/
def State.afterStores (s : State) (j : TileJob) : TileJob :=
  { j with
    stores := (s.cores.filter fun p => p.1 / 8192 == s.cur.dev).flatMap fun p =>
      (p.2.journal.filter fun q => q.2.isOpen s.cur.cid && decide (q.2.kind < 5)).map fun q => (p.1 % 8192, q.1)
    split := s.thread.split.isSome }

/-- A tile command is pushed (R232). -/
def State.pushTile (s : State) (op : TileOp) (c : TileCmd) : State :=
  s.matrixUnit fun s => s.ready [.x c.base, .x c.xd] fun s =>
    if s.here.counting s.cur.cid then s.park .counts
    else match s.thread.mcp with
      | some n => (s.onThread fun x => { x with mcp := none }).trap { cause := 0x09, tval := s.thread.mcnt, sub := n.toNat }
      | none =>
        if c.shadow && !s.thread.shadowOk op c then s.illegalVal s.thread.fmt
        else
          let j := s.thread.resolveTile s.cur.cid op c
          s.tileOperands (fun s =>
            let d := 2 ^ c.ec.toNat * j.occ
            let r := s.here.refill
            let b := (s.thread.ebudget.extractLsb' 0 32).toNat
            if !canCharge r b d then s.park .budget
            else if !s.here.mqFree then s.park .queue
            else (s.onCore fun k => { k with mq := k.mq ++ [.tile (s.afterStores j)] }).onThread fun x =>
              { x.awaitX c.xd with ebudget := BitVec.ofNat 64 (charged r b d), pc := x.pc + 32 }) j.operands

/-- MMA (R236). -/
def execMma (c : TileCmd) (s : State) : Out := .next (s.pushTile .mma c)

/-- MMAZ (R236). -/
def execMmaz (c : TileCmd) (s : State) : Out := .next (s.pushTile .mmaz c)

/-- MACCST (R237). -/
def execMaccst (c : TileCmd) (s : State) : Out := .next (s.pushTile .maccst c)

/-- MACCLD (R238). -/
def execMaccld (c : TileCmd) (s : State) : Out := .next (s.pushTile .maccld c)

/-- MPACK (R239). -/
def execMpack (c : TileCmd) (s : State) : Out := .next (s.pushTile .mpack c)

/-- MXPOSE (R240). -/
def execMxpose (c : TileCmd) (s : State) : Out := .next (s.pushTile .mxpose c)

/-- MZERO (R241). -/
def execMzero (c : TileCmd) (s : State) : Out := .next (s.pushTile .mzero c)

/-! ## Tiles (R49, R166) -/

/-- Key of an element of a tile. -/
def accKey (t : Tile) (i j : Nat) : Nat := 1024 * t.toNat + 32 * i + j

/-- An element of a tile; one that nothing has written is zero. -/
def Core.elem (k : Core) (t : Tile) (i j : Nat) : A96 := (Table.find k.acc (accKey t i j)).getD A96.zero

/-- Write an element; an error in it is gone. -/
def Core.setElem (k : Core) (n : Nat) (a : A96) : Core :=
  { k with acc := if a = A96.zero then Table.erase k.acc n else Table.set k.acc n a, accBad := dropNat k.accBad n }

/-- The pairs (i, j) of a tile, row by row. -/
def cells : List (Nat × Nat) := (List.range 32).flatMap fun i => (List.range 32).map fun j => (i, j)

/-- Write every element of a tile. -/
def Core.setTile (k : Core) (t : Tile) (f : Nat → Nat → A96) : Core :=
  cells.foldl (fun k p => k.setElem (accKey t p.1 p.2) (f p.1 p.2)) k

/-- A tile, or one row of it, holds an element with an uncorrectable error. -/
def Core.tileBad (k : Core) (t : Tile) : Bool := k.accBad.any fun n => n / 1024 == t.toNat
def Core.rowBad (k : Core) (t : Tile) (i : Nat) : Bool := k.accBad.any fun n => n / 32 == 32 * t.toNat + i

/-! ## The commands (R236 to R241) -/

/-- The 32 words of plane j of a plane tile, and the elements of row r of p planes (R74, R164). -/
def State.planeRow (s : State) (loc p r : Nat) : List Int :=
  let w := (List.range p).map fun j => s.readMem (loc + 128 * j + 4 * r) 4
  (List.range 32).map fun k => signed p (w.foldr (fun x n => x / 2 ^ k % 2 + 2 * n) 0)

/-- The signed byte at a place. -/
def State.signedByte (s : State) (loc : Nat) : Int := signed 8 (s.readMem loc 1)

/-- The sum of products of two rows. -/
def dot : List Int → List Int → Int
  | a :: s, b :: t => a * b + dot s t
  | _, _ => 0

/-- One block product added to an element, with SCALEOVF counted (R168). -/
def mmaStep (d : A96 × Nat) (p e : Int) : A96 × Nat :=
  let r := d.1.addScaled p e
  (r.1, if r.2 then d.2 + 1 else d.2)

/-- The product of MMA and MMAZ from D (R236): row by row, the elements and the number of overflows. -/
def State.mmaRows (s : State) (l : Nat) (j : TileJob) (d : Nat → Nat → A96) : List (List (A96 × Nat)) :=
  let blocks := List.range j.kb
  let a := fun (b : Nat) => (List.range 32).map fun i => (s.planeRow (l + j.o1 + j.s1 * b) j.pa i, s.signedByte (l + j.o3 + 32 * b + i))
  let bt := fun (b : Nat) => (List.range 32).map fun i => (s.planeRow (l + j.o2 + j.s2 * b) j.pb i, s.signedByte (l + j.o4 + 32 * b + i))
  let as := blocks.map a
  let bs := blocks.map bt
  (List.range 32).map fun i => (List.range 32).map fun c =>
    (as.zip bs).foldl (fun x ab =>
      let ra := ab.1.getD i ([], 0)
      let rb := ab.2.getD c ([], 0)
      mmaStep x (dot ra.1 rb.1) (ra.2 + rb.2)) (d i c, 0)

/-- The bytes of row r of MACCST, with its scale byte, and the counts (R169, R237). -/
def maccstRow (j : TileJob) (row : List A96) : List Byte × List Byte × Counts :=
  let f := j.ofmt.toNat
  if f ≤ 2 then
    let q := row.map fun a => a.toIeee (miniFmt f) j.sat
    (q.flatMap fun x => (List.range (elemBits j.ofmt / 8)).map fun k => BitVec.ofNat 8 (x.1 / 256 ^ k), [],
      Counts.sum (q.map (·.2)))
  else
    let b := mxBlock f (row.map fun a => .fin a.ex)
    (b.1.map (BitVec.ofNat 8), [BitVec.ofNat 8 b.2.1], b.2.2)

/-- The 14 bytes of an A96 value (R166). -/
def A96.bytes (a : A96) : List Byte := (List.range 12).map (fun k => a.q.extractLsb' (8 * k) 8) ++ [a.x.extractLsb' 0 8, a.x.extractLsb' 8 8]

/-- The A96 value at a place. -/
def State.readA96 (s : State) (loc : Nat) : A96 := ⟨BitVec.ofNat 96 (s.readMem loc 12), BitVec.ofNat 16 (s.readMem (loc + 12) 2)⟩

/-- The codes of a row of 32 elements of a format at a place (R73). -/
def State.rowCodes (s : State) (loc : Nat) (f : BitVec 4) : List Nat :=
  (List.range 32).map fun k =>
    if elemBits f = 4 then s.readMem (loc + k / 2) 1 / 16 ^ (k % 2) % 16 else s.readMem (loc + elemBits f / 8 * k) (elemBits f / 8)

/-- Element (r, c) of a natural row tile. -/
def State.tileCode (s : State) (loc : Nat) (f : BitVec 4) (r c : Nat) : Nat :=
  if elemBits f = 4 then s.readMem (loc + 16 * r + c / 2) 1 / 16 ^ (c % 2) % 16
  else s.readMem (loc + (32 * r + c) * (elemBits f / 8)) (elemBits f / 8)

/-- The bytes of plane rows: q(r, k) of every row, by plane (R74). -/
def planeBytes (p : Nat) (rows : List (List Int)) : List Byte :=
  (List.range p).flatMap fun j => rows.flatMap fun row =>
    let w := row.foldr (fun q n => (lowBits p q / 2 ^ j % 2) + 2 * n) 0
    (List.range 4).map fun k => BitVec.ofNat 8 (w / 256 ^ k)

/-- The bytes of the transpose of a tile (R240). -/
def State.transposed (s : State) (loc : Nat) (j : TileJob) : List Byte :=
  if j.ifmt = 11#4 then
    (List.range j.pa).flatMap fun p =>
      let rows := (List.range 32).map fun r => s.readMem (loc + 128 * p + 4 * r) 4
      (List.range 32).flatMap fun c =>
        let w := rows.foldr (fun x n => x / 2 ^ c % 2 + 2 * n) 0
        (List.range 4).map fun k => BitVec.ofNat 8 (w / 256 ^ k)
  else (List.range 32).flatMap fun c =>
    if elemBits j.ifmt = 4 then
      (List.range 16).map fun r => BitVec.ofNat 8 (s.tileCode loc j.ifmt (2 * r) c + 16 * s.tileCode loc j.ifmt (2 * r + 1) c)
    else (List.range 32).flatMap fun r =>
      (List.range (elemBits j.ifmt / 8)).map fun k => BitVec.ofNat 8 (s.tileCode loc j.ifmt r c / 256 ^ k)

/-- Writes of a command to its core's local storage, in order. -/
def State.tileWrites (s : State) (l : Nat) (ws : List (Nat × List Byte)) : State :=
  ws.foldl (fun s w => (s.writeBytes (l + w.1) w.2).serveRange (l + w.1) w.2.length) s

/-- The parts of n bytes from an offset that lie in one 64-bit word each. -/
def wordParts (o : Nat) (b : List Byte) : List (Nat × List Byte) :=
  let first := 8 - o % 8
  (if b.isEmpty then [] else [(o, b.take first)]) ++
    (List.range ((b.length - first + 7) / 8)).map fun k => (o + first + 8 * k, (b.drop (first + 8 * k)).take 8)

/-- The counts of one counter. -/
def overflows (n : Nat) : Counts := ⟨0, 0, n, 0, 0⟩

/-- A command executes at a core: every input is read, as its local storage at l stands in r, before any output is written (R231, R236 to
R241). What becomes of the tiles, the writes to local storage by offset, and the counts. -/
def runTile (r : State) (k : Core) (l : Nat) (j : TileJob) : (Core → Core) × List (Nat × List Byte) × Counts :=
  let product := fun (dd : Nat → Nat → A96) =>
    let rows := r.mmaRows l j dd
    let at_ := fun (i c : Nat) => ((rows.getD i []).getD c (A96.zero, 0))
    ((Core.setTile · j.tile fun i c => (at_ i c).1), [], overflows ((rows.map fun r => (r.map (·.2)).sum).sum))
  match j.op with
  | .mma => product (k.elem j.tile)
  | .mmaz => product fun _ _ => A96.zero
  | .maccst =>
    if j.ofmt = 12#4 then
      (id, [(j.o1, cells.flatMap fun p => (k.elem j.tile p.1 p.2).bytes)], Counts.zero)
    else
      let rows := (List.range 32).map fun r => maccstRow j ((List.range 32).map fun c => k.elem j.tile r c)
      (id, (rows.zipIdx.map (fun (x, r) => (j.o1 + r * j.s1, x.1)) ++
        (if hasScale j.ofmt then [(j.o3, rows.flatMap (·.2.1))] else [])), Counts.sum (rows.map (·.2.2)))
  | .maccld =>
    ((Core.setTile · j.tile fun i c =>
      let a := r.readA96 (l + j.o1 + 14 * (32 * i + c))
      (round96 a.int a.exp).1), [], Counts.zero)
  | .mpack =>
    let rows := (List.range 32).map fun i =>
      let e := decodeBlock j.ifmt.toNat (r.rowCodes (l + j.o2 + i * j.s2) j.ifmt) (if hasScale j.ifmt then r.readMem (l + j.o4 + i) 1 else 127)
      let b := planeBlock j.pa (e.map (·.1))
      (b.1, b.2.1, b.2.2.add ⟨0, 0, 0, (e.filter (·.2)).length, 0⟩)
    (id, [(j.o1, planeBytes j.pa (rows.map (·.1))), (j.o3, rows.map fun r => BitVec.ofNat 8 (lowBits 8 r.2.1))],
      Counts.sum (rows.map (·.2.2)))
  | .mxpose => (id, [(j.o1, r.transposed (l + j.o2) j)], Counts.zero)
  | .mzero => ((Core.setTile · j.tile fun _ _ => A96.zero), [], Counts.zero)

/-- The ranges of local storage that a command reads, and whether it reads its tile (R245). -/
def TileJob.inputs (j : TileJob) : List (Nat × Nat) :=
  match j.op with
  | .mma | .mmaz =>
    (List.range j.kb).flatMap fun b => [(j.o1 + j.s1 * b, 128 * j.pa), (j.o2 + j.s2 * b, 128 * j.pb), (j.o3 + 32 * b, 32), (j.o4 + 32 * b, 32)]
  | .maccld => [(j.o1, 14336)]
  | .mpack => (List.range 32).map (fun r => (j.o2 + r * j.s2, naturalStride j.ifmt)) ++ (if hasScale j.ifmt then [(j.o4, 32)] else [])
  | .mxpose => [(j.o2, if j.ifmt = 11#4 then 128 * j.pa else 32 * naturalStride j.ifmt)]
  | .maccst | .mzero => []
def TileJob.readsTile (j : TileJob) : Bool :=
  match j.op with
  | .mma | .maccst => true
  | _ => false

/-- The offsets of the 64-bit words that a command reads, in ascending operand order. -/
def TileJob.words (j : TileJob) : List Nat :=
  j.inputs.flatMap fun p => (List.range ((p.1 % 8 + p.2 + 7) / 8)).map fun k => p.1 - p.1 % 8 + 8 * k

/-- The command reads the words of some numbers now: each of them once, and a sound one (R140). -/
def State.tileReads (s : State) (l : Nat) (j : TileJob) (part : List Nat) : TileJob :=
  part.foldl (fun j n => match j.words[n]? with
    | some o => if (Table.find j.got o).isSome || s.poisoned (l + o) 8 then j else { j with got := Table.set j.got o (s.readWord (l + o)) }
    | none => j) j

/-- Local storage as a command has read it: the words read before, and the rest as they stand. -/
def State.asRead (s : State) (l : Nat) (j : TileJob) : State := j.got.foldl (fun s p => s.writeWord (l + p.1) p.2) s

/-- A command computes, its reads complete (R236 to R241), or finds poisoned input and has no effect (R245); its writes are to come, by word
(R140). -/
def State.tileComputes (s : State) (d v : Nat) (j : TileJob) : State × TileJob × Nat :=
  match j.out with
  | some _ => (s, j, 0)
  | none =>
    let l := lsLoc d v 0
    let k := s.core d v
    let seen := s.asRead l j
    if j.inputs.any (fun p => seen.poisoned (l + p.1) p.2) || j.readsTile && k.tileBad j.tile then
      (s, { j with out := some ([], Counts.zero) }, 1)
    else
      let r := runTile seen k l j
      (s.setCore d v (r.1 k), { j with out := some (r.2.1.flatMap fun w => wordParts w.1 w.2, r.2.2) }, 0)

/-- VMOVA's row at the head of the queue (R223): the lanes and the counts. A lane whose element has an uncorrectable error is a
free value (DESIGN CHOICE, log entry 18). -/
def State.movaRow (s : State) (k : Core) (ty : VTy) (t : Tile) (i : Nat) : VWord × Counts :=
  let r := (List.range 32).map fun j =>
    if hasNat k.accBad (accKey t i j) then ((Config.freeWord (s.free + j)).toNat % 2 ^ ty.width, Counts.zero)
    else (k.elem t i j).toIeee (VTy.fmt ty) false
  (ofLanes ty.width (r.map (·.1)), Counts.sum (r.map (·.2)))

/-- Lane j of VMOVAW as A96 (R224). -/
def movawLane (ty : VTy) (a : Nat) : A96 × Counts :=
  if ty.isFloat then
    match (VTy.fmt ty).decode a with
    | .nan _ => (A96.zero, Counts.nanOnce)
    | .inf neg => (if neg then A96.mk' (-(2 ^ 95)) 32767 else A96.mk' (2 ^ 95 - 1) 32767, Counts.satOnce)
    | .fin x => ((round96 (if x.neg then -(x.n : Int) else x.n) x.e).1, Counts.zero)
  else ((round96 (signed ty.width a) 0).1, Counts.zero)

/-- The writes of a command that are made now and those that stay: writes to one word keep their order, so that the scale bytes and exponents of a
command come last where they overlap (R237, R239). `held` lists the words of those that stay. -/
def tileSplit (now : Nat → Bool) (i : Nat) (held : List Nat) : List (Nat × List Byte) → List (Nat × List Byte) × List (Nat × List Byte)
  | [] => ([], [])
  | w :: t =>
    if now i && !held.contains (w.1 / 8) then
      let r := tileSplit now (i + 1) held t
      (w :: r.1, r.2)
    else
      let r := tileSplit now (i + 1) (w.1 / 8 :: held) t
      (r.1, w :: r.2)

/-- The head of a core's matrix queue executes and frees its place (R233), once what its thread had outstanding has been performed; with a
part named, it reads those of its words, or writes those of its writes (R140). -/
def State.runHead (s : State) (d v : Nat) : State :=
  let k := s.core d v
  match k.mq with
  | [] => s
  | .tile j :: t =>
    let l := lsLoc d v 0
    let n := j.words.length
    let back := fun (s : State) (j : TileJob) => s.modCore d v fun k => { k with mq := .tile j :: t }
    if !j.stores.isEmpty || j.split then s
    else if s.cur.part ≠ [] && j.out.isNone && s.cur.part.all (· < n) then back s (s.tileReads l j s.cur.part)
    else
      let (s, j, st) := s.tileComputes d v j
      let (ws, c) := j.out.getD ([], Counts.zero)
      let now := fun (i : Nat) => s.cur.part == [] || s.cur.part.contains (n + i)
      let r := tileSplit now 0 [] ws
      let s := s.tileWrites l r.1
      match r.2 with
      | [] => s.modCore d v fun k => { k with mq := t, mdone := k.mdone ++ [⟨j.cid, j.ctrap, j.xd, j.op, st, c⟩] }
      | ws => back s { j with out := some (ws, c) }
  | .mova cid ty vd tile i :: t =>
    let r := s.movaRow k ty tile i
    let s := s.setCore d v { k with mq := t, vq := k.vq ++ [.row cid vd r.1 r.2] }
    if k.rowBad tile i then { s with free := s.free + 32 } else s
  | .movaw cid ty tile i vs :: t =>
    let r := (List.range 32).map fun j => movawLane ty (lane ty.width vs j)
    let k := { k with mq := t, vq := k.vq ++ [.counts cid (Counts.sum (r.map (·.2)))] }
    s.setCore d v (r.zipIdx.foldl (fun k (x, j) => k.setElem (accKey tile i j) x.1) k)

/-- TILE_COMMAND_EXECUTION (R233). -/
def execTileCommandExecution (s : State) : Out := .next (s.runHead s.cur.dev s.cur.vcn)

/-- The op code of w0[24:20] (R65). -/
def tileOpCode : TileOp → Nat
  | .mma => 1 | .mmaz => 2 | .maccst => 3 | .maccld => 4 | .mpack => 5 | .mxpose => 6 | .mzero => 7

/-- The completion word (R234). -/
def TileDone.word (t : TileDone) : Word :=
  let f := fun (w n : Nat) => BitVec.ofNat w (min (2 ^ w - 1) n)
  BitVec.ofNat 8 t.status ++ BitVec.ofNat 8 (tileOpCode t.op) ++ f 16 t.counts.sat ++ f 12 t.counts.nan ++ f 12 t.counts.ovf
    ++ f 8 t.counts.fmt

/-- The counts are added, a crossing is marked, and xd is filled, in a single step (R234, R243, R244). -/
def Ctx.completeTile (c : Ctx) (t : TileDone) : Ctx :=
  let x := if t.ctrap then (crossing c.mcnt c.mthr t.counts).map (BitVec.ofNat 8) else none
  ({ c with mcnt := addCounts c.mcnt t.counts, mcp := match x with | some n => some n | none => c.mcp } : Ctx).setX t.xd t.word

/-- TILE_COMMAND_COMPLETION (R234). -/
def execTileCommandCompletion (s : State) : Out :=
  .next (match s.here.mdone with
    | [] => s
    | t :: r =>
      let s := s.onCore fun k => { k with mdone := r }
      if t.cid = noCid then s else s.modCtx s.cur.dev t.cid fun c => c.completeTile t)

end Sys2Proof.Machine
end

