-- ==== Sys2Proof/Machine/CopyHart.lean ====
section
/-! DEFINITION. The copy harts: acceptance, promises and tags, the eight commands, completion, and the completion check of WAITP
(R41 to R44, R92 to R94, R115 to R129, R189). -/

namespace Sys2Proof.Machine

/-! ## Accesses of an engine -/

/-- The outcome of one access of an engine. -/
inductive Got (α : Type) where
  | ok (a : α)
  /-- Refused: a trap cause and its subcode. -/
  | fault (cause sub : Nat)
  /-- Held at its home (R41, R358): the engine tries again. -/
  | wait

/-- An access of a part of a device and its answer take a flit each way, unless the part is the home (R337). -/
def State.trip (s : State) (who : Issuer) (loc : Nat) : State :=
  let a := coreKey who.dev who.vcn
  let b := coreKey (locDev loc) (homePart loc)
  if a = b then s else s.flits [(a, b), (b, a)] 1

/-- The flits of a read of an engine (R337). -/
def State.readTrip (s : State) (d : Nat) (who : Issuer) (va : VA) : State :=
  match s.resolveAt d who va .readOnly 8 false with
  | .ok t => s.trip who t.loc
  | .error _ => s

/-- The flits of the reads of n words. -/
def State.wordsTrip (s : State) (d : Nat) (who : Issuer) (va : VA) (n : Nat) : State :=
  (List.range n).foldl (fun s k => s.readTrip d who (vaAdd va (8 * k))) s

/-- An engine reads n bytes within a word (R26: never engine space). -/
def State.engRead (s : State) (d : Nat) (who : Issuer) (va : VA) (n : Nat) : Got Nat :=
  match s.resolveAt d who va .readOnly n false with
  | .error f => if f = walkHeld then .wait else .fault f.1 f.2
  | .ok t =>
    let r : Req := ⟨who, d, va, some t.loc, t.feOk, .load n false, .nowhere⟩
    match s.refusal r t.loc with
    | some c => .fault 0x05 c
    | none =>
      if (s.moveHolds r t.loc).isSome then .wait
      else .ok (if s.isHeader 1 t.loc then 0 else s.readMem (s.atPort t.loc) n)

/-- An engine reads n bytes of at most a word's length, which may cross into the next word. -/
def State.engBytes (s : State) (d : Nat) (who : Issuer) (va : VA) (n : Nat) : Got Nat :=
  let p := 8 - va.toNat % 8
  if n ≤ p then s.engRead d who va n
  else match s.engRead d who va p, s.engRead d who (vaAdd va p) (n - p) with
    | .ok a, .ok b => .ok (a + 2 ^ (8 * p) * b)
    | .fault c b, _ => .fault c b
    | _, .fault c b => .fault c b
    | _, _ => .wait

/-- An engine's access that writes, at its home: refused, held there, or performed. -/
def State.engHome (s : State) (r : Req) (loc : Nat) : Got State :=
  match s.refusal r loc with
  | some c => .fault 0x05 c
  | none =>
    if (s.moveHolds r loc).isSome || (s.ckpt loc).isNone then .wait
    else .ok ((s.homeCore r loc false).trip r.who loc)

/-- An engine performs an access that writes. -/
def State.engDo (s : State) (d : Nat) (who : Issuer) (va : VA) (a : Acc) (p : Perm) : Got State :=
  match s.resolveAt d who va p a.width false with
  | .error f => if f = walkHeld then .wait else .fault f.1 f.2
  | .ok t => s.engHome ⟨who, d, va, some t.loc, t.feOk, a, .nowhere⟩ t.loc

/-- An engine writes n bytes within a word. -/
def State.engWrite (s : State) (d : Nat) (who : Issuer) (va : VA) (n v : Nat) : Got State :=
  s.engDo d who va (.store n (BitVec.ofNat 64 v)) .writeOnly

/-- An answer leaves a part of a device. -/
def State.reply (s : State) (v : Nat) (who : Issuer) (a : Ans) : State := s.send (.ans (coreKey who.dev v) who .reply a)

/-! ## Fields of a command block (R116, R118) -/

/-- Dword k. -/
def dw (b : List Word) (k : Nat) : Word := b.getD k 0

/-- The type. -/
def blkType (b : List Word) : Nat := ((dw b 0).extractLsb' 0 4).toNat

/-- A whole VA: window byte at a bit of d0, and dword k. -/
def blkVa (b : List Word) (lo k : Nat) : VA := (dw b 0).extractLsb' lo 8 ++ dw b k

/-- LEN, and the fields of PAT for a COPY. -/
def blkLen (b : List Word) : Nat := ((dw b 3).extractLsb' 0 40).toNat
def blkRows (b : List Word) : Nat := max 1 ((dw b 4).extractLsb' 40 20).toNat
def blkSStride (b : List Word) : Nat := ((dw b 4).extractLsb' 20 20).toNat
def blkDStride (b : List Word) : Nat := ((dw b 4).extractLsb' 0 20).toNat

/-- COUNT and LIMIT of a GATHER. -/
def blkCount (b : List Word) : Nat := ((dw b 4).extractLsb' 0 32).toNat
def blkLimit (b : List Word) : Nat := ((dw b 4).extractLsb' 32 32).toNat

/-- ROWLEN, K and BAGS of a POOL. -/
def blkRowLen (b : List Word) : Nat := ((dw b 4).extractLsb' 0 16).toNat
def blkK (b : List Word) : Nat := ((dw b 4).extractLsb' 16 16).toNat
def blkBags (b : List Word) : Nat := ((dw b 4).extractLsb' 32 32).toNat

/-- A field that R116 or R118 fixes does not hold its value (R117; DEDUCED, log entry 25). -/
def blkBad (b : List Word) : Bool :=
  let t := blkType b
  let aux := t != 2 && t != 3 && dw b 7 != 0
  decide (7 < t) || (dw b 0).extractLsb' 48 16 != 0#16 || (dw b 0).extractLsb' 4 4 != 0#4 || (dw b 3).extractLsb' 40 24 != 0#24
    || aux
    || match t with
      | 0 => (dw b 4).extractLsb' 60 4 != 0#4
      | 4 => (dw b 0).extractLsb' 16 8 != 0#8 || dw b 2 &&& ~~~0x000FFFFFFFFF0300#64 != 0 || dw b 3 != 0
          || (dw b 4).extractLsb' 8 56 != 0#56
      | 5 => (dw b 0).extractLsb' 16 8 != 0#8 || (dw b 2).extractLsb' 30 34 != 0#34
      | 6 => (dw b 0).extractLsb' 8 8 != 0#8 || dw b 1 != 0
      | 7 => (dw b 0).extractLsb' 16 8 != 0#8 || (dw b 2).extractLsb' 12 52 != 0#52 || dw b 3 != 256
      | _ => false

/-! ## Promises and tags (R127, R128, R328) -/

/-- The nominal router of a part (R328). -/
def nominalRouter (v : Nat) : Nat × Nat :=
  if v < 4608 then
    let c := v / 192
    let i := v % 192
    (10 * (c % 6) + i % 10, 20 * (c / 6) + i / 10)
  else
    let c := clusterOf v
    let r := if v < 4704 then 13 * (c % 6) + (v - 4608) % 4
      else if v < 4728 then 13 * (c % 6) + 4
      else if v < 4920 then 13 * (c % 6) + 5 + (v - 4728) % 8
      else 78
    (60 + r % 4, 20 * (c / 6) + r / 4)

/-- Distance on a ring. -/
def ringDist (n a b : Nat) : Nat := min ((a + n - b) % n) ((b + n - a) % n)

/-- The hop count of two parts (R328). -/
def hops (a b : Nat) : Nat :=
  let p := nominalRouter a
  let q := nominalRouter b
  ringDist 64 p.1 q.1 + ringDist 80 p.2 q.2

/-- Copy hart h of a device, by index. -/
def Device.copyHart (v : Device) (h : Nat) : CopyHart := (Table.find v.copy h).getD CopyHart.reset

/-- Change a copy hart. -/
def State.modCopy (s : State) (d h : Nat) (f : CopyHart → CopyHart) : State :=
  s.modDev d fun v => { v with copy := Table.set v.copy h (f (v.copyHart h)) }

/-- The VCN of a copy hart. -/
def copyVcn (h : Nat) : Nat := 4608 + h

/-- Whether the command of a 9-bit count is complete (R128). -/
def CopyHart.complete (c : CopyHart) (tag : Nat) : Bool :=
  let back := (c.accepted + 511 - tag % 512) % 512
  decide (back + 1 ≤ c.accepted) && decide (c.accepted - 1 - back < c.completed)

/-- The absolute form of a relative local-storage VA (R116). -/
def absVa (va : VA) (vcn : Nat) : VA :=
  if va.extractLsb' 68 4 = 0x9#4 then
    match lsCore va vcn with
    | .ok v => match meshOf v with
      | some (x, y) => 0x8#4 ++ 0#37 ++ BitVec.ofNat 6 y ++ BitVec.ofNat 7 x ++ va.extractLsb' 0 18
      | none => va
    | .error _ => va
  else va

/-- The leaf of tenant t that maps the page holding a VA, of any tier (R120). -/
def State.leafOf (s : State) (d t : Nat) (va : VA) : Except VaFault (Word × Nat × Nat) :=
  if va.getLsbD 71 then .error (0x03, 1)
  else match s.rootOf d t with
    | .error f => .error f
    | .ok root => s.walkFrom d (va.toNat % 2 ^ 71) true [0, 1, 2, 3, 4] root

/-- B of R127; that of a MIGRATE whose page no leaf maps at the acceptance, of which the spec says only 'page size', is 0 (DESIGN
CHOICE, log entry 75). -/
def State.blkBytes (s : State) (d : Nat) (b : List Word) : Nat :=
  match blkType b with
  | 0 => blkLen b * blkRows b
  | 2 => blkCount b * blkLen b
  | 3 => blkBags b * blkK b * (4 * blkRowLen b + 8)
  | 4 => match s.leafOf d ((dw b 4).extractLsb' 0 8).toNat (blkVa b 8 1) with
    | .ok (_, _, bits) => 2 ^ bits
    | .error _ => 0
  | 7 => 256
  | _ => blkLen b

/-! ## Acceptance (R115 to R117, R127) -/

/-- A word that an answer reports as a trap's tval. -/
def trapAns (cause : Nat) (tval : Word) (sub : Nat) (vahi : Byte) : Ans := .trap cause tval sub 0 vahi

/-- The mailbox or the barrier may be written by the issuer (R117); none is the whole VA 0. -/
def State.mayWrite (s : State) (who : Issuer) (va : VA) (p : Perm) : Option Ans :=
  if va = 0#72 then none
  else match s.resolveAt who.dev who va p 8 false with
    | .error f => some (trapAns f.1 (va.extractLsb' 0 64) f.2 (va.extractLsb' 64 8))
    | .ok t =>
      if regionOf t.loc = .ls ∧ lsVcn t.loc ≠ who.vcn ∧ !who.sup ∧ (s.core who.dev (lsVcn t.loc)).tenant ≠ some who.tenant then
        some (trapAns 0x05 (va.extractLsb' 0 64) 2 (va.extractLsb' 64 8))
      else none

/-- The checks of R117 on a block: the answer that traps, if one fails. -/
def State.blkFault (s : State) (who : Issuer) (va : VA) (b : List Word) : Option Ans :=
  let tv := va.extractLsb' 0 64
  let mb := blkVa b 24 5
  let bar := blkVa b 32 6
  if blkBad b || ((blkType b == 4 || blkType b == 7) && !who.sup) then some (trapAns 0x00 tv 0 0)
  else if mb.toNat % 16 ≠ 0 then some (trapAns 0x02 (mb.extractLsb' 0 64) 0 (mb.extractLsb' 64 8))
  else if bar.toNat % 8 ≠ 0 then some (trapAns 0x02 (bar.extractLsb' 0 64) 0 (bar.extractLsb' 64 8))
  else match s.mayWrite who mb .sync with
    | some a => some a
    | none => s.mayWrite who bar .writeOnly

/-- The walks that the acceptance of a block needs meet a home that holds an entry (R38, R41). -/
def State.blkHeld (s : State) (who : Issuer) (b : List Word) : Bool :=
  let held := fun (va : VA) (p : Perm) => va != 0#72 && (match s.resolveAt who.dev who va p 8 false with
    | .error f => f == walkHeld
    | .ok _ => false)
  held (blkVa b 24 5) .sync || held (blkVa b 32 6) .writeOnly
    || blkType b == 4 && (match s.leafOf who.dev ((dw b 4).extractLsb' 0 8).toNat (blkVa b 8 1) with
      | .error f => f == walkHeld
      | .ok _ => false)

/-- The dwords of a block from dword k on, as ordinary loads at their homes: a refusal traps with its own address (R115, R336). -/
def State.blkRead (s : State) (who : Issuer) (loc : Nat) (va : VA) (k : Nat) : Nat → Got (Except Ans (List Word))
  | 0 => .ok (.ok [])
  | n + 1 =>
    let l := loc + 8 * k
    let a := vaAdd va (8 * k)
    let r : Req := ⟨who, who.dev, a, some l, false, .load 8 false, .nowhere⟩
    match s.refusal r l with
    | some c => .ok (.error (trapAns 0x05 (a.extractLsb' 0 64) c (a.extractLsb' 64 8)))
    | none =>
      if (s.moveHolds r l).isSome then .wait
      else match s.blkRead who loc va (k + 1) n with
        | .ok (.ok b) => .ok (.ok (s.seen r (s.atPort l) :: b))
        | g => g

/-- A copy hart takes up a CPYQ with a place free: the state and the answer, or none while a home holds a dword of the block (R115, R117,
R127). The count in the tag is the one before its increase, so the first command has count 0: the spec says only that each acceptance
increases it (R128; DESIGN CHOICE, log entry 76). -/
def State.acceptCopy (s : State) (who : Issuer) (h loc : Nat) (va : VA) : Option (State × Ans) :=
  let d := who.dev
  if (s.core d (copyVcn h)).failed then some (s, .nack 3)
  else match s.blkRead who loc va 0 8 with
    | .wait | .fault _ _ => none
    | .ok (.error a) => some (s, a)
    | .ok (.ok b) =>
      if s.blkHeld who b then none
      else match s.blkFault who va b with
        | some a => some (s, a)
        | none =>
          let c := (s.dev d).copyHart h
          let bytes := s.blkBytes d b
          let ahead := c.queue.foldl (fun a q => a + q.bytes) 0
          let margin := (s.core d who.vcn).cpymargin.toNat % 2 ^ 32
          let prom := (s.dev d).cycle + 180 + (ahead + bytes + 182) / 183 + 2 * hops (copyVcn h) who.vcn + 64 * c.queue.length + margin
          let tag := BitVec.ofNat 7 h ++ BitVec.ofNat 9 c.accepted
          let cmd : CopyCmd := ⟨who, b, absVa (blkVa b 8 1) who.vcn, absVa (blkVa b 16 2) who.vcn, absVa (blkVa b 24 5) who.vcn,
            absVa (blkVa b 32 6) who.vcn, absVa (blkVa b 40 7) who.vcn, tag, bytes⟩
          some ((s.trip { who with vcn := copyVcn h } loc).modCopy d h fun c => { c with queue := c.queue ++ [cmd], accepted := c.accepted + 1 },
            .vals [tag ++ BitVec.ofNat 48 prom])

/-- A CPYQ reaches its copy hart (R117): it is answered, waits at a full queue, or stays on its way while a home holds its block. -/
def State.serveCpyq (s : State) (who : Issuer) (xc : Word) (loc : Nat) (va : VA) : State :=
  let h := xc.toNat - 4608
  let c := (s.dev who.dev).copyHart h
  if xc.toNat < 4608 ∨ 4703 < xc.toNat then s.reply gatewayVcn who (trapAns 0x00 xc 0 0)
  else if 32 ≤ c.queue.length ∨ c.full ≠ [] then s.modCopy who.dev h fun c => { c with full := c.full ++ [(who, .cpyq xc loc va)] }
  else match s.acceptCopy who h loc va with
    | some (s', a) => s'.reply (copyVcn h) who a
    | none => { s with net := s.net ++ [.eng who (.cpyq xc loc va)] }

/-- The commands that wait for a place are taken up in arrival order. -/
def State.takeWaiting (s : State) (d h : Nat) : Nat → State
  | 0 => s
  | n + 1 =>
    let c := (s.dev d).copyHart h
    match c.full with
    | (who, .cpyq _ loc va) :: t =>
      if 32 ≤ c.queue.length then s
      else match s.acceptCopy who h loc va with
        | some (s', a) => ((s'.modCopy d h fun c => { c with full := t }).reply (copyVcn h) who a).takeWaiting d h n
        | none => s
    | _ => s

/-- At the end of a move each copy hart takes up what waits for a place. -/
def State.copySettle (s : State) : State :=
  s.devs.foldl (fun s p => p.2.copy.foldl (fun s q => s.takeWaiting p.1 q.1 q.2.full.length) s) s

/-- The completion check of WAITP (R128, R129). -/
def State.serveWaitp (s : State) (who : Issuer) (t : Word) : State :=
  let tag := (t.extractLsb' 48 16).toNat
  let ok := ((s.dev who.dev).copyHart (tag / 512)).complete tag
  s.reply (copyVcn (tag / 512)) who (if ok then .vals [] else trapAns 0x07 t 0 0)

/-! ## Completion (R124 to R126) -/

/-- The issuer of a hart's accesses: that of the command, at the hart. -/
def CopyCmd.issuer (c : CopyCmd) (h : Nat) : Issuer := { c.who with vcn := copyVcn h }

/-- The command at the head of a hart ends, every write of it being acknowledged: its completion begins (R124). -/
def State.finishCopy (s : State) (d h : Nat) (_c : CopyCmd) (status moved : Nat) (detail : Word) : State :=
  s.modCopy d h fun q => { q with ending := some ⟨status, moved, detail, 0⟩ }

/-- The detail word of a fault (R124). -/
def faultDetail (side cause sub : Nat) : Word := BitVec.ofNat 8 cause ++ BitVec.ofNat 4 side ++ 0#4 ++ BitVec.ofNat 8 sub ++ 0#40

/-- A command stops on a fault: SRC-FAULT or DST-FAULT. -/
def State.faultCopy (s : State) (d h : Nat) (c : CopyCmd) (moved side cause sub : Nat) : State :=
  s.finishCopy d h c (1 + side) moved (faultDetail side cause sub)

/-- A hart issues an access that writes, for byte `off` of its command: it is acknowledged or refused later (R123). `flit` says whether a flit of
its own goes with it (R337). -/
def State.copySend (s : State) (d h : Nat) (r : Req) (off : Nat) (flit : Bool) : State :=
  (s.modCopy d h fun q => { q with out := q.out ++ [(off, r.va)] }).send (.req { r with route := .copy off flit })

/-- Bytes off to off + n of a command's data begin a flit: 64 bytes share one (R337). -/
def carries (off n : Nat) : Bool := decide ((off + 63) / 64 * 64 < off + n)

/-- A hart has a write outstanding to a word of the n bytes at a VA, which its next access of the word waits for (R98, R138). -/
def CopyHart.awaits (q : CopyHart) (va : VA) (n : Nat) : Bool :=
  q.out.any fun o => sameWord o.2 va || sameWord o.2 (vaAdd va (n - 1))

/-- A hart reads n bytes of at most a word's length (R98, R123). -/
def State.hartRead (s : State) (d h : Nat) (who : Issuer) (va : VA) (n : Nat) : Got Nat :=
  if ((s.dev d).copyHart h).awaits va n then .wait else s.engBytes d who va n

/-- One access of the completion: issued; passed over when its translation faults, which loses it; or not yet. -/
def State.endAccess (s : State) (d h : Nat) (who : Issuer) (va : VA) (a : Acc) (p : Perm) (e : Ending) : State :=
  let next := fun (s : State) => s.modCopy d h fun q => { q with ending := some { e with stage := e.stage + 1 } }
  match s.resolveAt d who va p a.width false with
  | .error f => if f = walkHeld then s else next s
  | .ok t => next (s.copySend d h ⟨who, d, va, some t.loc, t.feOk, a, .nowhere⟩ 0 true)

/-- One step of a completion (R124, R125): the detail word, the status word, the barrier, and then the tag and the next command. Each
step begins when the one before it is acknowledged or refused. -/
def State.endStep (s : State) (d h : Nat) (c : CopyCmd) (e : Ending) : State :=
  let who := c.issuer h
  let skip := s.modCopy d h fun q => { q with ending := some { e with stage := e.stage + 1 } }
  match e.stage with
  | 0 => if c.mb = 0#72 then skip else s.endAccess d h who (vaAdd c.mb 8) (.store 8 e.detail) .write e
  | 1 =>
    if c.mb = 0#72 then skip
    else s.endAccess d h who c.mb (.stff (c.tag ++ BitVec.ofNat 8 e.status ++ BitVec.ofNat 40 e.moved)) .sync e
  | 2 => if c.bar = 0#72 then skip else s.endAccess d h who c.bar (.bararv (e.status != 0)) .amo e
  | _ =>
    s.modCopy d h fun q =>
      { CopyHart.reset with queue := q.queue.tail, full := q.full, accepted := q.accepted, completed := q.completed + 1 }

/-- What stops a command at a byte: the lowest byte in unit order counts (R124). -/
def CopyHart.stop (q : CopyHart) (off side cause sub : Nat) : CopyHart :=
  { q with bad := match q.bad with
      | some b => if b.1 ≤ off then some b else some (off, side, cause, sub)
      | none => some (off, side, cause, sub) }

/-- The answer of a hart's write lands (R123, R124): a refusal stops the command; one of the completion is lost. -/
def State.copyAnswered (s : State) (who : Issuer) (off : Nat) (a : Ans) : State :=
  s.modCopy who.dev (who.vcn - 4608) fun q =>
    let q := { q with out := q.out.eraseP fun o => o.1 == off }
    match a with
    | .nack n => if q.ending.isSome then q else q.stop off 1 0x05 n
    | _ => q

/-- Bytes in unit order of a command, and MOVED at a byte of it (R118, R124). -/
def CopyCmd.total (c : CopyCmd) : Nat :=
  match blkType c.blk with
  | 0 => blkLen c.blk * blkRows c.blk
  | 2 => blkCount c.blk * blkLen c.blk
  | 3 => 4 * blkRowLen c.blk * blkBags c.blk
  | _ => blkLen c.blk
def CopyCmd.movedAt (c : CopyCmd) (off : Nat) : Nat :=
  match blkType c.blk with
  | 2 => off / blkLen c.blk
  | 3 => off / (4 * blkRowLen c.blk)
  | _ => off

/-- The running command of a hart, when it has a given type: a step of its completion, the end that is due once no write of it is
outstanding, or what `k` does. -/
def State.running (s : State) (h t : Nat) (k : CopyCmd → CopyHart → State) : Out :=
  let q := s.device.copyHart h
  .next (match q.queue with
    | c :: _ =>
      if blkType c.blk ≠ t ∨ 96 ≤ h ∨ (s.core s.cur.dev (copyVcn h)).failed then s
      else match q.ending, q.bad with
        | some e, _ => if q.out = [] then s.endStep s.cur.dev h c e else s
        | none, some (off, side, cause, sub) =>
          if q.out ≠ [] then s
          else s.finishCopy s.cur.dev h c (1 + side) (c.movedAt off) (if side ≤ 1 then faultDetail side cause sub else 0)
        | none, none => k c q
    | [] => s)

/-- A command whose every unit has been issued ends once the writes are acknowledged; else `k` goes on. -/
def State.untilDone (s : State) (d h : Nat) (c : CopyCmd) (q : CopyHart) (k : State) : State :=
  if q.moved < c.total then k
  else if q.out = [] then s.finishCopy d h c 0 (c.movedAt c.total) 0 else s

/-! ## COPY, DEAL, GATHER, FILL (R92 to R94, R118, R123) -/

/-- The parts of n bytes at a VA that lie within a word each, n at most 8: offset, VA, bytes. -/
def pieces (va : VA) (n : Nat) : List (Nat × VA × Nat) :=
  let p := min n (8 - va.toNat % 8)
  if p = n then [(0, va, n)] else [(0, va, p), (p, vaAdd va p, n - p)]

/-- A hart writes a value in pieces, as bytes `off` on of its command: an ordinary store each (R123). -/
def State.copyPost (s : State) (d h : Nat) (who : Issuer) (off v : Nat) : List (Nat × VA × Nat) → State
  | [] => s
  | (o, va, n) :: t =>
    match s.resolveAt d who va .writeOnly n false with
    | .error f => s.modCopy d h (·.stop (off + o) 1 f.1 f.2)
    | .ok g =>
      let r : Req := ⟨who, d, va, some g.loc, g.feOk, .store n (BitVec.ofNat 64 (v / 2 ^ (8 * o) % 2 ^ (8 * n))), .nowhere⟩
      ((s.copySend d h r (off + o) (carries (off + o) n)).modCopy d h fun q => { q with moved := off + o + n }).copyPost d h who off v t

/-- A piece cannot be written yet: the walk for it waits (R38, R41), or an earlier write of the hart to its word is outstanding (R98). -/
def State.pieceHeld (s : State) (d h : Nat) (who : Issuer) (p : Nat × VA × Nat) : Bool :=
  ((s.dev d).copyHart h).awaits p.2.1 p.2.2 || match s.resolveAt d who p.2.1 .writeOnly p.2.2 false with
  | .error f => f == walkHeld
  | .ok _ => false

/-- How a command reads and writes: the value of the unit at a byte in unit order, the flits of that read, its length, and where it goes. -/
structure CopyPlan where
  read : State → Nat → Nat → Got Nat
  trip : State → Nat → State
  cut : Nat → Nat
  dst : Nat → VA

/-- A hart issues up to k more units in unit order; each reads one word of the source, and one that has been read ahead is taken as it was
(R118, R123) (DEDUCED, log entry 13). -/
def State.issueRun (s : State) (d h : Nat) (c : CopyCmd) (p : CopyPlan) : Nat → State
  | 0 => s
  | k + 1 =>
    let q := (s.dev d).copyHart h
    let m := q.moved
    if q.bad.isSome || decide (c.total ≤ m) then s
    else
      let n := p.cut m
      let ps := pieces (p.dst m) n
      if ps.any (s.pieceHeld d h (c.issuer h)) then s
      else match (match Table.find q.pre m with | some v => Got.ok v | none => p.read s m n) with
        | .wait => s
        | .fault a b => s.modCopy d h (·.stop m 0 a b)
        | .ok v =>
          let s := if (Table.find q.pre m).isSome then s else p.trip s m
          ((s.modCopy d h fun q => { q with pre := Table.erase q.pre m }).copyPost d h (c.issuer h) m v ps).issueRun d h c p k

/-- A hart reads units ahead, in any order (R123). -/
def State.readAhead (s : State) (d h : Nat) (p : CopyPlan) (ok : Nat → Bool) : List Nat → State
  | [] => s
  | m :: t =>
    match (if ok m then p.read s m (p.cut m) else .wait) with
    | .ok v => ((p.trip s m).modCopy d h fun q => { q with pre := Table.set q.pre m v }).readAhead d h p ok t
    | _ => s.readAhead d h p ok t

/-- An event of a copy: reads ahead of the units that the move names, or up to k more units. -/
def State.copyUnits (s : State) (d h : Nat) (c : CopyCmd) (q : CopyHart) (p : CopyPlan) (k : Nat) : State :=
  if s.cur.part = [] then s.issueRun d h c p k
  else s.readAhead d h p (fun m => decide (q.moved ≤ m) && decide (m < c.total)) s.cur.part

/-- A plan that reads the source byte at `src m`, for bytes that run on for `run m` at both ends. -/
def CopyCmd.plan (c : CopyCmd) (d h : Nat) (src dst : Nat → VA) (run : Nat → Nat) : CopyPlan where
  read := fun s m n => s.hartRead d h (c.issuer h) (src m) n
  trip := fun s m => if carries m (min (8 - (src m).toNat % 8) (run m)) then s.readTrip d (c.issuer h) (src m) else s
  cut := fun m => min (8 - (src m).toNat % 8) (run m)
  dst := dst

/-- The spans of a COPY overlap. -/
def CopyCmd.overlaps (c : CopyCmd) : Bool :=
  let b := c.blk
  let a := (c.src.extractLsb' 0 64).toNat
  let e := (c.dst.extractLsb' 0 64).toNat
  let n := blkRows b - 1
  c.src.extractLsb' 64 8 == c.dst.extractLsb' 64 8 && decide (a < e + n * blkDStride b + blkLen b)
    && decide (e < a + n * blkSStride b + blkLen b)

/-- COPY (R118): up to k more words of the source. -/
def execCopy (hart k : Nat) (s : State) : Out :=
  s.running hart 0 fun c q =>
    let d := s.cur.dev
    let len := blkLen c.blk
    if q.moved = 0 ∧ 0 < c.total ∧ c.overlaps then s.finishCopy d hart c 9 0 0
    else s.untilDone d hart c q (s.copyUnits d hart c q (c.plan d hart
      (fun m => vaAdd c.src (m / len * blkSStride c.blk + m % len)) (fun m => vaAdd c.dst (m / len * blkDStride c.blk + m % len))
      (fun m => len - m % len)) k)

/-- FILL (R118): up to k more words of the destination; the byte at address A takes byte A mod 8 of the pattern. -/
def execFill (hart k : Nat) (s : State) : Out :=
  s.running hart 6 fun c q =>
    let dst := fun (m : Nat) => vaAdd c.dst m
    s.untilDone s.cur.dev hart c q (s.copyUnits s.cur.dev hart c q
      ⟨fun _ m _ => .ok ((dw c.blk 4).toNat / 2 ^ (8 * ((dst m).toNat % 8))), fun s _ => s, fun m => min (8 - (dst m).toNat % 8) (c.total - m), dst⟩ k)

/-- Fields of the pattern word of a DEAL (R92). -/
structure DealPat where
  /-- Block size. -/
  b : Nat
  nx : Nat
  ny : Nat
  /-- y fastest. -/
  ord : Bool
  /-- Bytes between rounds. -/
  stride : Nat
  /-- The origin core and the first offset. -/
  vx : Nat
  vy : Nat
  off : Nat
deriving DecidableEq, Repr

/-- The fields of a pattern word and a destination. -/
def dealPat (p : Word) (dst : VA) : DealPat :=
  let b := 64 * ((p.extractLsb' 0 8).toNat + 1)
  let st := (p.extractLsb' 24 18).toNat
  ⟨b, (p.extractLsb' 8 7).toNat, (p.extractLsb' 15 6).toNat, p.getLsbD 21, if st = 0 then b else st,
    (dst.extractLsb' 18 7).toNat, (dst.extractLsb' 25 6).toNat, (dst.extractLsb' 0 18).toNat⟩

/-- The destination of block k (R93). -/
def DealPat.dest (p : DealPat) (k : Nat) : VA :=
  let c := k % (p.nx * p.ny)
  let q := k / (p.nx * p.ny)
  let dx := if p.ord then c / p.ny else c % p.nx
  let dy := if p.ord then c % p.ny else c / p.nx
  0x8#4 ++ 0#37 ++ BitVec.ofNat 6 ((p.vy + dy) % 64) ++ BitVec.ofNat 7 ((p.vx + dx) % 72) ++ BitVec.ofNat 18 (p.off + q * p.stride)

/-- The checks of R94 for n bytes. A destination of space 1000 that is no local-storage VA (R22: vx above 71, or VA[67:31] non-zero)
fails the first of them, "the destination … is not an absolute local-storage VA" (DEDUCED, log entry 77). -/
def dealOk (p : Word) (dst : VA) (n : Nat) : Bool :=
  let f := dealPat p dst
  let st := (p.extractLsb' 24 18).toNat
  let blocks := (n + f.b - 1) / f.b
  dst.extractLsb' 68 4 == 0x8#4 && dst.extractLsb' 31 37 == 0#37 && decide (f.vx ≤ 71)
    && p.extractLsb' 42 22 == 0#22 && p.extractLsb' 22 2 == 0#2 && f.nx != 0 && f.ny != 0 && decide (f.nx ≤ 72)
    && st % 64 == 0 && (st == 0 || decide (f.b ≤ st))
    && (List.range blocks).all fun k => decide (f.off + k / (f.nx * f.ny) * f.stride + min f.b (n - k * f.b) ≤ 0x40000)

/-- DEAL (R92 to R94): up to k more words of the source. -/
def execDeal (hart k : Nat) (s : State) : Out :=
  s.running hart 1 fun c q =>
    let d := s.cur.dev
    let p := dealPat (dw c.blk 4) c.dst
    if q.moved = 0 ∧ 0 < c.total ∧ !dealOk (dw c.blk 4) c.dst c.total then s.finishCopy d hart c 3 0 0
    else s.untilDone d hart c q (s.copyUnits d hart c q (c.plan d hart (fun m => vaAdd c.src m)
      (fun m => vaAdd (p.dest (m / p.b)) (m % p.b)) (fun m => min (p.b - m % p.b) (c.total - m))) k)

/-- The plan of a GATHER for the entry that holds byte m, its index being j. -/
def CopyCmd.rowPlan (c : CopyCmd) (d h j : Nat) : CopyPlan :=
  let len := blkLen c.blk
  c.plan d h (fun m => vaAdd c.src (j * len + m % len)) (fun m => vaAdd c.dst m) (fun m => len - m % len)

/-- Up to k steps of a GATHER, each an index or a word of its row. The list may have any alignment: an index that crosses into the next word
is read from both (DESIGN CHOICE, log entry 78). -/
def State.gatherRun (s : State) (d h : Nat) (c : CopyCmd) : Nat → State
  | 0 => s
  | k + 1 =>
    let q := (s.dev d).copyHart h
    if q.bad.isSome || decide (c.total ≤ q.moved) then s
    else match q.idx with
      | none =>
        let i := 4 * (q.moved / blkLen c.blk)
        match s.hartRead d h (c.issuer h) (vaAdd c.aux i) 4 with
        | .wait => s
        | .fault cause sub => s.modCopy d h (·.stop q.moved 0 cause sub)
        | .ok j =>
          if blkLimit c.blk ≤ j then s.modCopy d h (·.stop q.moved 7 0 0)
          else
            let s := if carries i 4 then s.readTrip d (c.issuer h) (vaAdd c.aux i) else s
            (s.modCopy d h fun q => { q with idx := some (j, 0) }).gatherRun d h c k
      | some (j, _) =>
        let s1 := s.issueRun d h c (c.rowPlan d h j) 1
        let m := ((s1.dev d).copyHart h).moved
        if m = q.moved then s1
        else (if m % blkLen c.blk = 0 then s1.modCopy d h fun q => { q with idx := none } else s1).gatherRun d h c k

/-- GATHER (R118): up to k more steps, or reads ahead in the row that is being moved. A LEN that is no multiple of 8 ends it with
PATTERN-INVALID (DEDUCED, log entry 25). -/
def execGather (hart k : Nat) (s : State) : Out :=
  s.running hart 2 fun c q =>
    let d := s.cur.dev
    if 0 < c.total ∧ blkLen c.blk % 8 ≠ 0 then s.finishCopy d hart c 3 0 0
    else s.untilDone d hart c q (match s.cur.part, q.idx with
      | [], _ => s.gatherRun d hart c k
      | _ :: _, none => s
      | part, some (j, _) => s.readAhead d hart (c.rowPlan d hart j)
          (fun m => decide (q.moved ≤ m) && decide (m / blkLen c.blk = q.moved / blkLen c.blk)) part)

/-! ## POOL (R119, R189) -/

/-- The place of dword k of a view-table entry (R25, R174). -/
def viewLoc (d e k : Nat) : Nat := engLoc d (0x300000000 + 256 * e + 8 * k)

/-- Dword k of a view-table entry. -/
def State.viewWord (s : State) (d e k : Nat) : Word := s.readWord (viewLoc d e k)

/-- The table whose header is at a VA, registered for a tenant. -/
def State.tableAt (s : State) (d ten : Nat) (va : VA) : Option Nat :=
  (s.dev d).registered.find? fun e =>
    let ctl := s.viewWord d e 0
    ctl.getLsbD 3 && (ctl.extractLsb' 8 8).toNat == ten && (s.viewWord d e 4).extractLsb' 16 8 ++ s.viewWord d e 5 == va

/-- Buffer b of a view. -/
def State.viewBuf (s : State) (d e : Nat) (b : Bool) : VA :=
  if b then (s.viewWord d e 4).extractLsb' 32 8 ++ s.viewWord d e 7 else (s.viewWord d e 4).extractLsb' 24 8 ++ s.viewWord d e 6

/-- Up to n entries more of the sum of the output element at byte m, in order (R119); i entries have been summed. The list may have any
alignment (DESIGN CHOICE, log entry 78). A ROWLEN above the table's columns, of which the spec gives no check, reads on into the next
row, as the layout of R189 lies (DESIGN CHOICE, log entry 79). -/
def State.poolRun (s : State) (d h : Nat) (c : CopyCmd) (rows cols : Nat) (buf : VA) (m i acc : Nat) : Nat → State
  | 0 => s.modCopy d h fun q => { q with idx := some (i, acc) }
  | n + 1 =>
    let who := c.issuer h
    let keep := s.modCopy d h fun q => { q with idx := some (i, acc) }
    let ent := vaAdd c.aux (8 * (m / (4 * blkRowLen c.blk) * blkK c.blk + i))
    match s.hartRead d h who ent 8 with
    | .fault cause sub => s.modCopy d h (·.stop m 0 cause sub)
    | .wait => keep
    | .ok e =>
      let row := e % 2 ^ 32
      if rows ≤ row then s.modCopy d h (·.stop m 7 0 0)
      else
        let src := vaAdd buf (4 * (cols * row) + m % (4 * blkRowLen c.blk))
        match s.hartRead d h who src 4 with
        | .fault cause sub => s.modCopy d h (·.stop m 0 cause sub)
        | .wait => keep
        | .ok x =>
          ((s.readTrip d who ent).readTrip d who src).poolRun d h c rows cols buf m (i + 1) (fp32.fma (fp32.decode (e / 2 ^ 32)) (fp32.decode x) (fp32.decode acc)).1 n

/-- A step of a POOL with a buffer: entries of the next element, or its write. -/
def State.poolStep (s : State) (d h : Nat) (c : CopyCmd) (q : CopyHart) (rows cols : Nat) (buf : VA) : State :=
  let (i, acc) := q.idx.getD (0, 0)
  let left := blkK c.blk - i
  if left ≠ 0 then
    s.poolRun d h c rows cols buf q.moved i acc (if s.cur.part = [] then left else min left s.cur.part.length)
  else
    let ps := pieces (vaAdd c.dst q.moved) 4
    if ps.any (s.pieceHeld d h (c.issuer h)) then s
    else (s.modCopy d h fun q => { q with idx := none }).copyPost d h (c.issuer h) q.moved acc ps

/-- The buffer of a header pair that holds a version (R189). -/
def poolBuffer (h o : Word) (v : Nat) : Option Bool :=
  if hdrVersion h = v ∧ (hdrState h = 1 ∨ hdrState h = 2) then some (h.getLsbD 40)
  else if o.getLsbD 63 && (o.extractLsb' 0 40).toNat == v then some !h.getLsbD 40
  else none

/-- POOL (R119, R189): the first event reads the header pair and holds a buffer, each later one sums entries of an element or writes one. A
ROWLEN outside 1 to 4,096 or a K of 0 ends it with PATTERN-INVALID (DEDUCED, log entry 25). What a running POOL does when its table is
deregistered or registered anew the spec does not say: it ends with STALEVER, or goes on with the new entry (DESIGN CHOICE, log entry 90). -/
def execPool (hart : Nat) (s : State) : Out :=
  s.running hart 3 fun c q =>
    let d := s.cur.dev
    let who := c.issuer hart
    let ten := if c.who.sup then 0 else c.who.tenant
    match q.hold with
    | none =>
      if blkRowLen c.blk = 0 ∨ 4096 < blkRowLen c.blk ∨ blkK c.blk = 0 then s.finishCopy d hart c 3 0 0
      else match s.engRead d who c.src 8, s.engRead d who (vaAdd c.src 8) 8 with
        | .fault cause sub, _ => s.faultCopy d hart c 0 0 cause sub
        | _, .fault cause sub => s.faultCopy d hart c 0 0 cause sub
        | .ok hw, .ok ow =>
          let hd := BitVec.ofNat 64 hw
          (match (if (s.tableAt d ten c.src).isSome then poolBuffer hd (BitVec.ofNat 64 ow) (blkLen c.blk) else none) with
            | none => s.finishCopy d hart c (if hdrState hd = 3 then 11 else 7) 0 0
            | some b => ((s.readTrip d who c.src).readTrip d who (vaAdd c.src 8)).modCopy d hart fun q => { q with hold := some (c.src, b) })
        | _, _ => s
    | some (hdr, b) =>
      s.untilDone d hart c q (match s.tableAt d ten hdr with
        | none => s.modCopy d hart (·.stop q.moved 6 0 0)
        | some e =>
          let g := s.viewWord d e 2
          s.poolStep d hart c q (g.extractLsb' 16 20).toNat (g.extractLsb' 36 20).toNat (s.viewBuf d e b))

/-! ## FILLREG (R121) -/

/-- The starts of the units from byte m below hi; n bounds them. -/
def CopyPlan.starts (p : CopyPlan) (hi : Nat) : Nat → Nat → List Nat
  | 0, _ => []
  | n + 1, m => if hi ≤ m then [] else m :: p.starts hi n (m + p.cut m)

/-- The units that have been read, put together from byte lo. -/
def CopyHart.joined (q : CopyHart) (lo : Nat) (l : List Nat) : Nat :=
  l.foldl (fun a m => a + (Table.find q.pre m).getD 0 * 2 ^ (8 * (m - lo))) 0

/-- Read units of the piece from byte lo into the hart: the first that faults stops it, one that its home holds is left. -/
def State.collect (s : State) (d h : Nat) (p : CopyPlan) (lo : Nat) : List Nat → State
  | [] => s
  | m :: t =>
    match p.read s m (p.cut m) with
    | .fault a b => s.modCopy d h (·.stop lo 0 a b)
    | .wait => s.collect d h p lo t
    | .ok v => ((p.trip s m).modCopy d h fun q => { q with pre := Table.set q.pre m v }).collect d h p lo t

/-- The units from byte lo below hi are read, those that the move names or all; once none is missing, `k` gets their value. -/
def State.gathered (s : State) (d h : Nat) (p : CopyPlan) (lo hi : Nat) (k : State → Nat → State) : State :=
  let all := p.starts hi (hi - lo) lo
  let left := all.filter fun m => (Table.find ((s.dev d).copyHart h).pre m).isNone
  let s1 := s.collect d h p lo (if s.cur.part = [] then left else left.filter s.cur.part.contains)
  let q := (s1.dev d).copyHart h
  if q.bad.isSome || all.any (fun m => (Table.find q.pre m).isNone) then s1
  else k (s1.modCopy d h fun q => { q with pre := [] }) (q.joined lo all)

/-- FILLREG (R121): one register, in ascending order, once its words have been read. A bad range of registers is reported before a context that is
not the tenant's, an order that the spec does not give (DESIGN CHOICE, log entry 89). -/
def execFillreg (hart : Nat) (s : State) : Out :=
  s.running hart 5 fun c q =>
    let d := s.cur.dev
    let t := dw c.blk 2
    let cid := (t.extractLsb' 0 24).toNat
    let vec := t.getLsbD 29
    let n := (t.extractLsb' 24 5).toNat
    let size := if vec then 128 else 8
    let len := blkLen c.blk
    let x := s.ctx d cid
    let hi := q.moved + size
    if 0 < len ∧ (len % size ≠ 0 ∨ (if vec then 16 else 32) < n + len / size) then s.finishCopy d hart c 3 0 0
    else if 0 < len ∧ q.moved = 0 ∧ (!x.alive ∨ x.tenant.toNat ≠ c.who.tenant) then s.finishCopy d hart c 10 0 0
    else s.untilDone d hart c q (s.gathered d hart
      (c.plan d hart (fun m => vaAdd c.src m) (fun _ => 0) (fun m => hi - m)) q.moved hi fun s v => (s.externalFill d cid vec (n + q.moved / size) (BitVec.ofNat 1024 v) none).modCopy d hart fun q => { q with moved := hi })

/-! ## MIGRATE (R41 to R44, R120) -/

/-- The namespace bound to a root port of a device (R44). -/
def State.boundNs (s : State) (d port : Nat) : Word := s.readWord (engLoc d (0x500000000 + 16 * port))

/-- The first place of a page of a tier; an NVMe page lies in the namespace bound to its port. -/
def State.pageLoc (s : State) (d tier pa : Nat) : Nat :=
  let port := pa / 2 ^ 50 % 4
  if tier = 3 then nvmeLoc d port ((s.boundNs d port).extractLsb' 0 32).toNat (pa % 2 ^ 50) else tierLoc d tier pa

/-- The NVMe part of a move is impossible (R44). -/
def State.nvmeBad (s : State) (d tier pa size : Nat) : Bool :=
  tier == 3 &&
    (let port := pa / 2 ^ 50 % 4
     let e := s.boundNs d port
     let cap := (s.readWord (engLoc d (0x500000008 + 16 * port))).toNat
     let blk := 2 ^ (e.extractLsb' 32 4).toNat
     !e.getLsbD 63 || pa % blk != 0 || size % blk != 0 || decide (cap < pa % 2 ^ 50 + size))

/-- The first refusal that a page meets at its homes: a failed channel core, the log region, a poisoned word. -/
def State.pageRefusal (s : State) (d lo size : Nat) (write : Bool) : Option Nat :=
  if driveBase ≤ lo then none
  else
    let c := (s.dev d).flash.cfg
    let fronted := regionOf lo = .hbm ∨ regionOf lo = .lp
    if fronted ∧ ((s.core d (channelCore lo)).failed ∨ (s.core d (channelCore (lo + size - 1))).failed) then some 3
    else if write ∧ regionOf lo = .hbm ∧ locOff lo < c.logBase + c.logSize ∧ c.logBase < locOff lo + size then some 2
    else if !write && s.poisoned lo size then some 5
    else none

/-- What an access to a page of a tier meets, on the source or the destination side: the end of the installed memory (R33), or a refusal at
its homes. -/
def State.pageFault (s : State) (d : Nat) (e : Word) (lo size : Nat) (write : Bool) : Option VaFault :=
  if pteTier e ≤ 2 && decide (s.tierSize d (pteTier e) < ptePa e + size) then some (0x03, 5)
  else (s.pageRefusal d lo size write).map fun n => (0x05, n)

/-- The bytes and F/E bits of a page copied to another place (R120). Where only the new tier carries F/E bits the spec does not say what they become:
full (DESIGN CHOICE, log entry 88). -/
def State.copyPage (s : State) (lo dest size : Nat) : State :=
  let zero := fun (l : Nat) => decide (l < driveBase) && regionOf l != .cxl
  let fe := zero lo && zero dest
  { s with
    mem := if zero lo && zero dest then
        (s.mem.filter fun c => lo ≤ c.1 && c.1 < lo + size).foldl (fun m c => Memory.set m (c.1 - lo + dest) c.2)
          (Memory.clear s.mem dest size)
      else Memory.writeBytes s.mem (s.atPort dest) (Memory.bytes s.mem (s.atPort lo) size)
    empty := if fe then
        (s.empty.filter fun w => lo ≤ w && w < lo + size).foldl (fun e w => putNat e (w - lo + dest)) (dropRange s.empty dest size)
      else dropRange s.empty dest size
    poison := dropRange s.poison dest size }

/-- A place is on the old page. -/
def PageMove.covers (m : PageMove) (l : Nat) : Bool := decide (m.lo ≤ l) && decide (l < m.lo + m.size)

/-- A place of the old page becomes its place on the new one (R42) (DEDUCED, log entry 43). -/
def moved (m : PageMove) (l : Nat) : Nat := if m.covers l then l - m.lo + m.dest else l

/-- A request that was translated before the switch goes to the new home (R42). -/
def Req.forwardTo (m : PageMove) (r : Req) : Req := { r with loc := r.loc.map (moved m) }

/-- The place that a request to an engine names. -/
def EngOp.forwardTo (m : PageMove) : EngOp → EngOp
  | .cpyq xc loc va => .cpyq xc (moved m loc) va
  | .waitp t => .waitp t
  | .vcommit loc xv => .vcommit (moved m loc) xv
  | .vreclaim loc xv => .vreclaim (moved m loc) xv

/-- A message in flight that the old home forwards. -/
def Msg.forwardTo (m : PageMove) : Msg → Msg
  | .req r => .req (r.forwardTo m)
  | .eng who op => .eng who (op.forwardTo m)
  | x => x

/-- What a device's copy harts keep waiting, and the writes that a channel core holds on other pages. -/
def Device.forwardTo (m : PageMove) (v : Device) : Device :=
  { v with
    copy := v.copy.map fun p => (p.1, { p.2 with full := p.2.full.map fun q => (q.1, q.2.forwardTo m) })
    chcore := v.chcore.map fun p => (p.1, { p.2 with held := p.2.held.filter fun r => !m.covers (r.loc.getD 0) }) }

/-- A waiter handed over: to the new home's list, or, on a drive, refused as any access there (R42, R43). -/
def State.handOver (s : State) (w : Waiter) : State :=
  if driveBase ≤ w.req.loc.getD 0 then s.answerWaiter w (.nack 4) else { s with waiters := s.waiters ++ [w] }

/-- The switch (R42): the waiting lists first, then the held accesses in order; those in flight go to the new home. The writes that a channel
core's full log held before the move (R358) came first. -/
def State.switchPage (s : State) (d : Nat) (m : PageMove) : State :=
  let inPage := fun (w : Waiter) => !w.isClose && m.covers (w.req.loc.getD 0) && w.req.loc.isSome
  let list := (s.waiters.filter inPage).map fun w => { w with req := w.req.forwardTo m }
  let rest := s.waiters.filter fun w => !inPage w
  let early := (s.dev d).chcore.flatMap fun p => p.2.held.filter fun r => m.covers (r.loc.getD 0)
  let s : State := list.foldl State.handOver { s with waiters := [], net := s.net.map (Msg.forwardTo m) }
  let s : State := ({ s with waiters := s.waiters ++ rest } : State).modDev d (Device.forwardTo m)
  (early ++ m.held).foldl (fun s r => s.homeStep (r.forwardTo m)) s

/-- A move ends without a switch: the old home performs what it held. -/
def State.abandonPage (s : State) (d h : Nat) (m : PageMove) : State :=
  m.held.foldl (fun s r => s.homeStep r) (s.modCopy d h fun q => { q with move := none })

/-- The hart's AMO on a leaf entry, at the entry's home (R41, R42): refused, held there, or performed. -/
def State.leafAmo (s : State) (d h leaf : Nat) (w : Word) : Got State :=
  s.engHome ⟨partIssuer d (copyVcn h), d, 0, some leaf, false, .amo .swap w 0 0 0, .nowhere⟩ leaf

/-- The first step of a MIGRATE: the checks, and MIG set in the leaf (R41, R43, R44, R120) (DESIGN CHOICE, log entry 14). Of
several end statuses that apply the spec does not say which is given: BUSY, then FE-TIER, PATTERN-INVALID and WRITABLE (DESIGN CHOICE, log
entry 87). -/
def State.migrateBegin (s : State) (d h : Nat) (c : CopyCmd) : State :=
  let t := dw c.blk 2
  let tier := (t.extractLsb' 8 2).toNat
  let pa := (t.extractLsb' 16 36).toNat * 65536
  match s.leafOf d ((dw c.blk 4).extractLsb' 0 8).toNat c.src with
  | .error f => if f = walkHeld then s else s.faultCopy d h c 0 0 f.1 f.2
  | .ok (e, at_, bits) =>
    let size := 2 ^ bits
    if e.getLsbD 7 then s.finishCopy d h c 4 0 0
    else if e.getLsbD 6 && 2 ≤ tier then s.finishCopy d h c 12 0 0
    else if tier ≤ 2 && s.tierSize d tier ≤ pa || pa % size ≠ 0 then s.finishCopy d h c 3 0 0
    else if s.nvmeBad d tier pa size || s.nvmeBad d (pteTier e) (ptePa e) size then s.finishCopy d h c 3 0 0
    else if tier = 3 && (e.getLsbD 2 || e.getLsbD 5) then s.finishCopy d h c 6 0 0
    else
      let old := e ||| 0x80#64
      let new : Word := e.extractLsb' 52 12 ++ t.extractLsb' 16 36 ++ e.extractLsb' 10 6 ++ t.extractLsb' 8 2 ++ e.extractLsb' 0 8
      match s.leafAmo d h at_ old with
      | .wait => s
      | .fault cause sub => s.faultCopy d h c 0 0 cause sub
      | .ok s1 => s1.modCopy d h fun q =>
        { q with move := some ⟨at_, old, new, s.pageLoc d (pteTier e) (ptePa e), size, s.pageLoc d tier pa, [], false⟩ }

/-- A drive error of a move to or from the NVMe tier, which the environment decides (DESIGN CHOICE, log entry 19): of the read at the source, or of
the write at the destination; between two drives it may be either (R44, R120). -/
def State.driveError (s : State) (m : PageMove) : Option Nat :=
  let w := s.freeWord
  if (driveBase ≤ m.lo ∨ driveBase ≤ m.dest) ∧ w.getLsbD 0 then
    some (if driveBase ≤ m.lo ∧ (m.dest < driveBase ∨ w.getLsbD 1 = false) then 0 else 1)
  else none

/-- A move that faults clears MIG, unless software has changed the entry, and leaves the page at its old home (R120). -/
def State.migrateFault (s : State) (d h : Nat) (c : CopyCmd) (m : PageMove) (side : Nat) (f : VaFault) : State :=
  let fin := fun (s : State) => (s.abandonPage d h m).faultCopy d h c 0 side f.1 f.2
  if s.readWord m.leaf = m.old then
    match s.leafAmo d h m.leaf (m.old &&& ~~~0x80#64) with
    | .ok s1 => fin s1
    | .wait => s
    | .fault _ _ => fin s
  else fin s

/-- The page is shared, so that its TLBI covers the domain (R42). -/
def PageMove.wide (m : PageMove) : Bool := m.new.getLsbD 4 || m.new.getLsbD 5

/-- An access that has the old leaf from the walk it waited on goes on to the new home (R42); a drive takes none (R43). -/
def Walk.forwardTo (m : PageMove) (w : Walk) : Walk :=
  match w.ended with
  | some (.leaf e b) =>
    if e ||| 0x80#64 = m.old then
      { w with ended := some (if pteTier m.new = 3 then .fault 0x05 4 else .leaf m.new b) }
    else w
  | _ => w

/-- The switch by CAS, and the drop of the TLBI (R42, R120); a CAS that the entry's home refuses leaves the page where it was. -/
def State.migrateSwitch (s : State) (d h : Nat) (c : CopyCmd) (m : PageMove) (s3 : State) : State :=
  if s3.readWord m.leaf ≠ m.old then (s3.abandonPage d h m).finishCopy d h c 5 0 0
  else match s3.leafAmo d h m.leaf m.new with
    | .wait => s
    | .fault cause sub => (s3.abandonPage d h m).faultCopy d h c 0 0 cause sub
    | .ok s4 =>
      let s5 := (s4.modCopy d h fun q => { q with move := some { m with held := [], switched := true } }).switchPage d m
      let s6 : State := { s5 with devs := s5.devs.map fun p => (p.1, { p.2 with walks := p.2.walks.map (Walk.forwardTo m) }) }
      s6.tlbiAll (if m.wide then 4 else 3) 0 ((dw c.blk 4).extractLsb' 0 8).toNat c.src

/-- The second step: the copy, and the switch (R42, R120). -/
def State.migrateEnd (s : State) (d h : Nat) (c : CopyCmd) (m : PageMove) : State :=
  let s1 := s.drawn
  match s.driveError m with
  | some side => s1.migrateFault d h c m side (0x05, 4)
  | none => match s.pageFault d m.old m.lo m.size false with
    | some f => s1.migrateFault d h c m 0 f
    | none => match s.pageFault d m.new m.dest m.size true with
      | some f => s1.migrateFault d h c m 1 f
      | none =>
        let logged := if ((s.dev d).log? (channelCore m.dest)).on then
            (List.range (m.size / 64)).foldl (fun a k => a.bind fun s => s.ckpt (m.dest + 64 * k)) (some s1)
          else some s1
        match logged with
        | none => s
        | some s2 => s.migrateSwitch d h c m (s2.copyPage m.lo m.dest m.size)

/-- The third step: the TLBI ends once the walks that began before its drop have, and with it the command (R39, R42). -/
def State.migrateDone (s : State) (d h : Nat) (c : CopyCmd) (m : PageMove) : State :=
  if s.staleWalk (if m.wide then 4 else 3) then s
  else (s.modCopy d h fun q => { q with move := none }).finishCopy d h c 0 m.size 0

/-- MIGRATE (R120). -/
def execMigrate (hart : Nat) (s : State) : Out :=
  s.running hart 4 fun c q =>
    match q.move with
    | none => s.migrateBegin s.cur.dev hart c
    | some m => if m.switched then s.migrateDone s.cur.dev hart c m else s.migrateEnd s.cur.dev hart c m

end Sys2Proof.Machine
end

