-- ==== Sys2Proof/Machine/ViewHart.lean ====
section
/-! DEFINITION. The view harts: view-table entries, registration, commits, the reclaim floor, and the building of blocks
(R112 to R114, R122, R173 to R190). -/

namespace Sys2Proof.Machine

/-! ## Entries (R174 to R178) -/

/-- The dwords of a view-table entry or of a registration image. -/
abbrev Entry := Nat → Word

/-- The entry e of a device. -/
def State.entry (s : State) (d e : Nat) : Entry := fun k => s.viewWord d e k

/-- Fields of CTL (R175). -/
def Entry.leader (x : Entry) : Nat := ((x 0).extractLsb' 16 12).toNat
def Entry.tenant (x : Entry) : Nat := ((x 0).extractLsb' 8 8).toNat
def Entry.table (x : Entry) : Bool := (x 0).getLsbD 3
def Entry.pol (x : Entry) : BitVec 2 := (x 0).extractLsb' 1 2

/-- Fields of MGEOM, MSTRIDE and VFMT (R174, R176). -/
def Entry.cols (x : Entry) : Nat := ((x 2).extractLsb' 36 20).toNat
def Entry.rows (x : Entry) : Nat := ((x 2).extractLsb' 16 20).toNat
def Entry.mfmt (x : Entry) : Nat := ((x 2).extractLsb' 8 4).toNat
def Entry.master (x : Entry) : VA := (x 2).extractLsb' 0 8 ++ x 1
def Entry.mstride (x : Entry) : Nat := ((x 3).extractLsb' 0 40).toNat
def Entry.shard (x : Entry) : Bool := (x 4).getLsbD 11
def Entry.lay (x : Entry) : Nat := ((x 4).extractLsb' 9 2).toNat
def Entry.kax (x : Entry) : Bool := (x 4).getLsbD 8
def Entry.pm1 (x : Entry) : Nat := ((x 4).extractLsb' 4 4).toNat
def Entry.efmt (x : Entry) : Nat := ((x 4).extractLsb' 0 4).toNat
def Entry.hdr (x : Entry) : VA := (x 4).extractLsb' 16 8 ++ x 5
def Entry.buf (x : Entry) (b : Bool) : VA := if b then (x 4).extractLsb' 32 8 ++ x 7 else (x 4).extractLsb' 24 8 ++ x 6

/-- Bytes of a master element. -/
def Entry.melem (x : Entry) : Nat := if x.mfmt = 0 then 4 else 2

/-- T and Z of R177. -/
def Entry.tile (x : Entry) : Nat :=
  if x.efmt = 11 then 128 * (x.pm1 + 1) else 128 * elemBits (BitVec.ofNat 4 x.efmt)
def Entry.z (x : Entry) : Nat := (x.tile + 32 + 127) / 128 * 128

/-- The number of blocks of a master (R177, R189). -/
def Entry.blocks (m : Entry) : Nat := if m.table then 1 else m.rows / 32 * (m.cols / 32)

/-- Entry e is registered, and is the leader of a group. -/
def State.isView (s : State) (d e : Nat) : Bool := (s.dev d).registered.contains e
def State.isLeader (s : State) (d e : Nat) : Bool := s.isView d e && (s.entry d e).leader == e

/-- The leader's entry, with the master. -/
def State.leaderOf (s : State) (d e : Nat) : Entry := s.entry d (s.entry d e).leader

/-- View hart h of a device. -/
def Device.viewHart (v : Device) (h : Nat) : ViewHart := (Table.find v.view h).getD ViewHart.reset

/-- Change a view hart. -/
def State.modView (s : State) (d h : Nat) (f : ViewHart → ViewHart) : State :=
  s.modDev d fun v => { v with view := Table.set v.view h (f (v.viewHart h)) }

/-- The VCN of a view hart, and the hart of a group (R173). -/
def viewVcn (h : Nat) : Nat := 4704 + h
def hartOf (leader : Nat) : Nat := leader % 24

/-- Write a dword of the hart's part of an entry. -/
def State.setView (s : State) (d e k : Nat) (w : Word) : State := s.writeWord (viewLoc d e k) w

/-- The issuer of a view hart's accesses for an entry (R178, R184). -/
def viewIssuer (d h tenant : Nat) : Issuer := ⟨d, viewVcn h, noCid, false, tenant⟩

/-- Key of a block in the pending table. -/
def blockKey (e n : Nat) : Nat := 2 ^ 40 * e + n

/-- A header word (R110). -/
def headerWord (fault state : Nat) (pol : BitVec 2) (buf : Bool) (v : Nat) : Word :=
  0#8 ++ BitVec.ofNat 8 fault ++ BitVec.ofNat 4 state ++ 0#1 ++ pol ++ BitVec.ofBool buf ++ BitVec.ofNat 40 v

/-! ## Registration (R179, R180) -/

/-- The reserved bits and dwords of an image are 0 (check 1). -/
def Entry.reservedOk (x : Entry) : Bool :=
  ((List.range 22).all fun k => x (10 + k) == 0) && (x 0).extractLsb' 28 36 == 0#36 && (x 0).extractLsb' 4 4 == 0#4
    && (x 2).extractLsb' 56 8 == 0#8 && (x 2).extractLsb' 12 4 == 0#4 && (x 3).extractLsb' 40 24 == 0#24
    && (x 4).extractLsb' 40 24 == 0#24 && (x 4).extractLsb' 12 4 == 0#4 && (x 9).extractLsb' 40 24 == 0#24

/-- A leader's geometry, stride and version (check 3). -/
def Entry.leaderOk (x : Entry) : Bool :=
  x.mfmt ≤ 1 && x.cols != 0 && x.rows != 0 && (x.table || x.cols % 32 == 0 && x.rows % 32 == 0)
    && x.mstride % 8 == 0 && decide (x.cols * x.melem ≤ x.mstride) && x 9 != 0

/-- A member's fields and its leader (check 4); a table has a single view (R189). -/
def State.memberOk (s : State) (d : Nat) (x : Entry) : Bool :=
  s.isLeader d x.leader && !(s.entry d x.leader).table && (s.entry d x.leader).tenant == x.tenant && x 9 == 0 && !x.table && x 1 == 0 && x 2 == 0 && x 3 == 0

/-- The formats and layouts that go together (check 5), and the alignment of R174 (DEDUCED, log entry 26). -/
def Entry.formatOk (x : Entry) : Bool :=
  (if x.table then x.efmt == 0 && x.lay == 0 && !x.shard && x.pm1 == 0
    else if x.efmt = 11 then x.lay == 2 && x.pm1 != 0
    else [3, 4, 7, 8, 9, 10].contains x.efmt && decide (x.lay ≤ 1) && x.pm1 == 0)
    && (x 5).toNat % 16 == 0 && (x 6).toNat % 128 == 0 && (x 7).toNat % 128 == 0 && (x.shard || x 8 == 0)

/-- The sharded placement (check 6). -/
def Entry.shardOk (x m : Entry) : Bool :=
  !x.shard ||
    (let st := ((x 8).extractLsb' 24 18).toNat
     ((x 8).extractLsb' 0 8).toNat + 1 == x.z / 64 && (st == 0 || st % 128 == 0 && decide (x.z ≤ st))
       && dealOk (x 8) (x.buf false) (m.blocks * x.z) && dealOk (x 8) (x.buf true) (m.blocks * x.z))

/-- The checks of R179 on an image for entry e. -/
def State.imageOk (s : State) (d e : Nat) (x : Entry) : Bool :=
  x.reservedOk &&
    if (x 0).getLsbD 0 then
      !s.isView d e && x.pol != 3#2 && (if x.leader = e then x.leaderOk else s.memberOk d x) && x.formatOk
        && x.shardOk (if x.leader = e then x else s.entry d x.leader)
    else s.isView d e && !(s.isLeader d e && (s.dev d).registered.any fun m => m != e && (s.entry d m).leader == e)

/-- A view is halted: VSTAT says so, and nothing of it stays pending (R187). -/
def State.haltView (s : State) (d e : Nat) : State :=
  (s.setView d e 31 (1#1 ++ 0#55 ++ 0x06#8)).modView d (hartOf (s.entry d e).leader) fun h =>
    { h with
      pend := h.pend.filter fun p => p.1 / 2 ^ 40 ≠ e
      work := match h.work with | some b => if b.key / 2 ^ 40 = e then none else some b | none => none }

/-- Words of a view's headers are written; a refused one is left, and the flag says that some write was refused. -/
def State.writeHeaders (s : State) (d : Nat) (who : Issuer) (refused : Bool) : List (VA × Word) → Got (State × Bool)
  | [] => .ok (s, refused)
  | (va, w) :: t =>
    match s.engWrite d who va 8 w.toNat with
    | .ok s1 => s1.writeHeaders d who refused t
    | .fault _ _ => s.writeHeaders d who true t
    | .wait => .wait

/-- Install a registration (R180): none while a home holds a header. The headers of the view are written in one step: R180 does not say whether
other agents may see them one by one (DESIGN CHOICE, log entry 92). -/
def State.register (s : State) (d e : Nat) (x : Entry) : Option State :=
  let s1 := (List.range 26).foldl (fun s k => s.setView d e k (x k)) s
  let s2 := (List.range 6).foldl (fun s k => s.setView d e (26 + k) 0) s1
  let s3 := if x.leader = e then s2.setView d e 26 (x 9) else s2
  let m := s3.entry d x.leader
  let h := hartOf x.leader
  let ver := ((s3.viewWord d x.leader 26).extractLsb' 0 40).toNat
  let s4 := s3.modDev d fun v => { v with registered := putNat v.registered e }
  let blocks := List.range m.blocks
  let pairs := blocks.flatMap fun n =>
    [(vaAdd x.hdr (16 * n), headerWord 0 2 x.pol false 0), (vaAdd x.hdr (16 * n + 8), (0 : Word))]
  match s4.writeHeaders d (viewIssuer d h x.tenant) false pairs with
  | .ok (s5, false) =>
    some (s5.modView d h fun q => { q with pend := blocks.foldl (fun p n => Table.set p (blockKey e n) ver) q.pend })
  | .ok (s5, true) => some (s5.haltView d e)
  | .fault _ _ | .wait => none

/-- Remove a registration (R179): every header becomes 0 and V clears; a header that refuses it leaves the entry HALTED (R187) (DEDUCED, log
entry 26), and in one step (DESIGN CHOICE, log entry 92). -/
def State.deregister (s : State) (d e : Nat) : Option State :=
  let x := s.entry d e
  let h := hartOf x.leader
  let off := fun (s : State) =>
    (s.setView d e 0 (x 0 &&& ~~~1#64)).modDev d fun v => { v with registered := dropNat v.registered e }
  match s.writeHeaders d (viewIssuer d h x.tenant) false
      ((List.range (s.leaderOf d e).blocks).map fun n => (vaAdd x.hdr (16 * n), (0 : Word))) with
  | .ok (s1, refused) =>
    let s2 := s1.haltView d e
    some (off (if refused then s2 else s2.setView d e 31 (s1.viewWord d e 31)))
  | .fault _ _ | .wait => none

/-- VIEWREG (R118, R122, R179): the image is read, checked and installed or removed. Before a removal the hart
finishes the block it is building, of whatever view. -/
def execViewreg (hart : Nat) (s : State) : Out :=
  s.running hart 7 fun c _ =>
    let d := s.cur.dev
    let e := ((dw c.blk 2).extractLsb' 0 12).toNat
    s.gathered d hart (c.plan d hart (fun m => vaAdd c.src m) (fun _ => 0) (fun m => 256 - m)) 0 256 fun s1 img =>
      let x : Entry := fun k => BitVec.ofNat 64 (img / 2 ^ (64 * k))
      let h := hartOf (if (x 0).getLsbD 0 then x.leader else (s.entry d e).leader)
      let busy := !(x 0).getLsbD 0 && match ((s.dev d).viewHart h).work with
        | some b => b.begun.isSome
        | none => false
      if (s.core d (viewVcn h)).failed then s
      else if !s1.imageOk d e x then s1.finishCopy d hart c 3 0 0
      else if busy then s
      else match (if (x 0).getLsbD 0 then s1.register d e x else s1.deregister d e) with
        | some s2 => s2.finishCopy d hart c 0 256 0
        | none => s

/-! ## Commits and the floor (R112 to R114, R181) -/

/-- The failing check of R113 on a descriptor and a version, if any. -/
def State.commitFault (s : State) (who : Issuer) (w xv : Word) : Option Nat :=
  let d := who.dev
  let g := (w.extractLsb' 40 12).toNat
  let first := (w.extractLsb' 20 20).toNat
  let count := (w.extractLsb' 0 20).toNat
  let m := s.entry d g
  if w.extractLsb' 52 12 ≠ 0#12 ∨ xv.extractLsb' 40 24 ≠ 0#24 then some 4
  else if !s.isLeader d g || m.tenant != who.tenant then some 2
  else if count = 0 ∨ m.blocks < first + count ∨ m.table ∧ (first ≠ 0 ∨ count ≠ 1) then some 3
  else if xv.toNat ≤ ((s.viewWord d g 26).extractLsb' 0 40).toNat then some 1
  else none

/-- Record a commit: LASTVER, and the blocks pending in every view of the group that is not halted (R181, R187). -/
def State.recordCommit (s : State) (d : Nat) (w xv : Word) : State :=
  let g := (w.extractLsb' 40 12).toNat
  let first := (w.extractLsb' 20 20).toNat
  let count := (w.extractLsb' 0 20).toNat
  let views := (s.dev d).registered.filter fun e => (s.entry d e).leader == g && !(s.viewWord d e 31).getLsbD 63
  (s.setView d g 26 xv).modView d (hartOf g) fun h =>
    { h with
      queued := h.queued + 1
      pend := views.foldl (fun p e => (List.range count).foldl (fun p i => Table.set p (blockKey e (first + i)) xv.toNat) p) h.pend }

/-- The descriptor as an ordinary load of the issuer reads it at its home (R112): a NACK, or held there (R41). -/
def State.descriptor (s : State) (who : Issuer) (loc : Nat) : Got (Except Nat Word) :=
  let r : Req := ⟨who, who.dev, 0, some loc, false, .load 8 false, .nowhere⟩
  match s.refusal r loc with
  | some n => .ok (.error n)
  | none => if (s.moveHolds r loc).isSome then .wait else .ok (.ok (if s.isHeader 1 loc then 0 else BitVec.ofNat 64 (s.readData (s.atPort loc) 8)))

/-- A view hart takes up a commit with a place free (R113, R181). -/
def State.commit (s : State) (who : Issuer) (w xv : Word) : State :=
  let src := viewVcn (hartOf (w.extractLsb' 40 12).toNat)
  match s.commitFault who w xv with
  | some n => s.reply src who (trapAns 0x08 xv n 0)
  | none => (s.recordCommit who.dev w xv).reply src who (.vals [])

/-- A VCOMMIT reaches its view hart (R113, R181). -/
def State.serveVcommit (s : State) (who : Issuer) (loc : Nat) (xv : Word) : State :=
  match s.descriptor who loc with
  | .ok (.error n) => s.reply (homePart loc) who (.nack n)
  | .ok (.ok w) =>
    let h := hartOf (w.extractLsb' 40 12).toNat
    let q := (s.dev who.dev).viewHart h
    if (s.core who.dev (viewVcn h)).failed then s.reply (viewVcn h) who (.nack 3)
    else if 64 ≤ q.queued ∨ q.full ≠ [] then s.modView who.dev h fun q => { q with full := q.full ++ [(who, w, xv)] }
    else s.commit who w xv
  | _ => { s with net := s.net ++ [.eng who (.vcommit loc xv)] }

/-- A VRECLAIM reaches its view hart (R114): the floor never falls. -/
def State.serveVreclaim (s : State) (who : Issuer) (loc : Nat) (xv : Word) : State :=
  match s.descriptor who loc with
  | .ok (.error n) => s.reply (homePart loc) who (.nack n)
  | .ok (.ok w) =>
    let d := who.dev
    let g := (w.extractLsb' 40 12).toNat
    let src := viewVcn (hartOf g)
    if (s.core d src).failed then s.reply src who (.nack 3)
    else if w.extractLsb' 52 12 ≠ 0#12 ∨ w.extractLsb' 0 40 ≠ 0#40 ∨ xv.extractLsb' 40 24 ≠ 0#24 then
      s.reply src who (trapAns 0x08 xv 4 0)
    else if !s.isLeader d g || (s.entry d g).tenant != who.tenant then s.reply src who (trapAns 0x08 xv 2 0)
    else (if ((s.viewWord d g 27).extractLsb' 0 40).toNat < xv.toNat then s.setView d g 27 xv else s).reply src who (.vals [])
  | _ => { s with net := s.net ++ [.eng who (.vreclaim loc xv)] }

/-- A queue place frees: the commits that wait are taken up in order. -/
def State.takeCommits (s : State) (d h : Nat) : Nat → State
  | 0 => s
  | n + 1 =>
    match ((s.dev d).viewHart h).full with
    | (who, w, xv) :: t =>
      if ((s.dev d).viewHart h).queued < 64 then
        ((s.modView d h fun q => { q with full := t }).commit who w xv).takeCommits d h n
      else s
    | [] => s

/-! ## Builds (R182, R183, R186, R189) -/

/-- The master rows and columns that a block of a group reads: first row, rows, first column, columns. -/
def Entry.extent (m : Entry) (n : Nat) : Nat × Nat × Nat × Nat :=
  if m.table then (0, m.rows, 0, m.cols) else (n / (m.cols / 32) * 32, 32, n % (m.cols / 32) * 32, 32)

/-- The pieces of words that hold consecutive bytes from a VA: number, offset, bytes; the number of the first is given, and f bounds them. -/
def rowPieces (va : VA) (len num : Nat) : Nat → Nat → List (Nat × Nat × Nat)
  | 0, _ => []
  | f + 1, o =>
    if len ≤ o then []
    else
      let n := min (8 - (va.toNat + o) % 8) (len - o)
      (num, o, n) :: rowPieces va len (num + 1) f (o + n)

/-- A row of a block: its VA, and its pieces, numbered over the block. -/
def Entry.rowAt (m : Entry) (n i : Nat) : VA × List (Nat × Nat × Nat) :=
  let (r, _, c, cols) := m.extent n
  let va := vaAdd m.master ((r + i) * m.mstride + c * m.melem)
  let len := cols * m.melem
  (va, rowPieces va len (i * (len / 8 + 2)) (len / 8 + 2) 0)

/-- The pieces of a block: number, VA, bytes. -/
def Entry.masterPieces (m : Entry) (n : Nat) : List (Nat × VA × Nat) :=
  (List.range (m.extent n).2.1).flatMap fun i =>
    let r := m.rowAt n i
    r.2.map fun p => (p.1, vaAdd r.1 p.2.1, p.2.2)

/-- The element codes of row i of a block, from what was read. -/
def Entry.rowCodes (m : Entry) (n i : Nat) (got : Table Nat) : List Nat :=
  let v := (m.rowAt n i).2.foldl (fun a p => a + (Table.find got p.1).getD 0 * 2 ^ (8 * p.2.1)) 0
  (List.range (m.extent n).2.2.2).map fun k => v / 2 ^ (8 * m.melem * k) % 2 ^ (8 * m.melem)

/-- The flits of a view hart's reads of a header pair (R337). -/
def State.pairTrip (s : State) (d : Nat) (who : Issuer) (hva : VA) : State := (s.readTrip d who hva).readTrip d who (vaAdd hva 8)

/-- A piece of a master word, or the FAULT of R186. -/
def State.masterRead (s : State) (d : Nat) (who : Issuer) (va : VA) (n : Nat) : Got Nat :=
  match s.resolveAt d who va .readOnly n false with
  | .error f => if f = walkHeld then .wait else .fault 2 0
  | .ok t =>
    if regionOf t.loc = .cxl then .fault 2 0
    else match s.engRead d who va n with
      | .fault c b => .fault (if c = 5 ∧ b = 5 then 4 else 2) 0
      | g => g

/-- The image of a view block and the counts SAT and SCALEOVF (R177, R183); `row r k` is a master element. -/
def blockImage (x : Entry) (row : Nat → Nat → FVal) : List Byte × Nat × Nat :=
  let group := fun (g : Nat) => (List.range 32).map fun k => if x.kax then row k g else row g k
  if x.efmt = 11 then
    let b := (List.range 32).map fun g => planeBlock (x.pm1 + 1) (group g)
    (planeBytes (x.pm1 + 1) (b.map (·.1)) ++ b.map (fun r => BitVec.ofNat 8 (lowBits 8 r.2.1)),
      (b.map (·.2.2.sat)).sum, (b.map (·.2.2.ovf)).sum)
  else
    let b := (List.range 32).map fun g => quantBlock x.efmt (group g)
    ((b.flatMap fun r => packCodes x.efmt r.1).map (BitVec.ofNat 8) ++ b.map (fun r => BitVec.ofNat 8 r.2.1),
      (b.map (·.2.2.sat)).sum, (b.map (·.2.2.ovf)).sum)

/-- A POOL holds buffer b of the header at a VA (R189). -/
def Device.pooled (v : Device) (hdr : VA) (b : Bool) : Bool := v.copy.any fun p => p.2.hold == some (hdr, b)

/-- Change the block that a hart has taken. -/
def State.modWork (s : State) (d h : Nat) (f : Build → Build) : State := s.modView d h fun q => { q with work := q.work.map f }

/-- A read or write of a view hart that comes of an access: done, refused, or tried again at the next event. -/
def Got.else {α : Type} (g : Got α) (s : State) (bad : State) (k : α → State) : State :=
  match g with
  | .ok a => k a
  | .fault _ _ => bad
  | .wait => s

/-- The first half of R182: the wait for the floor, OTHER cleared, the wait for POOLs, and the header marked BUILDING. The buffer is never
one that a POOL holds (R189). The BUILDING header is performed at once, before any read of the master: as a posted store it might be performed
later (DESIGN CHOICE, log entry 94). -/
def State.beginBuild (s : State) (d h : Nat) (b : Build) : State :=
  let e := b.key / 2 ^ 40
  let x := s.entry d e
  let who := viewIssuer d h x.tenant
  let hva := vaAdd x.hdr (16 * (b.key % 2 ^ 40))
  let halt := s.haltView d e
  (s.engRead d who hva 8).else s halt fun hw => (s.engRead d who (vaAdd hva 8) 8).else s halt fun ow =>
    let hd := BitVec.ofNat 64 hw
    let o := BitVec.ofNat 64 ow
    let buf := hd.getLsbD 40
    let tb := if hdrState hd = 3 ∨ hdrVersion hd = 0 then buf else !buf
    let floor := ((s.viewWord d x.leader 27).extractLsb' 0 40).toNat
    if tb ≠ buf ∧ o.getLsbD 63 ∧ !b.cleared then
      if floor ≤ hdrVersion o then s
      else (s.engWrite d who (vaAdd hva 8) 8 0).else s halt fun s1 => (s1.pairTrip d who hva).modWork d h fun b => { b with cleared := true }
    else if (s.dev d).pooled x.hdr tb then s
    else match Table.find ((s.dev d).viewHart h).pend b.key with
      | none => s.modView d h fun q => { q with work := none }
      | some v =>
        let mark := if hdrState hd = 1 then s.engWrite d who hva 8 (headerWord 0 2 x.pol buf (hdrVersion hd)).toNat else .ok s
        mark.else s halt fun s1 => (s1.pairTrip d who hva).modView d h fun q =>
          { q with pend := Table.erase q.pend b.key, work := some { b with cleared := false, begun := some (v, tb) } }

/-- Read pieces of the master: the first that is refused is the block's FAULT. -/
def State.readMaster (s : State) (d h : Nat) (who : Issuer) : List (Nat × VA × Nat) → State
  | [] => s
  | (i, va, n) :: t =>
    match s.masterRead d who va n with
    | .fault f _ => s.modWork d h fun b => { b with fault := f }
    | .wait => s.readMaster d h who t
    | .ok v => ((s.readTrip d who va).modWork d h fun b => { b with got := Table.set b.got i v }).readMaster d h who t

/-- Add to a 32-bit counter of an entry, saturating (R174). -/
def State.addView (s : State) (d e k n : Nat) : State :=
  s.setView d e k (BitVec.ofNat 64 (min (2 ^ 32 - 1) (((s.viewWord d e k).extractLsb' 0 32).toNat + n)))

/-- Quantise a block whose master has been read (R183, R186, R189). A block that a NaN poisons counts nothing and writes nothing: the spec does not
say what its other elements count, nor what its buffer then holds (DESIGN CHOICE, log entry 93). -/
def State.quantise (s : State) (d h : Nat) (b : Build) : State :=
  let e := b.key / 2 ^ 40
  let n := b.key % 2 ^ 40
  let x := s.entry d e
  let m := s.leaderOf d e
  let f := miniFmt m.mfmt
  let rows := (List.range (m.extent n).2.1).map fun i => m.rowCodes n i b.got
  let vals := rows.map fun r => r.map f.decode
  let ready := fun (s : State) (l : List Word) => s.modWork d h fun b => { b with got := [], img := some l }
  if vals.any fun r => r.any FVal.isNaN then s.modWork d h fun b => { b with fault := 1 }
  else if m.table then ready s (rows.flatMap fun r => r.map fun a => BitVec.ofNat 64 (f.convert fp32 .ne a).1)
  else
    let img := blockImage x fun r k => (vals.getD r []).getD k FVal.zero
    ready ((s.addView d e 28 img.2.1).addView d e 29 img.2.2) (bytesWords img.1)

/-- Write words of an image, or the 4-byte values of a table, by number: a refusal gives the FAULT of R186. NACK 3 gives 0x05 at a
buffer that is not sharded too, for which the table has no code (DESIGN CHOICE, log entry 95). -/
def State.writeImage (s : State) (d h : Nat) (who : Issuer) (va : VA) (size : Nat) (img : List Word) : List Nat → State
  | [] => s
  | i :: t =>
    match s.engWrite d who (vaAdd va (size * i)) size (img.getD i 0).toNat with
    | .ok s1 => (s1.modWork d h fun b => { b with got := Table.set b.got i 1 }).writeImage d h who va size img t
    | .fault c f => s.modWork d h fun b => { b with fault := if c = 5 ∧ f = 3 then 5 else 3 }
    | .wait => s.writeImage d h who va size img t

/-- The end of R182: OTHER, then the header and BUILDS, one write an event. BUILDS saturates, which R174 says of SATCNT and OVFCNT alone (DESIGN
CHOICE, log entry 91). -/
def State.endBuild (s : State) (d h : Nat) (b : Build) (v : Nat) (tb : Bool) : State :=
  let e := b.key / 2 ^ 40
  let x := s.entry d e
  let who := viewIssuer d h x.tenant
  let hva := vaAdd x.hdr (16 * (b.key % 2 ^ 40))
  let halt := s.haltView d e
  (s.engRead d who hva 8).else s halt fun hw =>
    let hd := BitVec.ofNat 64 hw
    if tb ≠ hd.getLsbD 40 ∧ !b.cleared then
      (s.engWrite d who (vaAdd hva 8) 8 (2 ^ 63 + hdrVersion hd)).else s halt fun s1 => s1.modWork d h fun b => { b with cleared := true }
    else
      let w := if b.fault = 0 then headerWord 0 1 x.pol tb v else headerWord b.fault 3 x.pol tb v
      (s.engWrite d who hva 8 w.toNat).else s halt fun s1 =>
        (s1.setView d e 30 (BitVec.ofNat 64 (min (2 ^ 40 - 1) (((s1.viewWord d e 30).extractLsb' 0 40).toNat + 1)))).modView d h
          fun q => { q with work := none }

/-- The numbers that an event takes of those that are left: the move's, or all. -/
def State.taken (s : State) (left : List Nat) : List Nat := if s.cur.part = [] then left else left.filter s.cur.part.contains

/-- A step of a build that has begun: pieces of the master in any order, each read apart (R131, R184), words of the image in any order, and the
end (R182, R183) (DESIGN CHOICE, log entry 42). -/
def State.buildStep (s : State) (d h : Nat) (b : Build) (v : Nat) (tb : Bool) : State :=
  let e := b.key / 2 ^ 40
  let n := b.key % 2 ^ 40
  let x := s.entry d e
  let m := s.leaderOf d e
  let who := viewIssuer d h x.tenant
  if b.fault ≠ 0 then s.endBuild d h b v tb
  else match b.img with
    | none =>
      let left := (m.masterPieces n).filter fun p => (Table.find b.got p.1).isNone
      if left = [] then s.quantise d h b
      else
        let now := s.taken (left.map (·.1))
        s.readMaster d h who (left.filter fun p => now.contains p.1)
    | some img =>
      let left := (List.range img.length).filter fun i => (Table.find b.got i).isNone
      if left = [] then s.endBuild d h b v tb
      else
        let va := if x.shard then (dealPat (x 8) (x.buf tb)).dest n else vaAdd (x.buf tb) (n * x.z)
        s.writeImage d h who va (if m.table then 4 else 8) img (s.taken left)

/-- VIEW_BLOCK_BUILD (R182): a step of the block that the hart has taken, or it takes the lowest pending block of the lowest view. Each event
also takes one recorded commit from the queue of 64 (DEDUCED, log entry 27) (DESIGN CHOICE, log entry 17). -/
def execViewBlockBuild (hart : Nat) (s : State) : Out :=
  .next (
    let d := s.cur.dev
    let q := s.device.viewHart hart
    if 24 ≤ hart ∨ (s.core d (viewVcn hart)).failed then s
    else
      let s := (s.modView d hart fun q => { q with queued := q.queued - 1 }).takeCommits d hart q.full.length
      let q := (s.dev d).viewHart hart
      match q.work with
      | some b => match b.begun with
        | some (v, tb) => s.buildStep d hart b v tb
        | none => s.beginBuild d hart b
      | none => match q.pend with
        | (k, _) :: _ => s.modView d hart fun q => { q with work := some ⟨k, false, none, [], 0, none⟩ }
        | [] => s)

end Sys2Proof.Machine
end

