-- ==== Sys2Proof/Machine/Homes.lean ====
section
/-! DEFINITION. What a message in flight does when it arrives: homes and victims serve requests; replies, acknowledgements,
refusals, words of split loads and external fills land (R48, R96 to R99, R131, R134, R217, R266, R271, R273, R323, R324). -/

namespace Sys2Proof.Machine

/-! ## Turns that are due (R17, R249) -/

/-- A parked position issues if tick t is its turn: a pending trap is taken (R379), or its condition holds (R82, R250). -/
def State.wakes (s : State) (d v p t : Nat) : Bool :=
  let cid := (s.pos d v p).cid
  (s.ctx d cid).asyncReady || match (s.ctx d cid).wait with
    | some (.again on _) => ((s.modDev d fun x => { x with cycle := t % 2 ^ 64 }).focus d v p cid).condition on
    | _ => false

/-- A position issues if tick t is its turn: it runs, its dispatch is over, it is EMPTY and has a candidate, or what it waits for has come. -/
def State.turnReady (s : State) (d v p t : Nat) : Bool :=
  let q := s.pos d v p
  !s.stopped d v p && match q.st with
    | .running => (s.ctx d q.cid).wait.isNone
    | .dispatching u => tickDone u t
    | .empty => !(s.candidates d v (some p)).isEmpty
    | .parked => s.wakes d v p t

/-- A core issues nothing in this rotation (R17), or never (R354, R356). -/
def State.standsStill (s : State) (d v : Nat) : Bool :=
  (s.dev d).rotOff.contains (clusterOf v) || (s.core d v).fenced || (s.core d v).failed

/-- The turn of the present tick is still to come at a core. -/
def State.turnDue (s : State) (d v : Nat) : Bool :=
  let t := (s.dev d).cycle
  !s.standsStill d v && (s.core d v).turnAt != some t && s.turnReady d v (t % 8) t

/-! ## Homes -/

/-- A withdrawal finds its record: SEQ of the handle and the issuing core as sender, among records not yet taken (R271). -/
def InRec.sentAs (r : InRec) (seq dev vcn : Nat) : Bool :=
  r.record.seq == seq && r.record.sdev == dev && r.record.svcn == vcn && r.mark.isNone && !r.trap && !r.record.anti

/-- TCANCEL at a core's inbox, over the channels that `f` allows (R271): the state and the code, or none when no record matches. -/
def State.cancelAt (s : State) (d v seq : Nat) (who : Issuer) (f : Nat → Bool) : Option (State × Word) :=
  let k := s.core d v
  match indexOf (fun r => f r.ch && r.sentAs seq who.dev who.vcn) k.inbox with
  | none => none
  | some i => match k.inbox[i]? with
    | none => none
    | some r =>
      if r.record.reply then some (s, 1)
      else if (k.chan r.ch).isOrd then some (s, 2)
      else some (s.setCore d v { k with inbox := k.inbox.eraseIdx i }, 0)

/-- The record waits at an ordered channel of the target for the end of a rollback (R295). -/
def Core.orderedTask (k : Core) (seq : Nat) (who : Issuer) : Bool :=
  let hit := fun (r : Rec) => r.seq == seq && r.sdev == who.dev && r.svcn == who.vcn && !r.anti
  k.chans.any fun p => (p.2.waiting.any fun m => hit m.record) || match p.2.straggler with | some r => hit r.record | none => false

/-- TCANCEL at its target (R271): the target's inbox, then the own ch63 and the bounced ordered records. -/
def State.serveCancel (s : State) (who : Issuer) (h : Word) : State :=
  let dev := (h.extractLsb' 13 12).toNat
  let vcn := (h.extractLsb' 0 13).toNat
  let seq := (h.extractLsb' 25 39).toNat
  let k := s.core dev vcn
  let ans := fun (s : State) (a : Ans) => s.send (.ans (coreKey dev vcn) who .reply a)
  if k.fenced || k.failed then ans s (.nack 3)
  else match s.cancelAt dev vcn seq who fun c => c != 63 || dev == who.dev && vcn == who.vcn with
    | some r => ans r.1 (.vals [r.2])
    | none => match s.cancelAt who.dev who.vcn seq who fun c => c == 63 with
      | some r => ans r.1 (.vals [r.2])
      | none =>
        if k.orderedTask seq who || (s.core who.dev who.vcn).bounced.any fun b => b.1.record.seq == seq then ans s (.vals [2])
        else ans s (.vals [1])

/-- A request reaches an engine of the own device. -/
def State.serveEngine (s : State) (who : Issuer) : EngOp → State
  | .cpyq xc loc va => s.serveCpyq who xc loc va
  | .waitp t => s.serveWaitp who t
  | .vcommit loc xv => s.serveVcommit who loc xv
  | .vreclaim loc xv => s.serveVreclaim who loc xv

/-- HOME_SERVICE (R131): message n is an access, a request to an engine, or a TCANCEL; its home serves it. A TCANCEL waits for the turn of
the tick at its target's inbox and, for a bounced record, at the own core's: a dispatch in the same tick comes first (R271). -/
def execHomeService (n : Nat) (s : State) : Out :=
  .next (match s.net[n]? with
    | some (.req r) => (s.unsend n).homeStep r
    | some (.eng who op) => (s.unsend n).serveEngine who op
    | some (.cancel who h) =>
      if s.turnDue (h.extractLsb' 13 12).toNat (h.extractLsb' 0 13).toNat || s.turnDue who.dev who.vcn then s
      else (s.unsend n).serveCancel who h
    | _ => s)

/-- STEAL_SERVICE (R272, R273): message n is a DQSTEAL at its victim's port, which serves one operation per tick; the owner's turn of the
tick comes first. -/
def execStealService (n : Nat) (s : State) : Out :=
  .next (match s.net[n]? with
    | some (.steal who v) =>
      if s.turnDue who.dev v || (s.core who.dev v).dqTick == some (s.dev who.dev).cycle then s
      else
        let s := s.unsend n
        if (s.core who.dev v).fenced || (s.core who.dev v).failed then s.reply v who (.nack 3)
        else
          let r := s.stealAt who v
          r.1.reply v who (.vals r.2)
    | _ => s)

/-! ## Landings at the issuer (R96, R97, R99, R323, R324) -/

/-- REPLY_LANDS (R96, R324): message n is the answer of a reply-bearing access; it follows its context, and waits while a save or a move of it
is in progress (R325). An answer whose context has ended is discarded. -/
def execReplyLands (n : Nat) (s : State) : Out :=
  .next (match s.net[n]? with
    | some (.ans _ who .reply a) => if s.heldBack who.dev who.cid then s else ((s.unsend n).forward who.dev who.cid who.vcn).landAnswer who.dev who.cid a
    | some (.ans _ _ .nowhere _) => s.unsend n
    | _ => s)

/-- The journal entry of an acknowledgement at its core. -/
def State.entryOf (s : State) (who : Issuer) (i : Nat) : Option JEntry := Table.find (s.core who.dev who.vcn).journal i

/-- An entry is a send: its acknowledgement also frees or fills the reserved inbox place (R264, R265). -/
def JEntry.isSend (e : JEntry) : Bool := e.kind == 5 || e.kind == 6

/-- An entry, by core and index, or the split load of a context no longer holds back a tile command of its thread (R140). -/
def MJob.past (i : Option (Nat × Nat)) (cid : Nat) : MJob → MJob
  | .tile j => .tile { j with
      stores := match i with | some i => j.stores.filter (· ≠ i) | none => j.stores
      split := j.split && !(i.isNone && j.cid == cid) }
  | j => j

/-- An entry of a core's journal is answered: it is free, or stays as given; no tile command of the device waits for it any more. -/
def State.setEntry (s : State) (who : Issuer) (i : Nat) (e : Option JEntry) : State :=
  (s.modCore who.dev who.vcn fun k => { k with
    journal := match e with | some e => Table.set k.journal i e | none => Table.erase k.journal i }).mapCores who.dev fun k =>
      { k with mq := k.mq.map (MJob.past (some (who.vcn, i)) noCid) }

/-- One reserved inbox place of a core is given back. -/
def State.unreserve (s : State) (who : Issuer) : State :=
  s.modCore who.dev who.vcn fun k => { k with resv := k.resv - 1 }

/-- ACKNOWLEDGEMENT_LANDS (R97): message n acknowledges an entry, which is free from then on, or a copy hart's write (R124). An acknowledged
send with value 0 was accepted and gives its inbox place back; with value 1 its record has taken that place already (R265, R300). -/
def execAcknowledgementLands (n : Nat) (s : State) : Out :=
  .next (match s.net[n]? with
    | some (.ans _ who (.copy off _) (.vals l)) => (s.unsend n).copyAnswered who off (.vals l)
    | some (.ans _ who (.journal i) (.vals l)) =>
      let s := s.unsend n
      match s.entryOf who i with
      | none => s
      | some e =>
        if e.ref.isSome then s
        else
        let s := (s.setEntry who i none).forwardAck who.dev e.cid who.vcn
        let s := if e.isSend && l.headD 0 == 0 then s.unreserve who else s
        if e.fork && !e.gone then s.forkAnswered who else s
    | _ => s)

/-- The POSTREFUSE of a refused entry is pending at its context, or becomes a trap record when the context has ended or the
effect is jubilee's (R99, R301, R311, R312). -/
def State.refused (s : State) (who : Issuer) (i k : Nat) (e : JEntry) : State :=
  if e.gone || e.jubilee || !(s.ctx who.dev e.cid).alive then
    s.trapRecord who.dev who.vcn 0x06 (BitVec.ofNat 64 i) (refuseStat k) (if e.jubilee then noCid else e.cid)
  else
    let s := s.modCtx who.dev e.cid fun c => { c with pend := c.pend ++ [.postrefuse who.vcn i k] }
    let c := s.ctx who.dev e.cid
    if c.place.outside then s.setImage who.dev e.cid 56 c.pendImage else s

/-- POSTED_STORE_REFUSED (R99, R266): message n refuses a posted access, whose entry stays, marked, or a copy hart's write (R123). A refused
TCALL fills its continuation register with 0, as a TRET would, past every core that the context has left (R323), and waits while a save or a move
of the context is in progress (R325). -/
def execPostedStoreRefused (n : Nat) (s0 : State) : Out :=
  .next (match s0.net[n]? with
    | some (.ans _ who (.copy off _) (.nack k)) => (s0.unsend n).copyAnswered who off (.nack k)
    | some (.ans _ who (.journal i) (.nack k)) =>
      let s := s0.unsend n
      match s.entryOf who i with
      | none => s
      | some e =>
        if e.ref.isSome then s
        else if e.kind = 6 ∧ s.heldBack who.dev e.cid then s0
        else
        let s := (s.setEntry who i (some { e with ref := some k })).forwardAck who.dev e.cid who.vcn
        let s := if e.isSend then s.unreserve who else s
        let s := if e.kind = 6 then (s.forward who.dev e.cid who.vcn).tretFill who.dev e.cid e.creg 0 else s
        s.refused who i k e
    | _ => s0)

/-! ## Words of a split load (R134, R217) -/

/-- The bad word of lowest address. -/
def lowerBad (a : Option (VA × Nat)) (va : VA) (n : Nat) : Option (VA × Nat) :=
  match a with
  | some b => if va < b.1 then some (va, n) else some b
  | none => some (va, n)

/-- The VA of the word that fills byte `pos`. -/
def Split.vaAt (p : Split) (pos : Nat) : VA := ((p.vas.find? fun q => q.1 == pos).map (·.2)).getD 0

/-- A word lands in a split load: its bytes, or zeros and the note of its refusal. -/
def Split.land (p : Split) (pos n : Nat) (a : Ans) : Split :=
  let p := { p with left := p.left - 1 }
  match a with
  | .vals l => { p with val := putBytes p.val pos n (l.headD 0).toNat }
  | .nack k => { p with val := putBytes p.val pos n 0, bad := lowerBad p.bad (p.vaAt pos) k }
  | .trap _ _ k _ _ => { p with val := putBytes p.val pos n 0, bad := lowerBad p.bad (p.vaAt pos) k }

/-- The context after a word of its split load: the last word fills the destination, and a refused word leaves a pending trap. -/
def Ctx.landWord (c : Ctx) (p : Split) : Ctx :=
  if p.left = 0 then
    { (c.setV p.vd p.val) with
      split := none
      pend := match p.bad with | some b => c.pend ++ [.splitNack b.1 b.2] | none => c.pend }
  else { c with split := some p }

/-- SPLIT_LOAD_WORD_LANDS (R134, R217): message n is a word of a split load. -/
def execSplitLoadWordLands (n : Nat) (s : State) : Out :=
  .next (match s.net[n]? with
    | some (.ans _ who (.split pos w _) a) =>
      let s := (s.unsend n).forward who.dev who.cid who.vcn
      match (s.ctx who.dev who.cid).split with
      | none => s
      | some p =>
        let s := s.modCtx who.dev who.cid fun c => c.landWord (p.land pos w a)
        if (s.ctx who.dev who.cid).split.isSome then s
        else s.modCore who.dev (s.ctx who.dev who.cid).core fun k => { k with mq := k.mq.map (MJob.past none who.cid) }
    | _ => s)

/-! ## External fills (R48, R266, R324) -/

/-- EXTERNAL_FILL_ARRIVAL (R48, R266, R324): message n is a fill addressed to a context; that of a TRET ends a continuation. It waits while a
save or a move of the context is in progress (R325). -/
def execExternalFillArrival (n : Nat) (s : State) : Out :=
  .next (match s.net[n]? with
    | some (.fill _ d v cid vec r val tret) =>
      if s.heldBack d cid then s else
      let s := (s.unsend n).forward d cid v
      if tret then s.tretFill d cid r (val.extractLsb' 0 64) else s.externalFill d cid vec r val none
    | _ => s)

end Sys2Proof.Machine
end

