-- ==== Sys2Proof/Machine/Launch.lean ====
section
/-! DEFINITION. The launch harts: kick registers, the pending store, checks, deliveries, shares of a domain-wide launch, and the
mailbox status (R279 to R281, R338). -/

namespace Sys2Proof.Machine

/-- The VCN of a launch hart. -/
def launchVcn (h : Nat) : Nat := 4920 + h

/-- The issuer of a launch hart's accesses: task level of its tenant (R279). -/
def launchIssuer (d h ten : Nat) : Issuer := ⟨d, launchVcn h, noCid, false, ten⟩

/-- Change a launch hart. -/
def State.modLaunch (s : State) (d h : Nat) (f : LaunchHart → LaunchHart) : State :=
  s.modDev d fun v => { v with launch := Table.set v.launch h (f (v.launchHart h)) }

/-- A hart that works: a failed one ignores its registers and serves nothing (R356). -/
def State.launchAlive (s : State) (h : Nat) : Bool := !(s.core s.cur.dev (launchVcn h)).failed

/-! ## Kick registers (R279) -/

/-- LAUNCH_CONFIG_WRITE (R279): a supervisor store to kick register +0x08. -/
def execLaunchConfigWrite (hart : BitVec 2) (v : BitVec 64) (s : State) : Out :=
  .next (if s.launchAlive hart.toNat then s.modLaunch s.cur.dev hart.toNat fun h => h.config v else s)

/-- TAIL_STORE (R279): a store of TAIL by the supervisor, the host or the queue's tenant. -/
def execTailStore (hart : BitVec 2) (v : BitVec 64) (s : State) : Out :=
  .next (if s.launchAlive hart.toNat then s.modLaunch s.cur.dev hart.toNat fun h => h.storeTail (v.extractLsb' 0 32) else s)

/-! ## Reading the ring -/

/-- An engine reads n words. -/
def State.engWords (s : State) (d : Nat) (who : Issuer) (va : VA) : Nat → Got (List Word)
  | 0 => .ok []
  | n + 1 =>
    match s.engBytes d who va 8 with
    | .ok w => match s.engWords d who (vaAdd va 8) n with
      | .ok l => .ok (BitVec.ofNat 64 w :: l)
      | e => e
    | .fault c b => .fault c b
    | .wait => .wait

/-- The kind 0x0D entry of a launch (R361): SUB 0 record, 1 status. -/
def State.logLaunch (s : State) (d h sub : Nat) (va : Word) (cause n : Nat) : State :=
  s.log d 0x0D sub (launchVcn h) noCid va (BitVec.ofNat 64 (cause * 256 + n))

/-- The priority of a record: of its ENTRY, or of image 0 of its table; 0 when that cannot be read (DEDUCED, log entry 28). -/
def State.launchPrio (s : State) (d : Nat) (who : Issuer) (w : List Word) : Got Nat :=
  if dw w 7 = 0 then .ok ((dw w 0).extractLsb' 48 6).toNat
  else match s.engBytes d who (0#8 ++ dw w 7) 8 with
    | .ok e => .ok (e / 2 ^ 48 % 64)
    | .fault _ _ => .ok 0
    | .wait => .wait

/-- LAUNCH_RECORD_READ (R279, R281): the record at HEAD enters the pending store; one that cannot be read is skipped. -/
def execLaunchRecordRead (hart : BitVec 2) (s : State) : Out :=
  let d := s.cur.dev
  let n := hart.toNat
  let h := s.device.launchHart n
  let who := launchIssuer d n h.ten.toNat
  let va : VA := 0#8 ++ (h.qbase + BitVec.ofNat 64 (128 * (h.head.toNat % 2 ^ h.lsz.toNat)))
  .next (
    if !s.launchAlive n || !h.en || h.tail == h.head || decide (64 ≤ h.pend.length) then s
    else match s.engWords d who va 16 with
      | .wait => s
      | .fault c b =>
        (s.modLaunch d n fun h => { h with head := h.head + 1, lflt := true }).logLaunch d n 0 (va.extractLsb' 0 64) c b
      | .ok w => match s.launchPrio d who w with
        | .ok p => ((s.wordsTrip d who va 16).wordsTrip d who (0#8 ++ dw w 7) (if dw w 7 = 0 then 0 else 1)).modLaunch d n fun h =>
          { h with head := h.head + 1, pend := h.pend ++ [⟨va, w, p, h.ten.toNat⟩] }
        | _ => s)

/-! ## Levels and units (R280, R281) -/

/-- A level: kind, extent, first, and instances within the next level out. -/
structure Level where
  kind : Nat
  ext : Nat
  first : Nat
  n : Nat
deriving DecidableEq, Repr

/-- Positions in an instance of a kind; a domain's instances are devices (R338). -/
def kindSize : Nat → Nat
  | 0 => 1 | 1 => 8 | 2 => 1536 | 3 => 9216 | _ => 36864

/-- The least SCOPE of a kind (R280). -/
def kindScope : Nat → Nat
  | 0 => 0 | 1 => 0 | 2 => 2 | 3 => 3 | 4 => 3 | _ => 4

/-- The devices of the domain of device d, ascending. -/
def State.domainDevs (s : State) (d : Nat) : List Nat := (List.range 3072).filter fun n => s.inDomain d n

/-- A level dword, whose next level out has instances of `outer` positions (R280); none breaks the rule. -/
def levelOf (w : Word) (outer devs : Nat) (outermost : Bool) : Option Level :=
  let kind := (w.extractLsb' 0 3).toNat
  let sc := (w.extractLsb' 3 3).toNat
  let ext := (w.extractLsb' 8 24).toNat
  let first := (w.extractLsb' 32 24).toNat
  let n := if kind = 5 then devs else outer / kindSize kind
  if w.extractLsb' 6 2 ≠ 0#2 ∨ w.extractLsb' 56 8 ≠ 0#8 ∨ 5 < kind ∨ 5 < sc ∨ sc < kindScope kind ∨ n ≤ first ∨ n < ext
      ∨ ext = 0 ∧ !outermost then none
  else some ⟨kind, ext, first, n⟩

/-- The levels from the outermost dword in; kinds fall strictly. -/
def levelsFrom (devs : Nat) : Nat → Bool → List Word → Option (List Level)
  | _, _, [] => some []
  | above, outermost, w :: t =>
    match levelOf w (if outermost then 36864 else kindSize above) devs outermost with
    | none => none
    | some l =>
      if !outermost && decide (above ≤ l.kind) then none
      else (levelsFrom devs l.kind false t).map fun r => l :: r

/-- The levels of a record, outermost first (R280). -/
def State.launchLevels (s : State) (d : Nat) (w : List Word) : Option (List Level) :=
  let n := ((dw w 1).extractLsb' 40 3).toNat + 1
  if ((w.drop (8 + n)).take (8 - n)).any fun x => x ≠ 0 then none
  else match levelsFrom (s.domainDevs d).length 6 true ((w.drop 8).take n).reverse with
    | some (l :: t) => if (l.kind == 5) == (dw w 1).getLsbD 43 then some (l :: t) else none
    | _ => none

/-- EXTENT, with 0 counted as every instance. -/
def Level.extent (l : Level) : Nat := if l.ext = 0 then l.n else l.ext

/-- The product of the extents. -/
def extentProduct (l : List Level) : Nat := l.foldl (fun a x => a * x.extent) 1

/-- The instance that a unit reaches, level by level from the outside in: its number, within the own device below a domain level
(R281). `inner` levels come with the product of the extents inside them. -/
def instanceOf (u : Nat) : Nat → List Level → Nat
  | idx, [] => idx
  | idx, l :: t =>
    let c := u / extentProduct t % l.extent
    instanceOf u (if l.kind = 5 then 0 else idx * l.n + (c + l.first) % l.n) t

/-- The device and the core of a unit (R281, R338). -/
def unitPlace (devs : List Nat) (own u : Nat) (l : List Level) : Nat × Nat :=
  let dev := match l with
    | x :: t => if x.kind = 5 then devs.getD ((u / extentProduct t % x.extent + x.first) % x.n) own else own
    | [] => own
  let kind := (l.getLast?.map (·.kind)).getD 1
  let idx := instanceOf u 0 l
  let cores := kindSize kind / 8
  (dev, if kind = 0 then idx / 8 else idx * cores + u / extentProduct l % cores)

/-- A launch record breaks a format rule before its table is read (R280, R281). -/
def launchBad (w : List Word) : Bool :=
  (dw w 0).extractLsb' 60 4 != 0#4 || (dw w 1).extractLsb' 44 20 != 0#20 || (dw w 4).extractLsb' 18 46 != 0#46
    || (dw w 4).toNat % 64 != 0 || dw w 7 != 0 && dw w 0 != 0 || (dw w 7).toNat % 8 != 0

/-- A table image breaks its format (R281). -/
def imageBad (r : List Word) : Bool := (dw r 0).extractLsb' 60 4 != 0#4 || dw r 1 != 0 || (dw r 3).extractLsb' 4 60 != 0#60

/-- Groups of eight words. -/
def octets : Nat → List Word → List (List Word)
  | 0, _ => []
  | n + 1, l => l.take 8 :: octets n (l.drop 8)

/-- Unit u's record and binding (R281): d2 names the hart, whose count of records is `seq` before the launch (DEDUCED, log entry 28). -/
def unitRecord (d h : Nat) (seq : BitVec 39) (w : List Word) (tab : List (List Word)) (u : Nat) : Rec × Option (BitVec 3) :=
  let img := tab.getD u []
  let d0 := if dw w 7 = 0 then dw w 0 else dw img 0
  let b := if dw w 7 ≠ 0 ∧ (dw img 3).getLsbD 3 then some ((dw img 3).extractLsb' 0 3) else none
  (⟨d0, 0, stampD2 d (launchVcn h) (seq + BitVec.ofNat 39 u), 0, BitVec.ofNat 64 u, (dw w 1).extractLsb' 0 40 |>.zeroExtend 64, dw w 5, dw w 6⟩, b)

/-! ## Deliveries (R281) -/

/-- The outcome of a delivery. -/
inductive Landing where
  | ok (s : State)
  | wait
  | refused
  /-- The channel is ordered. -/
  | ordered

/-- The image enters a core's local storage before its first unit. -/
def State.placeImage (s : State) (d v : Nat) (b : Batch) : State :=
  if b.img = [] ∨ b.imaged.contains v then s
  else (s.writeBytes (lsLoc d v 0) b.img).serveRange (lsLoc d v 0) b.img.length

/-- A unit record reaches its core (R265, R281, R286). -/
def State.deliver (s : State) (d : Nat) (b : Batch) (x : Delivery) : Landing :=
  let k := s.core d x.vcn
  let c := k.chan x.record.chan
  if k.fenced || k.failed || !c.en || c.isSup then .refused
  else if k.tenant.isSome && k.tenant != some b.ten && !s.idle d x.vcn then .wait
  else if c.isOrd then .ordered
  else
    let r : InRec := ⟨x.record, x.record.chan, b.ten, false, (s.dev d).cycle, x.binding, none, false⟩
    match c.bound with
    | some cid => .ok ((s.placeImage d x.vcn b).deliverBound d x.vcn cid r)
    | none => if k.inboxRoom then .ok ((s.placeImage d x.vcn b).putInbox d x.vcn r) else .wait

/-- One delivery of a batch is tried; `keep` are those before it that wait. -/
def State.tryDelivery (s : State) (d : Nat) (b : Batch) (keep : List Delivery) (x : Delivery) (rest : List Delivery) :
    State × Batch :=
  match s.deliver d b x with
  | .ok s' => (s', { b with
      moved := b.moved + 1
      imaged := if b.img = [] ∨ b.imaged.contains x.vcn then b.imaged else x.vcn :: b.imaged
      wait := keep ++ rest })
  | .wait => (s, { b with wait := keep ++ x :: rest })
  | .refused => (s, { b with refused := true, wait := [] })
  | .ordered => (s, { b with refused := true, fmt := true, wait := [] })

/-- Every delivery of a batch is tried once, in order; a refusal ends them. -/
def State.deliverAll (s : State) (d : Nat) (b : Batch) (keep : List Delivery) : List Delivery → State × Batch
  | [] => (s, { b with wait := if b.refused then [] else keep })
  | x :: t =>
    match s.deliver d b x with
    | .wait => s.deliverAll d b (keep ++ [x]) t
    | .refused => (s, { b with refused := true, wait := [] })
    | .ordered => (s, { b with refused := true, fmt := true, wait := [] })
    | .ok _ =>
      let r := s.tryDelivery d b [] x []
      r.1.deliverAll d r.2 keep t

/-! ## The end of a launch -/

/-- The mailbox status (R281): an STFF at .sy, or its loss; while its home holds it, the hart keeps it. -/
def State.launchStatus (s : State) (d h ten code moved : Nat) (mb : Word) : State :=
  let va : VA := 0#8 ++ mb
  let who := launchIssuer d h ten
  let a : Acc := .stff (BitVec.ofNat 64 (code * 2 ^ 40 + moved))
  let lost := fun (s : State) (c n : Nat) => (s.modLaunch d h fun q => { q with lflt := true }).logLaunch d h 1 mb c n
  if mb = 0 then s
  else if mb.toNat % 16 ≠ 0 then lost s 0x02 0
  else match s.engDo d who va a .sync with
    | .ok s' => s'
    | .fault c n => lost s c n
    | .wait => s.modLaunch d h fun q => { q with post := q.post ++ [(ten, code, moved, mb)] }

/-- At the end of a move each hart tries the statuses that it has kept. -/
def State.launchPosts (s : State) : State :=
  s.devs.foldl (fun s p => p.2.launch.foldl (fun s q =>
    if q.2.post = [] ∨ (s.core p.1 (launchVcn q.1)).failed then s
    else q.2.post.foldl (fun s x => s.launchStatus p.1 q.1 x.1 x.2.1 x.2.2.1 x.2.2.2)
      (s.modLaunch p.1 q.1 fun h => { h with post := [] })) s) s

/-- A launch ends. -/
def State.launchEnd (s : State) (d h ten code moved : Nat) (mb : Word) : State :=
  (s.modLaunch d h fun q => { q with job := none }).launchStatus d h ten code moved mb

/-- The launch in service ends when nothing waits and every share has been answered (R281, R338). -/
def State.launchSettle (s : State) (d h : Nat) (j : LJob) : State :=
  if j.own.wait ≠ [] ∨ j.shares ≠ [] then s.modLaunch d h fun q => { q with job := some j }
  else
    let code := if j.own.fmt && !j.dom then 3 else if j.own.refused || j.short then 4 else 0
    s.launchEnd d h j.own.ten code (j.own.moved + j.moved) j.mb

/-- A share is answered to the hart of the same index at its issuer when nothing of it waits (R338); a device that is down gets no answer. -/
def State.shareSettle (s : State) (d h : Nat) (p : PShare) : Option State :=
  if p.part.wait ≠ [] then none
  else some (if s.reachable d p.src then s.send (.shareAns d p.src h p.job p.part.moved p.total) else s)

/-- The units of a launch for device n. -/
def unitsFor (n : Nat) (l : List (Nat × Delivery)) : List Delivery := (l.filter fun x => x.1 == n).map (·.2)

/-- The service of a record that has passed its checks: own deliveries and shares. -/
def State.launchUnits (s : State) (d h : Nat) (r : LRec) (lv : List Level) (tab : List (List Word)) (img : List Byte) : State :=
  let devs := s.domainDevs d
  let count := ((dw r.d 1).extractLsb' 0 40).toNat
  let units := (List.range count).map fun u =>
    let p := unitPlace devs d u lv
    let q := unitRecord d h (s.core d (launchVcn h)).seq r.d tab u
    (p.1, (⟨p.2, q.1, q.2⟩ : Delivery))
  let others := devs.filter fun n => n != d && !(unitsFor n units).isEmpty
  let up := others.filter fun n => s.reachable d n
  let q := (s.dev d).launchHart h
  let num := (s.dev d).flash.resets * 2 ^ 32 + q.jobs
  let s := (s.modCore d (launchVcn h) fun k => { k with seq := k.seq + BitVec.ofNat 39 count }).modLaunch d h fun q =>
    { q with jobs := q.jobs + 1 }
  let s := up.foldl (fun s n => s.send (.share d n h num r.ten img (unitsFor n units))) s
  let o := s.deliverAll d ⟨r.ten, img, [], 0, [], false, false⟩ [] (unitsFor d units)
  o.1.launchSettle d h ⟨num, dw r.d 2, (dw r.d 1).getLsbD 43, o.2, up, 0, up.length != others.length⟩

/-- The bytes of the image of a record. -/
def State.launchImage (s : State) (d : Nat) (who : Issuer) (w : List Word) : Got (List Byte) :=
  if dw w 3 = 0 then .ok []
  else match s.engWords d who (0#8 ++ dw w 3) ((dw w 4).toNat / 8) with
    | .ok l => .ok (wordsBytes l)
    | .fault c b => .fault c b
    | .wait => .wait

/-- The service of a pending record (R281). -/
def State.launchServe (s : State) (d h : Nat) (r : LRec) : State :=
  let w := r.d
  let who := launchIssuer d h r.ten
  let s1 := s.modLaunch d h fun q => { q with pend := q.pend.erase r }
  let stop := fun (s : State) (code : Nat) => s.launchStatus d h r.ten code 0 (dw w 2)
  let count := ((dw w 1).extractLsb' 0 40).toNat
  match (if launchBad w then none else s.launchLevels d w) with
  | none => stop s1 3
  | some lv =>
    if count = 0 then stop s1 1
    else if 2 ^ 32 < count ∨ (lv.headD ⟨0, 0, 0, 0⟩).ext ≠ 0 ∧ extentProduct lv < count ∨ dw w 7 ≠ 0 ∧ 4096 < count then stop s1 2
    else match (if dw w 7 = 0 then .ok [] else s.engWords d who (0#8 ++ dw w 7) (8 * count)) with
      | .wait => s
      | .fault _ _ => stop s1 4
      | .ok tw =>
        let tab := octets (tw.length / 8) tw
        let s2 := s1.wordsTrip d who (0#8 ++ dw w 7) tw.length
        if tab.any imageBad then stop s2 3
        else match s.launchImage d who w with
          | .wait => s
          | .fault _ _ => stop s2 4
          | .ok img => (s2.wordsTrip d who (0#8 ++ dw w 3) (img.length / 8)).launchUnits d h r lv tab img

/-- The pending record to be served: highest PRIO, then first read (R279). -/
def LaunchHart.next (h : LaunchHart) : Option LRec :=
  h.pend.foldl (fun a r => match a with | none => some r | some b => if b.prio < r.prio then some r else some b) none

/-- LAUNCH (R281): the hart serves its next pending record. -/
def execLaunch (hart : BitVec 2) (s : State) : Out :=
  let d := s.cur.dev
  let n := hart.toNat
  let h := s.device.launchHart n
  .next (
    if !s.launchAlive n || h.job.isSome then s
    else match h.next with
      | none => s
      | some r => s.launchServe d n r)

/-! ## Waiting deliveries and shares -/

/-- One waiting delivery of a batch is tried again. -/
def State.retryDelivery (s : State) (d : Nat) (b : Batch) (n : Nat) : State × Batch :=
  match b.wait[n]? with
  | some x => s.tryDelivery d b (b.wait.take n) x (b.wait.drop (n + 1))
  | none => (s, b)

/-- A waiting delivery of a peer's share: n counts over the shares in order. -/
def State.retryShares (s : State) (d h : Nat) (pre : List PShare) (n : Nat) : List PShare → State
  | [] => s
  | p :: t =>
    if n < p.part.wait.length then
      let o := s.retryDelivery d p.part n
      let p' := { p with part := o.2 }
      match o.1.shareSettle d h p' with
      | some s' => s'.modLaunch d h fun q => { q with peer := pre ++ t }
      | none => o.1.modLaunch d h fun q => { q with peer := pre ++ p' :: t }
    else s.retryShares d h (pre ++ [p]) (n - p.part.wait.length) t

/-- LAUNCH_DELIVERY (R281): waiting delivery n of the hart, of its own launch first and then of peers' shares, is tried. -/
def execLaunchDelivery (hart : BitVec 2) (n : Nat) (s : State) : Out :=
  let d := s.cur.dev
  let i := hart.toNat
  let h := s.device.launchHart i
  let m := (h.job.map fun j => j.own.wait.length).getD 0
  .next (
    if !s.launchAlive i then s
    else if n < m then
      match h.job with
      | some j =>
        let o := s.retryDelivery d j.own n
        o.1.launchSettle d i { j with own := o.2 }
      | none => s
    else s.retryShares d i [] (n - m) h.peer)

/-- A share reaches the hart of its index (R338): accepted when the hart serves the same tenant, or refused. -/
def State.takeShare (s : State) (src d h job ten : Nat) (img : List Byte) (units : List Delivery) : State :=
  let q := (s.dev d).launchHart h
  if q.en && q.ten.toNat == ten && !(s.core d (launchVcn h)).failed then
    let o := s.deliverAll d ⟨ten, img, [], 0, [], false, false⟩ [] units
    let p : PShare := ⟨src, job, units.length, o.2⟩
    (o.1.shareSettle d h p).getD (o.1.modLaunch d h fun q => { q with peer := q.peer ++ [p] })
  else if s.reachable d src then s.send (.shareAns d src h job 0 units.length)
  else s

/-- The answer to a share reaches its issuer (R338): it counts for the launch that sent the share, once. -/
def State.shareAnswered (s : State) (src d h job moved total : Nat) : State :=
  match ((s.dev d).launchHart h).job with
  | some j =>
    if j.num ≠ job ∨ !j.shares.contains src then s
    else s.launchSettle d h { j with shares := j.shares.erase src, moved := j.moved + moved, short := j.short || moved != total }
  | none => s

/-- DOMAIN_LAUNCH_SHARE (R338): message n is a share or the answer to one. -/
def execDomainLaunchShare (n : Nat) (s : State) : Out :=
  .next (match s.net[n]? with
    | some (.share src dst h job ten img units) => (s.unsend n).takeShare src dst h job ten img units
    | some (.shareAns src dst h job moved total) => (s.unsend n).shareAnswered src dst h job moved total
    | _ => s)

end Sys2Proof.Machine
end

