-- ==== Sys2Proof/Machine/Contain.lean ====
section
/-! DEFINITION. Containment: rectangles, fences and releases, checker failures, and the loss of engine parts (R353 to R356). -/

namespace Sys2Proof.Machine

/-! ## Rectangles (R349, R350) -/

/-- Fields of a rectangle dword. -/
def rectValid (w : Word) : Bool := w.getLsbD 63
def rectFence (w : Word) : Bool := w.getLsbD 62
def rectW (w : Word) : Nat := (w.extractLsb' 16 7).toNat
def rectH (w : Word) : Nat := (w.extractLsb' 24 6).toNat + 1

/-- A valid rectangle is malformed: W outside 1 to 72, or vx0 above 71 (R349). -/
def rectBad (w : Word) : Bool := rectW w == 0 || decide (72 < rectW w) || decide (71 < (w.extractLsb' 0 7).toNat)

/-- The cores of a rectangle, which wraps modulo 72 and 64 (R350). -/
def rectCores (w : Word) : List Nat :=
  let x0 := (w.extractLsb' 0 7).toNat
  let y0 := (w.extractLsb' 8 6).toNat
  (List.range (rectH w)).flatMap fun y => (List.range (rectW w)).map fun x => vcnAt ((x0 + x) % 72) ((y0 + y) % 64)

/-- The lowest VCN of a list of cores. -/
def lowestVcn (l : List Nat) : Nat := l.foldl min 8191

/-- The valid rectangle of a device that holds a core. -/
def Device.rectOf (v : Device) (vcn : Nat) : Option Word := v.obs.rect.find? fun w => rectValid w && (rectCores w).contains vcn

/-! ## Trap records of containment (R355) -/

/-- The core that receives CHECKER and CONTAIN records: MON, or the lowest VCN that is not fenced. -/
def State.monitor (s : State) (d : Nat) : Nat :=
  let m := (s.dev d).obs.mon % 2 ^ 13
  if (s.core d m).fenced || decide (4607 < m) then ((List.range 4608).find? fun v => !(s.core d v).fenced).getD m else m

/-- A CHECKER or CONTAIN trap record with a VCN. -/
def State.monitorRecord (s : State) (d cause vcn : Nat) : State :=
  s.trapRecord d (s.monitor d) cause (BitVec.ofNat 64 vcn) 0 noCid

/-! ## Fences (R354) -/

/-- A channel forgets its tasks and waiting records. -/
def Chan.clear (c : Chan) : Chan :=
  { c with bound := none, rollback := none, straggler := none, waiting := [], wu := 0, wo := 0, wd := 0, tasks := [] }

/-- A core is fenced and reset; its CSRs and its loaded channel table stay (DEDUCED, log entry 29). -/
def Core.fence (k : Core) : Core :=
  { k with
    tenant := none
    kmap := []
    acc := []
    accBad := []
    mq := []
    mdone := []
    vq := []
    journal := []
    inbox := []
    resv := 0
    deque := []
    runq := []
    chans := k.chans.map fun p => (p.1, p.2.clear)
    ch63 := k.ch63.clear
    comb := []
    fwd := []
    bounced := []
    jubilee := false
    dqTick := none
    paused := []
    fenced := true
    noEvict := []
    obs := { k.obs with marks := [], markNext := false, out := [] } }

/-- The contexts of cores of a device whose place is as f says. -/
def State.contextsIn (s : State) (d : Nat) (vs : List Nat) (f : Place → Bool) : List Nat :=
  (s.ctxs.filter fun p => keyDev p.1 == d && p.2.alive && vs.contains p.2.core && f p.2.place).map fun p => p.1 % 2 ^ 25

/-- A fence ends a context in a position, and one that only the emptied run queue named; an evicted or SAVED one stays in its record (R354)
(DEDUCED, log entry 29). -/
def Place.lost : Place → Bool
  | .resident | .runq _ => true
  | _ => false

/-- What comes back to contexts of a device that stay in their records is dropped: replies, fills, and their places at homes (R354). -/
def State.dropFor (s : State) (d : Nat) (cids : List Nat) : State :=
  let s := s.reroute fun w r => w.dev == d && r.toCtx && cids.contains w.cid
  { s with net := s.net.filter fun m => !cids.any fun c => m.fillsCtx d c }

/-- A context is lost without a save. -/
def State.loseContext (s : State) (d cid : Nat) : State := (s.modCtx d cid fun c => { c with pend := [] }).endContext d cid

/-- The records that wait in a core's channels for the end of a rollback are refused. -/
def State.refuseWaiting (s : State) (d v : Nat) : State :=
  ((s.core d v).chans.flatMap fun p => p.2.waiting).foldl (fun s m => s.refuseRecord v m 3) s

/-- The place of a waiter lies in the local storage of one of the cores. -/
def Waiter.inLs (w : Waiter) (d : Nat) (vs : List Nat) : Bool :=
  match w.req.loc with
  | some l => regionOf l == .ls && locDev l == d && vs.contains (lsVcn l)
  | none => false

/-- Waiters that f picks are answered with NACK n and leave their lists (R313). -/
def State.nackWaiters (s : State) (n : Nat) (f : Waiter → Bool) : State :=
  (s.waiters.filter f).foldl (fun s w => s.answerWaiter w (.nack n)) { s with waiters := s.waiters.filter fun w => !f w }

/-- The cores are fenced and reset in one tick (R354). -/
def State.fenceCores (s : State) (d : Nat) (vs : List Nat) : State :=
  let s := vs.foldl (fun s v => s.refuseWaiting d v) s
  let s := (s.contextsIn d vs Place.lost).foldl (fun s c => s.loseContext d c) s
  let s := s.dropFor d (s.contextsIn d vs fun p => !p.lost)
  let s := s.reroute fun w r => w.dev == d && !r.toCtx && vs.contains w.vcn
  let s := s.nackWaiters 3 fun w => w.inLs d vs
  vs.foldl (fun s v => (s.modCore d v Core.fence).scrubLs d v) s

/-- A fence with its record and its log entry: SUB 0 by load, 1 by checker. -/
def State.fence (s : State) (d sub : Nat) (vs : List Nat) (dword : Word) : State :=
  let low := lowestVcn vs
  ((s.fenceCores d vs).monitorRecord d 0x13 low).log d 0x07 sub low noCid (BitVec.ofNat 64 low) dword

/-- A rectangle is released; a core that failed its checker stays fenced (R355). -/
def State.releaseRect (s : State) (d : Nat) (w : Word) : State :=
  let vs := rectCores w
  let s := vs.foldl (fun s v => s.modCore d v fun k => { k with fenced := k.failed, tenant := none }) s
  s.log d 0x08 0 (lowestVcn vs) noCid (BitVec.ofNat 64 (lowestVcn vs)) w

/-- Loading the block of VCN 0 fences and releases the valid rectangles (R355). -/
def State.applyRects (s : State) (d : Nat) (l : List Word) : State :=
  (l.filter rectValid).foldl (fun s w =>
    let vs := rectCores w
    if rectFence w then (if vs.all fun v => (s.core d v).fenced then s else s.fence d 0 vs w)
    else if vs.any fun v => (s.core d v).fenced && !(s.core d v).failed then s.releaseRect d w
    else s) s

/-! ## Failures (R353, R356) -/

/-- The physical cores that serve the virtual indices of a cluster: those of its remap table, which binds them one-to-one; a list that does not
is no remap table, and index i is served by core i (R15; DESIGN CHOICE, log entry 4). -/
def physicalOf (b : BootCfg) (c : Nat) : List Nat :=
  let l := b.remap.getD c []
  if l.length = 192 ∧ l.Nodup ∧ l.all (· < 200) then l else List.range 192

/-- The physical core that serves a visible compute core: the one that replaced it at the reset, or that of the configuration image (R15,
R356). -/
def Device.physical (v : Device) (vcn : Nat) : Nat :=
  let c := vcn / 192
  (Table.find v.remap vcn).getD (200 * c + (physicalOf v.flash.cfg c).getD (vcn % 192) 0)

/-- A copy hart fails: its commands are lost, waiting CPYQs are refused, and a page move is given up at the old home. -/
def State.failCopy (s : State) (d h : Nat) : State :=
  let c := (s.dev d).copyHart h
  let s := c.full.foldl (fun s q => s.reply (copyVcn h) q.1 (.nack 3)) s
  let s := s.modCopy d h fun c => { CopyHart.reset with accepted := c.accepted, completed := c.completed, move := c.move }
  match c.move with
  | some m => s.abandonPage d h m
  | none => s

/-- A channel core fails: every access that waits at the homes it fronts is answered with NACK 3. -/
def State.failChannel (s : State) (d v : Nat) : State :=
  let s := s.nackWaiters 3 fun w => match w.req.loc with
    | some l => (regionOf l == .hbm || regionOf l == .lp) && locDev l == d && channelCore l == v
    | none => false
  let c := (s.dev d).log? v
  c.held.foldl (fun s r => s.answer r (.nack 3))
    (s.modDev d fun dv => { dv with chcore := Table.set dv.chcore v { c with held := [] } })

/-- A part fails for good: until the next reset it stays fenced. -/
def State.failPart (s : State) (d v : Nat) : State :=
  let s := s.modCore d v fun k => { k with failed := true, fenced := true }
  if v < 4608 then
    s.modDev d fun dv => { dv with flash := { dv.flash with failedCores := putNat dv.flash.failedCores (dv.physical v) } }
  else if v < 4704 then s.failCopy d (v - 4608)
  else if 4728 ≤ v ∧ v < 4920 then s.failChannel d v
  else s

/-- A checker failure of part v at a pc of a context and its tenant (R353): the fence, the failure, the CHECKER record and the log entry. -/
def State.checkerFailure (s : State) (d v cid : Nat) (ten : Option Nat) (pc : Word) : State :=
  let r := if v < 4608 then (s.dev d).rectOf v else none
  let s := match r with
    | some w => s.fence d 1 (rectCores w) w
    | none => s.fence d 1 [v] 0
  ((s.failPart d v).monitorRecord d 0x11 v).logFor d 0x06 0 v cid ten pc 0

end Sys2Proof.Machine
end

