-- ==== Sys2Proof/Machine/Observe.lean ====
section
/-! DEFINITION. Observation: the control block, the checkpoint log's start, trace records, MARK and samples, the almanac, the
log's heads, and soft errors (R327, R348 to R350, R357 to R366). -/

namespace Sys2Proof.Machine

/-! ## Reading a block at a CSR write (R350) -/

/-- What reading a block gives: its words, a trap at a VA, or a home that holds the read (R41). -/
inductive Block where
  | ok (l : List Word)
  | fault (cause sub : Nat) (va : VA)
  | wait (va : VA)

/-- n dwords from a VA, read as loads of the thread's core under tenant 0. -/
def State.readBlock (s : State) (va : VA) : Nat → Block
  | 0 => .ok []
  | n + 1 =>
    match s.engRead s.cur.dev (partIssuer s.cur.dev s.cur.vcn) va 8 with
    | .fault c b => .fault c b va
    | .wait => .wait va
    | .ok w => match s.readBlock (vaAdd va 8) n with
      | .ok l => .ok (BitVec.ofNat 64 w :: l)
      | e => e

/-- Go on with a block's words, or trap as a load would, or try again. -/
def State.withBlock (s : State) (va : VA) (n : Nat) (k : List Word → State → State) : State :=
  match s.readBlock va n with
  | .ok l => k l (s.wordsTrip s.cur.dev (partIssuer s.cur.dev s.cur.vcn) va n)
  | .fault c b a => s.trapVa c a b
  | .wait a => s.park (.held a)

/-! ## The control block (R349, R350) -/

/-- A reserved bit of the core's part is set, or N is out of range. -/
def blockBad (l : List Word) : Bool :=
  let n := ((dw l 0).extractLsb' 0 5).toNat
  (dw l 0).extractLsb' 6 26 != 0#26 || n != 0 && (decide (n < 8) || decide (20 < n)) || (dw l 2).extractLsb' 24 40 != 0#40
    || dw l 7 != 0 || (l.drop 32).any fun w => w != 0

/-- A reserved bit of the device's part is set, or the checkpoint region does not fit its channel (R357; DEDUCED, log entry 30). -/
def deviceBad (l : List Word) : Bool :=
  let ck := dw l 6
  let lines := (ck.extractLsb' 24 24).toNat
  (dw l 3).extractLsb' 13 51 != 0#51 || (dw l 4).extractLsb' 32 32 != 0#32 || (dw l 4).extractLsb' 5 11 != 0#11
    || ck.extractLsb' 48 15 != 0#15 || ck.extractLsb' 11 13 != 0#13
    || ck.getLsbD 63 && (lines == 0 || decide (0x60000000 < (ck.extractLsb' 0 11).toNat * 2 ^ 20 + 64 + 72 * lines))
    || (List.range 4).any fun k => (dw l (8 + 2 * k)).extractLsb' 24 39 != 0#39

/-- Reserved bits of a rectangle dword. -/
def rectReserved (w : Word) : Bool :=
  w.extractLsb' 30 32 != 0#32 || w.getLsbD 23 || w.extractLsb' 14 2 != 0#2 || w.getLsbD 7

/-- A rectangle is malformed, or two valid rectangles share a core (R350). -/
def rectsBad (l : List Word) : Bool :=
  let v := l.filter rectValid
  l.any rectReserved || v.any rectBad || (List.range v.length).any fun i => (List.range i).any fun j =>
    (rectCores (v.getD i 0)).any (rectCores (v.getD j 0)).contains

/-- The device's dwords. -/
def deviceWords (l : List Word) : List Word := (l.drop 3).take 4 ++ (l.drop 8).take 24

/-- The load of a block traps ILLEGAL on a core (R350). -/
def loadBad (l : List Word) (vcn : Nat) : Bool :=
  blockBad l || if vcn = 0 then deviceBad l || rectsBad ((l.drop 16).take 16) else (deviceWords l).any fun w => w != 0

/-! ## Checkpoint logs (R357, R358) -/

/-- A channel core's log starts interval 0, with an LDFE on its CLOSE word, or stops; the writes that it held go on. -/
def State.startCkpt (s : State) (d : Nat) (on : Bool) (v : Nat) : State :=
  let held := ((s.dev d).log? v).held
  let s := s.modDev d fun dv => { dv with chcore := Table.set dv.chcore v ⟨on, 0, 0, [], held⟩ }
  let base := s.ckptBase d v
  let others : List Waiter := s.waiters.filter fun w => !(w.isClose && w.req.dst == d && w.req.who.vcn == v)
  let s := if on then
      ((({ s with waiters := others ++ [⟨closeReq d v base, false⟩] } : State).ckptHead base 0 0 0).serve base).serve (base + 8)
    else { s with waiters := others }
  s.drainHeld d v held.length

/-- CKPT is loaded: every channel core starts or stops its log. -/
def State.loadCkpt (s : State) (d : Nat) (w : Word) : State :=
  if !(s.dev d).obs.ckpt.getLsbD 63 && !w.getLsbD 63 then s.modDev d fun v => { v with obs := { v.obs with ckpt := w } }
  else ((List.range 192).map (4728 + ·)).foldl (fun s v => s.startCkpt d (w.getLsbD 63) v)
    (s.modDev d fun v => { v with obs := { v.obs with ckpt := w } })

/-! ## SAMPCFG (R348, R350, R355) -/

/-- The device's part is loaded: monitor, almanac, breakpoints, rectangles, checkpoint logs. -/
def State.loadDevice (s : State) (d : Nat) (l : List Word) : State :=
  let rects := (l.drop 16).take 16
  let brk := (List.range 4).map fun k => (dw l (8 + 2 * k), dw l (9 + 2 * k))
  let s := s.modDev d fun v =>
    { v with obs := { v.obs with mon := (dw l 3).toNat, alm := dw l 4, almbase := dw l 5, brk := brk, rect := rects } }
  (s.loadCkpt d (dw l 6)).applyRects d rects

/-- Sampling and marks stop on a core; on VCN 0 the almanac, the checkpoint logs and the breakpoints stop too. -/
def State.stopObserving (s : State) (d v : Nat) : State :=
  let s := s.modCore d v fun k => { k with obs := { k.obs with samp := 0, markNext := false, marks := [] } }
  if v = 0 then (s.modDev d fun v => { v with obs := { v.obs with alm := 0, brk := [] } }).loadCkpt d 0 else s

/-- A write of sampcfg (R348, R350). -/
def State.writeSampcfg (s : State) (w : Word) (k : State → State) : State :=
  let d := s.cur.dev
  let v := s.cur.vcn
  let reg := w &&& ~~~0x1FE#64
  if w.getLsbD 0 then
    s.withBlock (0#8 ++ (w &&& ~~~0x1FF#64)) 64 fun l s =>
      if loadBad l v then s.illegalVal w
      else
        let s := s.modCore d v fun c => { c with
          sampcfg := reg
          obs := { c.obs with samp := dw l 0, tbuf := dw l 1, tcnt := dw l 2, left := 0, markNext := false } }
        k (if v = 0 then s.loadDevice d l else s)
  else k ((s.modCore d v fun c => { c with sampcfg := reg }).stopObserving d v)

/-- SAMPCFG_WRITE (R350): the effect of a write of sampcfg by the thread. -/
def execSampcfgWrite (v : BitVec 64) (s : State) : Out := .next (s.writeSampcfg v id)

/-! ## Trace records (R364, R365) -/

/-- N and MARKS of SAMP. -/
def Obs.exponent (o : Obs) : Nat := (o.samp.extractLsb' 0 5).toNat
def Obs.marking (o : Obs) : Bool := o.samp.getLsbD 5

/-- Words of bytes, the last padded with zeros. -/
def packWords : Nat → List Byte → List Word
  | 0, _ => []
  | n + 1, l => BitVec.ofNat 64 ((List.range 8).foldr (fun j a => (l.getD j 0).toNat + 256 * a) 0) :: packWords n (l.drop 8)

/-- The 120 bytes of a slot, as fifteen words: plain, or under AES-256-GCM with the tenant's key (R365). -/
def State.traceSlot (s : State) (d v ten : Nat) (r : List Word) : List Word :=
  let dev := s.dev d
  match Table.find dev.keys ten with
  | none => r ++ List.replicate 7 0
  | some key =>
    let ctr := (s.core d v).obs.iv
    let w0 : Word := ctr.extractLsb' 0 16 ++ BitVec.ofNat 16 dev.flash.resets ++ BitVec.ofNat 16 v ++ BitVec.ofNat 16 d
    let w1 : Word := 0#24 ++ BitVec.ofNat 8 ten ++ ctr.extractLsb' 16 32
    let ad := wordsBytes [w0, w1]
    [w0, w1] ++ packWords 10 (aesSeal key (ad.take 12) ad (wordsBytes r)) ++ List.replicate 3 0

/-- A record of a context is to be stored in the next slot of its core's ring; +120 holds the core's count, this record included (log
entry 30). -/
def State.traceRecord (s : State) (d v cid : Nat) (r : List Word) : State :=
  let o := (s.core d v).obs
  let slot := o.count.toNat % max 1 (o.tcnt.extractLsb' 0 24).toNat
  let va : VA := 0#8 ++ ((o.tbuf &&& ~~~0x7F#64) + BitVec.ofNat 64 (128 * slot))
  let ten := (s.ctx d cid).tenant.toNat
  let conf := (Table.find (s.dev d).keys ten).isSome
  let w := s.traceSlot d v ten r
  let stores := (List.range w.length).map fun k => (vaAdd va (8 * k), Acc.store 8 (w.getD k 0))
  s.modCore d v fun k => { k with obs := { k.obs with
    count := o.count + 1
    iv := if conf then o.iv + 1 else o.iv
    out := k.obs.out ++ stores ++ [(vaAdd va 120, .stff (o.count + 1))] } }

/-- An open journal entry is a store of a trace record: no context issued it. -/
def JEntry.isTrace (e : JEntry) : Bool := e.cid == noCid && e.ref.isNone

/-- The next store of a core's trace takes a journal entry and leaves, its STFF once the others are acknowledged (R97, R365). A store that is
refused, or whose translation faults, leaves a trap record, as for a context that has ended (DEDUCED, log entry 30). -/
def State.traceStore (s : State) (d v : Nat) : State :=
  let k := s.core d v
  match k.obs.out with
  | [] => s
  | (va, a) :: t =>
    let stff := match a with | .stff _ => true | _ => false
    let w : Word := match a with | .stff w => w | .store _ w => w | _ => 0
    match s.resolveAt d (partIssuer d v) va a.perm 8 false, k.freeEntry with
    | _, none => s
    | .error f, _ =>
      if f = walkHeld then s
      else (s.setCore d v { k with obs := { k.obs with out := t } }).trapRecord d v f.1 (va.extractLsb' 0 64)
        (TrapInfo.tstat { cause := f.1, tval := 0, sub := f.2, vahi := va.extractLsb' 64 8, async := true } true) noCid
    | .ok g, some i =>
      if stff && k.journal.any fun q => q.2.isTrace then s
      else
        let e : JEntry := ⟨none, noCid, va, d, false, some g.loc, if stff then 2 else 0, 0, 3, if stff then 3 else 0, w, 0, 0, false, true, false, true⟩
        (s.setCore d v { k with obs := { k.obs with out := t }, journal := Table.set k.journal i e }).sendReq
          ⟨partIssuer d v, d, va, some g.loc, g.feOk, a, .journal i⟩

/-- At the end of a move the cores store what they have traced, as far as their journals have room. -/
def State.traceSettle (s : State) : State :=
  (s.cores.filter fun p => p.2.obs.out ≠ []).foldl (fun s p =>
    p.2.obs.out.foldl (fun s _ => s.traceStore (p.1 / 8192) (p.1 % 8192)) s) s

/-- The first dword of a record: KIND, VCN, CID. -/
def traceHead (kind v cid : Nat) : Word := BitVec.ofNat 8 kind ++ 0#11 ++ BitVec.ofNat 13 v ++ 0#8 ++ BitVec.ofNat 24 cid

/-- The waits of a record, each saturating: dispatch and rotation, vigil and queue stall, remote reply and checker (R364). -/
def traceWaits (dispatch rotation vigil stall remote checker : Nat) : List Word :=
  let w := fun (lo hi : Nat) => BitVec.ofNat 64 (min lo (2 ^ 32 - 1) + 2 ^ 32 * min hi (2 ^ 32 - 1))
  [w dispatch rotation, w vigil stall, w remote checker]

/-- MARK (R327); it waits for nothing once it has its operand. -/
def execMark (rs1 : Reg) (s : State) : Out :=
  .next (s.ready [.x rs1] fun s =>
    let d := s.cur.dev
    let v := s.cur.vcn
    if s.here.obs.marking then
      (s.traceRecord d v s.cur.cid ([traceHead 2 v s.cur.cid, BitVec.ofNat 64 s.now, s.thread.pc, s.thread.getX rs1]
        ++ traceWaits 0 0 0 0 0 0 ++ [0])).retire
    else s.retire)

/-- The count of fetches to the next mark: 2^N − 2^(N−1) + (r mod 2^N), with r free (R364; DESIGN CHOICE, log entry 18). -/
def Obs.interval (o : Obs) (r : Word) : Nat := 2 ^ o.exponent - 2 ^ (o.exponent - 1) + r.toNat % 2 ^ o.exponent

/-- The count has run out (R364), so the next fetch of the core is marked, and the next count starts. -/
def State.sampleDue (s : State) : State :=
  let o := s.here.obs
  if o.exponent = 0 ∨ o.left ≠ 0 ∨ o.markNext then s
  else s.drawn.onCore fun k => { k with obs := { k.obs with left := o.interval s.freeWord, markNext := true } }

/-- SAMPLE (R364). -/
def execSample (s : State) : Out := .next s.sampleDue

/-- A fetch of the core (R364): it takes the mark, or counts. -/
def State.sampleFetch (s : State) (words : List (BitVec 32)) : State :=
  let o := s.here.obs
  if o.exponent = 0 then s
  else if o.markNext then
    s.onCore fun k => { k with obs := { o with
      markNext := false
      marks := o.marks ++ [⟨s.cur.pos, s.cur.cid, s.now, s.thread.pc, words.headD 0,
        (s.thread.chosenAt.map fun t => ticksFrom t s.now).getD 0, 0, 0, 0, 0⟩] } }
  else s.onCore fun k => { k with obs := { o with left := o.left - 1 } }

/-- The wait that a tick of a marked instruction counts as (R364): vigil, evicted time with it, a remote reply, or a stall on a coprocessor
queue; a vector instruction whose pc stands still is stalled (R202) (DEDUCED, log entry 80). -/
def SampleMark.passed (m : SampleMark) (c : Ctx) (dt : Nat) : SampleMark :=
  if c.place ≠ .resident then { m with vigil := m.vigil + dt }
  else match c.wait with
    | none => { m with stall := m.stall + dt }
    | some (.reply _ _) => { m with remote := m.remote + dt }
    | some (.again .queue _) => { m with stall := m.stall + dt }
    | some _ => { m with vigil := m.vigil + dt }

/-- Ticks of a device pass for the marked instructions of its cores. -/
def State.passMarks (s : State) (d dt : Nat) : State :=
  { s with cores := s.cores.map fun p =>
      if p.1 / 8192 = d then
        (p.1, { p.2 with obs := { p.2.obs with marks := p.2.obs.marks.map fun m => m.passed (s.ctx d m.cid) dt } })
      else p }

/-- The record of a marked instruction that has retired or trapped (R364): what its other waits leave of its time is rotation wait; a
repetition takes one rotation (R351) (DEDUCED, log entry 80). -/
def State.sampleEnd (s : State) (d v : Nat) (m : SampleMark) (cause : Nat) : State :=
  let w3 : Word := 0#23 ++ BitVec.ofBool (m.rechecks != 0) ++ BitVec.ofNat 8 cause ++ m.word
  let check := 8 * m.rechecks
  let rest := ticksFrom m.tick (s.dev d).cycle - m.vigil - m.remote - m.stall
  let r := [traceHead 1 v m.cid, BitVec.ofNat 64 m.tick, m.pc, w3] ++ traceWaits m.dispatch rest m.vigil m.stall m.remote check ++ [0]
  s.traceRecord d v m.cid r

/-- A vector instruction's word: custom-2. -/
def isVectorWord (w : BitVec 32) : Bool := w.extractLsb' 0 7 == 0x5B#7

/-- After a move: a marked instruction of a core has retired or trapped unless its context is parked in it, or stalls on the vector unit's
queue (R202, R364). -/
def State.followMark (s : State) (d v : Nat) (m : SampleMark) : State :=
  let c := s.ctx d m.cid
  let again := s.cur.mismatches == 1 && s.cur.dev == d && s.cur.cid == m.cid && s.cur.words != []
  let m := { m with rechecks := m.rechecks + if again then 1 else 0 }
  if s.cur.trapped.contains (ctxKey d m.cid) then s.sampleEnd d v m (c.tcause.extractLsb' 0 8).toNat
  else if c.alive && (c.wait.isSome || isVectorWord m.word && c.pc == m.pc) then
    s.modCore d v fun k => { k with obs := { k.obs with marks := k.obs.marks ++ [m] } }
  else s.sampleEnd d v m 0xFF

/-- After a move the marked instructions of a core are followed, oldest first. -/
def State.followMarks (s : State) (d v : Nat) : State :=
  (s.core d v).obs.marks.foldl (fun s m => s.followMark d v m) (s.modCore d v fun k => { k with obs := { k.obs with marks := [] } })

/-! ## The almanac (R337, R363) -/

/-- A tick is due for the almanac of a device. -/
def Device.almDue (v : Device) (t : Nat) : Bool := v.obs.alm.getLsbD 4 && t % (1400 * 2 ^ (v.obs.alm.extractLsb' 0 4).toNat) == 0

/-- In a tick that is due every router latches its counters, and the I/O die what places the snapshot, and the counters restart; while the last snapshot is still being written they go on, and
MISSED rises (R363). -/
def State.almTick (s : State) (d : Nat) : State :=
  let v := s.dev d
  let mine := fun (t : Table Nat) => t.filter fun p => p.1 / 8192 == d
  let others := fun (t : Table Nat) => t.filter fun p => p.1 / 8192 != d
  if !v.almDue v.cycle then s
  else if v.almLatch.isSome then s.setDev d { v with almMissed := v.almMissed + 1 }
  else { (s.setDev d { v with almLatch := some ⟨v.cycle, v.obs.alm, v.obs.almbase, mine s.inj, mine s.ej⟩ }) with inj := others s.inj, ej := others s.ej }

/-- Stores of words by the I/O die under tenant 0, translated in cluster 0 (DESIGN CHOICE, log entry 38), one that is refused being
lost; none while a home holds one. -/
def State.dieStores (s : State) (d : Nat) : List (VA × Acc) → Option State
  | [] => some s
  | (va, a) :: t =>
    match s.engDo d (partIssuer d gatewayVcn) va a a.perm with
    | .ok s1 => s1.dieStores d t
    | .fault _ _ => s.dieStores d t
    | .wait => none

/-- SENT and DEFL of a link, from a free word (R363): no flit travels in an interval without one, a flit that is deflected is sent, and at least
`need` are sent. -/
def linkWord (quiet : Bool) (w : Word) (need : Nat) : Word :=
  if quiet then 0
  else
    let sent := max need (w.extractLsb' 0 32).toNat
    BitVec.ofNat 32 ((w.extractLsb' 32 32).toNat % (sent + 1)) ++ BitVec.ofNat 32 sent

/-- A router's entry (R363): its four links, with at least as many flits sent as it injected, injection stalls and INJ, and EJ. -/
def routerEntry (quiet : Bool) (free : Nat → Word) (inj ej : Nat) : List Word :=
  let low := fun (k : Nat) => ((free k).extractLsb' 0 32).toNat
  [linkWord quiet (free 0) (inj - (low 1 + low 2 + low 3)), linkWord quiet (free 1) 0, linkWord quiet (free 2) 0, linkWord quiet (free 3) 0,
    (if quiet then 0#32 else (free 4).extractLsb' 32 32) ++ BitVec.ofNat 32 inj, BitVec.ofNat 64 ej]

/-- ALMANAC_SNAPSHOT (R363): the I/O die writes the latched snapshot, SEQ last. Flits of links and injection stalls depend on routes and are
free, within what INJ and EJ allow (DESIGN CHOICE, log entry 18). -/
def execAlmanacSnapshot (s : State) : Out :=
  let d := s.cur.dev
  let dev := s.device
  .next (match dev.almLatch with
    | none => s
    | some g =>
      let slot := dev.almSeq % max 1 (g.alm.extractLsb' 16 16).toNat
      let va : VA := 0#8 ++ (g.base + BitVec.ofNat 64 (2 ^ 18 * slot))
      let head : List Word := [BitVec.ofNat 64 g.tick,
        0#32 ++ BitVec.ofNat 16 dev.almMissed ++ 0#12 ++ g.alm.extractLsb' 0 4, BitVec.ofNat 64 d]
      let quiet := g.inj.isEmpty && g.ej.isEmpty
      let free := fun (n : Nat) => Config.freeWord (s.free + n)
      let count := fun (t : Table Nat) (v : Nat) => (Table.find t (coreKey d v)).getD 0
      let router := fun (v : Nat) => routerEntry quiet (fun k => free (5 * v + k)) (count g.inj v) (count g.ej v)
      let port := fun (i : Nat) => [linkWord quiet (free (5 * 4925 + 2 * i)) 0,
        if quiet then 0 else 0#32 ++ (free (5 * 4925 + 2 * i + 1)).extractLsb' 0 32]
      let words := fun (off : Nat) (l : List Word) =>
        (List.range l.length).map fun k => (vaAdd va (off + 8 * k), Acc.store 8 (l.getD k 0))
      match s.dieStores d (words 8 head ++ words 64 ((List.range 4925).flatMap router) ++ words 236464 ((List.range 12).flatMap port)
          ++ [(va, .stff (BitVec.ofNat 64 dev.almSeq))]) with
      | none => s
      | some s1 =>
        { (s1.onDevice fun v => { v with almSeq := v.almSeq + 1, almLatch := none }) with free := s.free + 5 * 4925 + 24 })

/-! ## Signatures, signals, and heads of the log (R342, R362, R371) -/

/-- The controller signs a message with ECDSA and the next leaf of its LMS key. Before the last leaf of a key signs anything else it signs the
next key, whose public key joins the chain with both signatures (R371). -/
def Flash.sign (f : Flash) (d : Nat) (msg : List Byte) : Flash × List Byte :=
  let f := if f.lmsUsed = 32767 then
      let next := Config.lmsPublic d (f.lmsKey + 1)
      { f with
        lmsKey := f.lmsKey + 1
        lmsUsed := 0
        chain := f.chain ++ next ++ (Config.ecdsaSign d next).toList ++ (Config.lmsSign d f.lmsKey 32767 next).toList }
    else f
  ({ f with lmsUsed := f.lmsUsed + 1 }, (Config.ecdsaSign d msg).toList ++ (Config.lmsSign d f.lmsKey f.lmsUsed msg).toList)

/-- Vector n of the MSI-X table is masked. -/
def HostPort.masked (h : HostPort) (n : Nat) : Bool := (h.vec.toList.getD n (0, 0)).2.getLsbD 32

/-- Signal MSI-X vector n: its interrupt is sent, or stays pending while the vector is masked (PRESUMED, log entry 69). -/
def HostPort.signal (h : HostPort) (n : Nat) : HostPort :=
  if h.masked n then { h with msix := h.msix ||| (1#3 <<< n) } else { h with sent := h.sent ++ [n] }

/-- Pending vectors that are no longer masked are sent. -/
def HostPort.unpend (h : HostPort) : HostPort :=
  (List.range 3).foldl (fun h n =>
    if h.msix.getLsbD n && !h.masked n then { h with msix := h.msix &&& ~~~(1#3 <<< n), sent := h.sent ++ [n] } else h) h

/-- The security controller writes a head into the next slot, signed, and signals vector 2. -/
def State.writeHead (s : State) (d : Nat) : State :=
  let v := s.dev d
  let g := v.log
  let dig := if g.wp = 0 then List.replicate 48 0#8 else sha384 g.last
  let body := wordsBytes [BitVec.ofNat 64 g.wp, BitVec.ofNat 64 g.dropped, BitVec.ofNat 64 v.cycle, BitVec.ofNat 64 d] ++ dig
    ++ List.replicate 48 0#8
  let (f, sig) := v.flash.sign d body
  let s := s.setDev d { v with
    flash := f
    log := { g with headTick := v.cycle, headWp := g.wp, heads := g.heads + 1 }
    host := v.host.signal 2 }
  if v.flash.cfg.logSize < 4096 then s
  else s.hwStores gatewayVcn (hbmLoc d (v.flash.cfg.logBase + 2048 * (g.heads % 2))) (bytesWords (body ++ sig ++ List.replicate 804 0#8))

/-- LOG_HEAD_RECORD (R362): 2^32 ticks have passed since the last head, and entries have been appended. -/
def execLogHeadRecord (s : State) : Out :=
  let g := s.device.log
  .next (if 2 ^ 32 ≤ ticksFrom g.headTick s.now ∧ g.wp ≠ g.headWp then s.writeHead s.cur.dev else s)

/-! ## Soft errors (R361) -/

/-- SOFT_ERROR_CORRECTED (R361): kind 1 in an SRAM of the part, kind 2 in HBM or low-power DRAM. -/
def execSoftErrorCorrected (kind sub : BitVec 8) (addr syn : BitVec 64) (s : State) : Out :=
  .next (
    if kind = 1#8 ∧ s.cur.vcn < gatewayVcn then s.log s.cur.dev 1 sub.toNat s.cur.vcn noCid addr syn
    else if kind = 2#8 then s.log s.cur.dev 2 sub.toNat 0x1FFF noCid addr syn
    else s)

/-- Where an uncorrectable error strikes: an element of a tile of the core, or a word of HBM, low-power DRAM or local storage of
the device. -/
def tileErrorBase : Nat := 2 ^ 76

/-- A place is installed memory of its device: HBM, low-power DRAM, or the local storage of a part. -/
def installed (l : Nat) : Bool :=
  match regionOf l with
  | .ls => lsVcn l < 4608 || lsVcn l < gatewayVcn && l % 2 ^ 18 < 0x10000
  | .hbm => locOff l < hbmSize
  | .lp => locOff l < 2 ^ 41 + lpSize
  | _ => false

/-- ADDR of an entry about a word (R361): its physical address, or its VA[63:0] in local storage. -/
def errorAddr (l : Nat) : Word :=
  match regionOf l with
  | .ls =>
    let v := lsVcn l
    BitVec.ofNat 64 (match meshOf v with
      | some (x, y) => y * 2 ^ 25 + x * 2 ^ 18 + l % 2 ^ 18
      | none => (v - 4608) * 0x10000 + l % 2 ^ 18)
  | .lp => BitVec.ofNat 64 (locOff l - 2 ^ 41)
  | _ => BitVec.ofNat 64 (locOff l)

/-- UNCORRECTABLE_SOFT_ERROR (R361): the data is poisoned, and the error is logged (R245, R336); an element of a tile has no address, so its
entry holds what the event gives. -/
def execUncorrectableSoftError (loc : Nat) (addr : BitVec 64) (s : State) : Out :=
  let d := s.cur.dev
  .next (
    if tileErrorBase ≤ loc then
      if loc < tileErrorBase + 4096 ∧ s.cur.vcn < 4608 then
        (s.onCore fun k => { k with accBad := putNat k.accBad (loc - tileErrorBase) }).log d 3 0 s.cur.vcn noCid addr 0
      else s
    else if locDev loc = d ∧ installed loc then
      ({ s with poison := putNat s.poison (wordOf loc) } : State).log d 3 0 (if regionOf loc = .ls then lsVcn loc else 0x1FFF) noCid
        (errorAddr loc) 0
    else s)

end Sys2Proof.Machine
end

