-- ==== Sys2Proof/Machine/Csr.lean ====
section
/-! DEFINITION. The control and status registers: the map, reads, writes and their effects, the six instructions, and the energy
refill (R51 to R54, R75, R76, R127, R230, R242, R243, R253, R255, R262, R287, R309). -/

namespace Sys2Proof.Machine

/-! ## The map (R52) -/

/-- Access of a CSR at a level. -/
inductive CsrAccess where
  | absent | readOnly | readWrite
deriving DecidableEq, Repr

/-- The map of R52; a WO register counts as read-write, and reads as 0. -/
def csrAccess (n : BitVec 12) (sup : Bool) : CsrAccess :=
  let k := n.toNat
  if 0x800 ≤ k ∧ k ≤ 0x803 ∨ 0x807 ≤ k ∧ k ≤ 0x80C then .readWrite
  else if 0x804 ≤ k ∧ k ≤ 0x806 then (if sup then .readWrite else .readOnly)
  else if k = 0xC00 ∨ 0xCC0 ≤ k ∧ k ≤ 0xCC7 then .readOnly
  else if 0x5C0 ≤ k ∧ k ≤ 0x5D1 then (if sup then .readWrite else .absent)
  else .absent

/-- The value that a read gives (R51, R52). -/
def State.csrRead (s : State) (n : BitVec 12) : Word :=
  let c := s.thread
  let k := s.here
  match n.toNat with
  | 0x800 => (c.aw[0]).zeroExtend 64
  | 0x801 => (c.aw[1]).zeroExtend 64
  | 0x802 => (c.aw[2]).zeroExtend 64
  | 0x803 => (c.aw[3]).zeroExtend 64
  | 0x804 => c.fmt
  | 0x805 => c.sclp
  | 0x806 => c.ebudget
  | 0x807 => c.vflags
  | 0x808 => c.vstale
  | 0x809 => c.mcnt
  | 0x80A => c.mthr
  | 0xC00 => BitVec.ofNat 64 s.now
  | 0xCC0 => BitVec.ofNat 64 (s.device.gvtKey / 2 ^ 64)
  | 0xCC1 => c.vtime
  | 0xCC2 => BitVec.ofNat 64 s.cur.vcn
  | 0xCC3 => BitVec.ofNat 64 s.cur.pos
  | 0xCC4 => BitVec.ofNat 64 s.cur.dev
  | 0xCC5 => c.tenant.zeroExtend 64
  | 0xCC6 => c.chan.zeroExtend 64
  | 0xCC7 => c.prio.zeroExtend 64
  | 0x5C0 => k.tvec
  | 0x5C1 => c.tcause
  | 0x5C2 => c.tval
  | 0x5C3 => c.tepc
  | 0x5C4 => c.tstat
  | 0x5C5 => c.tscratch
  | 0x5C6 => k.ctxbase
  | 0x5C7 => k.chtab
  | 0x5C8 => k.kmcfg
  | 0x5C9 => k.vigmax
  | 0x5CA => k.erefill
  | 0x5CB => k.agecfg
  | 0x5CC => k.gvtper
  | 0x5CD => k.cpymargin
  | 0x5CE => k.sampcfg
  | 0x5CF => k.deqbase
  | 0x5D0 => k.inbase
  | 0x5D1 => k.fmttab
  | _ => 0

/-! ## Writes with a row of their own -/

/-- kmcfg with EN = 1 is valid (R76). -/
def kmcfgOk (w : Word) : Bool :=
  let n := (w.extractLsb' 0 8).toNat + 1
  let sz := 256 * ((w.extractLsb' 8 7).toNat + 1)
  let base := 256 * (w.extractLsb' 16 10).toNat
  decide (16 ≤ n) && decide (n * sz ≤ 196608) && decide (base + n * sz ≤ 262144)

/-- A write of kmcfg (R76). -/
def State.writeKmcfg (s : State) (w : Word) (k : State → State) : State :=
  if w.getLsbD 63 && !kmcfgOk w then s.illegalVal w
  else k (s.onCore fun c => { c with kmcfg := w &&& 0x8000000003FF7FFF#64, kmap := [] })

/-- The registers that a mask names, from 1 or 0 up. -/
def namedBits (w : Word) (lo n : Nat) : List Nat := (List.range n).filter fun r => w.getLsbD (lo + r)

/-- Make scalar registers empty; their oldest held fills land (R48, R54). -/
def Ctx.emptyX (c : Ctx) : List Nat → Ctx
  | [] => c
  | r :: t => (({ c with xf := c.xf &&& ~~~(1#32 <<< r) } : Ctx).landHeld false r).emptyX t

/-- Make vector registers empty; their oldest held fills land. -/
def Ctx.emptyV (c : Ctx) : List Nat → Ctx
  | [] => c
  | r :: t => (({ c with vf := c.vf &&& ~~~(1#16 <<< r) } : Ctx).landHeld true r).emptyV t

/-- Make mask registers empty. -/
def Ctx.emptyM (c : Ctx) : List Nat → Ctx
  | [] => c
  | r :: t => ({ c with mf := c.mf &&& ~~~(1#4 <<< r) } : Ctx).emptyM t

/-- A write of xempty (R54): it waits for the named registers; `k` is what the instruction does first. -/
def State.writeXempty (s : State) (w : Word) (k : State → State) : State :=
  let l := namedBits (w &&& 0xFFFFFFFE#64) 0 32
  s.ready (l.map fun r => .x (BitVec.ofNat 5 r)) fun s => (k s).onThread fun c => c.emptyX l

/-- A write of vempty (R54). -/
def State.writeVempty (s : State) (w : Word) (k : State → State) : State :=
  let v := namedBits w 0 16
  let m := (namedBits w 16 4).filter fun r => r ≠ 0
  s.ready ((v.map fun r => .v (BitVec.ofNat 4 r)) ++ m.map fun r => .m (BitVec.ofNat 2 r)) fun s =>
    (k s).onThread fun c => (c.emptyV v).emptyM m

/-- A range of local storage that ends inside it (R287). -/
def insideLs (base n : Nat) : Bool := n == 0 || decide (base + n ≤ 0x40000)

/-- The entry of an ordered channel is well formed (R287). -/
def orderedOk (e : List Word) : Bool :=
  let ring := fun (k : Nat) =>
    let d := dw e k
    let b := (d.extractLsb' 0 18).toNat
    d.extractLsb' 32 32 == 0#32 && b % 8 == 0 && insideLs b ((d.extractLsb' 18 14).toNat * if k = 3 then 32 else 72)
  let wb := ((dw e 1).extractLsb' 0 18).toNat
  let wl := ((dw e 1).extractLsb' 18 19).toNat
  (dw e 1).extractLsb' 37 26 == 0#26 && wb % 64 == 0 && wl % 64 == 0 && insideLs wb wl && ring 2 && ring 3 && ring 4
    && (dw e 2).extractLsb' 18 14 != 0#14 && dw e 5 == 0 && dw e 6 == 0 && dw e 7 == 0

/-- The entry of a channel is enabled (R255, R287). -/
def entryOn (e : List Word) : Bool :=
  let d := dw e 0
  d.getLsbD 0 && d.extractLsb' 3 61 == 0#61 && if d.getLsbD 1 then orderedOk e else (e.drop 1).all fun w => w == 0

/-- Load an entry into a channel; BLOCKED is cleared, and changed rings of an ordered channel restart (R256, R287). -/
def Chan.load (c : Chan) (e : List Word) : Chan :=
  let changed := (dw e 0).getLsbD 1 && (c.d1 != dw e 1 || c.d2 != dw e 2 || c.d3 != dw e 3 || c.d4 != dw e 4)
  let p := fun (n : Nat) => if changed then 0 else n
  { c with
    d0 := dw e 0
    d1 := dw e 1
    d2 := dw e 2
    d3 := dw e 3
    d4 := dw e 4
    en := entryOn e
    blocked := false
    wu := p c.wu
    wo := p c.wo
    wd := p c.wd }

/-- Load channel entries from channel c up. -/
def Core.loadTable (k : Core) : Nat → Nat → List Word → Core
  | 0, _, _ => { k with ch63 := { k.ch63 with blocked := false } }
  | n + 1, c, l => (k.setChan c ((k.chan c).load (l.take 8))).loadTable n (c + 1) (l.drop 8)

/-- A write of chtab (R255). -/
def State.writeChtab (s : State) (w : Word) (k : State → State) : State :=
  let b := w &&& ~~~0xFFF#64
  s.withBlock (0#8 ++ b) 512 fun l s => k (s.onCore fun c => ({ c with chtab := b } : Core).loadTable 63 0 l)

/-- A write of ctxbase (R262). -/
def State.writeCtxbase (s : State) (w : Word) (k : State → State) : State :=
  k (s.onCore fun c => { c with ctxbase := w &&& ~~~0xFFFF#64, noEvict := [] })

/-- A write of gvtper (R253). -/
def State.writeGvtper (s : State) (w : Word) (k : State → State) : State :=
  let p := (w.extractLsb' 0 7).toNat
  if p < 2 ∨ 64 < p then s.illegalVal w else k (s.onCore fun c => { c with gvtper := w &&& 0x7F#64 })

/-- CAP is 1 to 256 (R253). -/
def capOk (w : Word) : Bool := decide (1 ≤ (w.extractLsb' 0 9).toNat) && decide ((w.extractLsb' 0 9).toNat ≤ 256)

/-- A write of deqbase (R253). -/
def State.writeDeqbase (s : State) (w : Word) (k : State → State) : State :=
  if capOk w then k (s.onCore fun c => { c with deqbase := w &&& 0x1FF#64 }) else s.illegalVal w

/-- A write of inbase (R253). -/
def State.writeInbase (s : State) (w : Word) (k : State → State) : State :=
  if capOk w then k (s.onCore fun c => { c with inbase := w &&& 0x1FF#64 }) else s.illegalVal w

/-! ## Writes in general -/

/-- A write of a context CSR; reserved bits stay 0 (R51). -/
def Ctx.csrWrite (c : Ctx) (n : Nat) (w : Word) : Ctx :=
  match n with
  | 0x800 => { c with aw := c.aw.set 0 (w.extractLsb' 0 8) }
  | 0x801 => { c with aw := c.aw.set 1 (w.extractLsb' 0 8) }
  | 0x802 => { c with aw := c.aw.set 2 (w.extractLsb' 0 8) }
  | 0x803 => { c with aw := c.aw.set 3 (w.extractLsb' 0 8) }
  | 0x804 => { c with fmt := w &&& 0x0F1FFFFF#64 }
  | 0x805 => { c with sclp := w &&& 0x0003FFFF0003FFFF#64 }
  | 0x806 => { c with ebudget := w &&& 0xFFFFFFFF#64 }
  | 0x807 => { c with vflags := w &&& 0x1F#64 }
  | 0x808 => { c with vstale := w &&& 1#64 }
  | 0x809 => { c with mcnt := w }
  | 0x80A => { c with mthr := w &&& 0xFFFF#64 }
  | 0x5C1 => { c with tcause := w &&& 0xFF#64 }
  | 0x5C2 => { c with tval := w }
  | 0x5C3 => { c with tepc := w }
  | 0x5C4 => { c with tstat := w &&& 0xE000FFFF000000FF#64 }
  | 0x5C5 => { c with tscratch := w }
  | _ => c

/-- A write of a plain core CSR. -/
def Core.csrWrite (k : Core) (n : Nat) (w : Word) : Core :=
  match n with
  | 0x5C0 => { k with tvec := w &&& 0xFFFFFFFFFC#64 }
  | 0x5C9 => { k with vigmax := w &&& 0xFFFFFFFF#64 }
  | 0x5CA => { k with erefill := w &&& 0xFFFFFFFF#64 }
  | 0x5CB => { k with agecfg := w &&& 0x1F#64 }
  | 0x5CD => { k with cpymargin := w &&& 0xFFFFFFFF#64 }
  | 0x5D1 => { k with fmttab := w &&& 0xFF#64 }
  | _ => k

/-- The plain CSRs of a context; the other plain ones are a core's (R52). -/
def ctxCsr (n : Nat) : Bool := decide (0x800 ≤ n) || decide (0x5C1 ≤ n) && decide (n ≤ 0x5C5)

/-- A write of a CSR, with its effect; `k` goes on with the instruction. -/
def State.csrWrite (s : State) (n : BitVec 12) (w : Word) (k : State → State) : State :=
  match n.toNat with
  | 0x80B => s.writeXempty w k
  | 0x80C => s.writeVempty w k
  | 0x5C6 => s.writeCtxbase w k
  | 0x5C7 => s.writeChtab w k
  | 0x5C8 => s.writeKmcfg w k
  | 0x5CC => s.writeGvtper w k
  | 0x5CE => s.writeSampcfg w k
  | 0x5CF => s.writeDeqbase w k
  | 0x5D0 => s.writeInbase w k
  | m => if ctxCsr m then k (s.onThread fun c => c.csrWrite m w) else k (s.onCore fun c => c.csrWrite m w)

/-! ## The instructions (R51) -/

/-- The three kinds of form. -/
inductive CsrOp where
  | rw | rs | rc
deriving DecidableEq, Repr

/-- What a form writes; those of xempty and vempty all write their source (R54). -/
def CsrOp.value (op : CsrOp) (n : BitVec 12) (old src : Word) : Word :=
  if n = 0x80B#12 ∨ n = 0x80C#12 then src
  else match op with
    | .rw => src
    | .rs => old ||| src
    | .rc => old &&& ~~~src

/-- vflags and mcnt wait for the thread's earlier vector instructions and tile commands (R202, R243). -/
def csrDrains (n : BitVec 12) : Bool := n == 0x807#12 || n == 0x809#12

/-- A CSR instruction: the checks of decode, readiness, the waits, the read, the write (R51, R54, R57). -/
def State.csrInstr (s : State) (n : BitVec 12) (op : CsrOp) (writes : Bool) (rd : Reg) (regs : List Opnd) (src : Ctx → Word) : State :=
  let a := csrAccess n s.thread.sup
  if a = .absent ∨ writes ∧ a = .readOnly then s.illegal
  else s.ready regs fun s =>
    if csrDrains n ∧ s.busy s.cur.dev s.cur.vcn s.cur.cid then s.park .drain
    else
      let old := s.csrRead n
      let done := fun (s : State) => (s.setX rd old).retire
      if writes then s.csrWrite n (op.value n old (src s.thread)) done else done s

/-- CSRRW (R51). -/
def execCsrrw (rd rs1 : Reg) (csr : BitVec 12) (s : State) : Out :=
  .next (s.csrInstr csr .rw true rd [.x rs1, .x rd] fun c => c.getX rs1)

/-- CSRRS (R51). -/
def execCsrrs (rd rs1 : Reg) (csr : BitVec 12) (s : State) : Out :=
  .next (s.csrInstr csr .rs (rs1 != 0#5) rd [.x rs1, .x rd] fun c => c.getX rs1)

/-- CSRRC (R51). -/
def execCsrrc (rd rs1 : Reg) (csr : BitVec 12) (s : State) : Out :=
  .next (s.csrInstr csr .rc (rs1 != 0#5) rd [.x rs1, .x rd] fun c => c.getX rs1)

/-- CSRRWI (R51). -/
def execCsrrwi (rd : Reg) (imm : BitVec 5) (csr : BitVec 12) (s : State) : Out :=
  .next (s.csrInstr csr .rw true rd [.x rd] fun _ => imm.zeroExtend 64)

/-- CSRRSI (R51). -/
def execCsrrsi (rd : Reg) (imm : BitVec 5) (csr : BitVec 12) (s : State) : Out :=
  .next (s.csrInstr csr .rs (imm != 0#5) rd [.x rd] fun _ => imm.zeroExtend 64)

/-- CSRRCI (R51). -/
def execCsrrci (rd : Reg) (imm : BitVec 5) (csr : BitVec 12) (s : State) : Out :=
  .next (s.csrInstr csr .rc (imm != 0#5) rd [.x rd] fun _ => imm.zeroExtend 64)

/-! ## The rows of the writes: the effect of a write by the thread -/

/-- KMCFG_WRITE (R76). -/
def execKmcfgWrite (v : BitVec 64) (s : State) : Out := .next (s.writeKmcfg v id)

/-- XEMPTY_WRITE (R54). -/
def execXemptyWrite (v : BitVec 64) (s : State) : Out := .next (s.writeXempty v id)

/-- VEMPTY_WRITE (R54). -/
def execVemptyWrite (v : BitVec 64) (s : State) : Out := .next (s.writeVempty v id)

/-- CHTAB_WRITE (R255). -/
def execChtabWrite (v : BitVec 64) (s : State) : Out := .next (s.writeChtab v id)

/-- CTXBASE_WRITE (R262). -/
def execCtxbaseWrite (v : BitVec 64) (s : State) : Out := .next (s.writeCtxbase v id)

/-- GVTPER_WRITE (R253). -/
def execGvtperWrite (v : BitVec 64) (s : State) : Out := .next (s.writeGvtper v id)

/-- DEQBASE_WRITE (R253). -/
def execDeqbaseWrite (v : BitVec 64) (s : State) : Out := .next (s.writeDeqbase v id)

/-- INBASE_WRITE (R253). -/
def execInbaseWrite (v : BitVec 64) (s : State) : Out := .next (s.writeInbase v id)

/-- NVME_BINDING_WRITE (R44): a supervisor write of an entry. -/
def execNvmeBindingWrite (port : BitVec 2) (v : BitVec 64) (s : State) : Out :=
  .next (s.writeEngine (engLoc s.cur.dev (0x500000000 + 16 * port.toNat)) v ⟨s.cur.dev, s.cur.vcn, noCid, true, 0⟩)

/-- Every resident context of a device receives its core's REFILL (R242). -/
def State.refill (s : State) (d : Nat) : State :=
  { s with ctxs := s.ctxs.map fun p =>
      if keyDev p.1 = d ∧ p.2.place = .resident then (p.1, { p.2 with ebudget := (s.core d p.2.core).erefill &&& 0xFFFFFFFF#64 })
      else p }

/-- EBUDGET_REFILL (R242): in a tick where cycle mod 1,400 is 0. -/
def execEbudgetRefill (s : State) : Out := .next (if s.now % 1400 = 0 then s.refill s.cur.dev else s)

end Sys2Proof.Machine
end

