-- ==== Sys2Proof/Machine/HostPort.lean ====
section
/-! DEFINITION. The host port: BAR0 registers, HWAKE, the CXL window, accesses through BAR2, BAR4, and the commands of the
management mailbox but for the reset (R341 to R344, R371 to R373). -/

namespace Sys2Proof.Machine

/-- Change the host port of a device. -/
def State.modHost (s : State) (d : Nat) (f : HostPort → HostPort) : State := s.modDev d fun v => { v with host := f v.host }

/-! ## HWAKE and the CXL window (R343, R344) -/

/-- ARM and UNTIL. -/
def hwakeArm (w : Word) : Bool := w.getLsbD 63
def hwakeUntil (w : Word) : Nat := (w.extractLsb' 0 63).toNat

/-- HWAKE_WRITE (R343). -/
def execHwakeWrite (v : BitVec 64) (s : State) : Out := .next (s.modHost s.cur.dev fun h => { h with hwake := v })

/-- ARM clears itself once `cycle` has reached UNTIL. -/
def State.expireWake (s : State) (d : Nat) : State :=
  let h := (s.dev d).host
  if hwakeArm h.hwake && hwakeUntil h.hwake != 0 && decide (hwakeUntil h.hwake ≤ (s.dev d).cycle) then
    s.modHost d fun h => { h with hwake := h.hwake &&& ~~~(1#64 <<< 63) }
  else s

/-- HWAKE_EXPIRY (R343). -/
def execHwakeExpiry (s : State) : Out := .next (s.expireWake s.cur.dev)

/-- CXLBASE_WRITE (R344): a multiple of 64 KiB (DEDUCED, log entry 31). -/
def execCxlbaseWrite (v : BitVec 64) (s : State) : Out :=
  .next (s.modHost s.cur.dev fun h => { h with cxlbase := v &&& ~~~0xFFFF#64 })

/-- CXLSIZE_WRITE (R344): a multiple of 64 KiB, at most 16 TiB (DEDUCED, log entry 31). -/
def execCxlsizeWrite (v : BitVec 64) (s : State) : Out :=
  .next (s.modHost s.cur.dev fun h => { h with cxlsize := BitVec.ofNat 64 (min (2 ^ 44) (v &&& ~~~0xFFFF#64).toNat) })

/-! ## BAR2 and BAR4 (R341) -/

/-- The issuer of host accesses: tenant 0, under which they are translated like a peer's. -/
def hostIssuer (d : Nat) : Issuer := ⟨d, launchVcn 0, noCid, true, 0⟩

/-- The VA of a word of BAR2, when the offset lies in the window. -/
def State.bar2 (s : State) (d off : Nat) : Option VA :=
  let c := (s.dev d).flash.cfg
  let o := off - off % 8
  if o + 8 ≤ c.bar2Size then some (BitVec.ofNat 72 ((c.bar2Base + o) % 2 ^ 71)) else none

/-- What a host access meets at its word: a place, a NACK subcode, or a home that holds it (DEDUCED, log entry 38). -/
def State.hostTarget (s : State) (d : Nat) (va : VA) (a : Acc) : Got Req :=
  match s.translate d (clusterOf (launchVcn 0)) 0 (hostIssuer d) va a.perm true with
  | .error f => if f = walkHeld then .wait else .fault 0x05 (nackOf f)
  | .ok t =>
    let r : Req := ⟨hostIssuer d, d, va, some t.loc, t.feOk, a, .nowhere⟩
    match s.refusal r t.loc with
    | some n => .fault 0x05 n
    | none => if (s.moveHolds r t.loc).isSome || a.writes && (s.ckpt t.loc).isNone then .wait else .ok r

/-- HOST_READ (R341): the word's data, or Completer Abort, is the completion. -/
def execHostRead (off : BitVec 64) (s : State) : Out :=
  let d := s.cur.dev
  let done := fun (x : Option Word) => s.modHost d fun h => { h with reads := h.reads ++ [x] }
  .next (match s.bar2 d off.toNat with
    | none => s
    | some va => match s.hostTarget d va (.load 8 false) with
      | .ok r => (done (some (s.seen r (s.atPort (r.loc.getD 0))))).trip (partIssuer d gatewayVcn) (r.loc.getD 0)
      | .fault _ _ => done none
      | .wait => s)

/-- HOST_WRITE (R341, R138): performed in arrival order, or dropped and logged. -/
def execHostWrite (off v : BitVec 64) (s : State) : Out :=
  let d := s.cur.dev
  .next (match s.bar2 d off.toNat with
    | none => s
    | some va => match s.hostTarget d va (.store 8 v) with
      | .ok r => (s.homeStep r).trip (partIssuer d gatewayVcn) (r.loc.getD 0)
      | .fault _ n => s.log d 0x0A 0 0x1FFF noCid (va.extractLsb' 0 64) (BitVec.ofNat 64 n)
      | .wait => s)

/-- What the host reads through BAR4: a word of the log region; 0 where a failed channel core refuses the read (R356) (DEDUCED, log
entry 38). -/
def State.bar4Read (s : State) (d off : Nat) : Word :=
  let c := (s.dev d).flash.cfg
  let o := off - off % 8
  if o + 8 ≤ c.logSize ∧ !s.frontFailed (hbmLoc d (c.logBase + o)) then s.readWord (hbmLoc d (c.logBase + o)) else 0

/-! ## BAR0 (R342) -/

/-- A word of the MSI-X table and its pending-bit array, at an offset from 0x6000: entry n at 16·n, address first, then data with the
mask in bit 32, and the pending bits at 0x800 (PRESUMED, log entry 69). -/
def HostPort.msixRead (h : HostPort) (off : Nat) : Word :=
  if off < 48 then let e := h.vec.toList.getD (off / 16) (0, 0); if off % 16 < 8 then e.1 else e.2
  else if off / 8 = 0x100 then h.msix.zeroExtend 64
  else 0

/-- A write there: the pending bits are read-only, and what is no longer masked is sent. -/
def HostPort.msixWrite (h : HostPort) (off : Nat) (w : Word) : HostPort :=
  if off < 48 then
    let e := h.vec.toList.getD (off / 16) (0, 0)
    let e := if off % 16 < 8 then (w &&& ~~~3#64, e.2) else (e.1, w &&& 0x1FFFFFFFF#64)
    ({ h with vec := h.vec.setIfInBounds (off / 16) e }).unpend
  else h

/-- What the host reads at an offset of BAR0; offsets that are not listed read 0. -/
def State.bar0Read (s : State) (d off : Nat) : Word :=
  let v := s.dev d
  if off < 0x4000 then (v.launchHart (off / 0x1000)).read (off % 0x1000)
  else if off = 0x4008 then v.host.status
  else if 0x4100 ≤ off ∧ off < 0x5000 then s.readWord (barLoc d (off - off % 8))
  else if 0x6000 ≤ off ∧ off < 0x7000 then v.host.msixRead (off - 0x6000)
  else if off = 0x5000 then v.host.hwake
  else if off = 0x5008 then v.host.cxlbase
  else if off = 0x5010 then v.host.cxlsize
  else if off = 0x5018 then BitVec.ofNat 64 v.log.wp
  else 0

/-- CODE values of STATUS (R373). -/
def codeOk : Nat := 0
def codeBadCmd : Nat := 1
def codeBadSig : Nat := 2
def codeRollback : Nat := 3
def codeNoKey : Nat := 4
def codeBootFail : Nat := 5

/-- STATUS. -/
def statusWord (busy : Bool) (cmd code : Nat) : Word := BitVec.ofBool busy ++ 0#47 ++ BitVec.ofNat 8 cmd ++ BitVec.ofNat 8 code

/-- A command is complete: CODE, BUSY clear, and MSI-X vector 0 (R373). -/
def State.mailboxDone (s : State) (d cmd code : Nat) : State :=
  s.modHost d fun h => ({ h with status := statusWord false cmd code } : HostPort).signal 0

/-- A command that the controller knows. -/
def commandKnown (c : Nat) : Bool := 1 ≤ c && c ≤ 7

/-- A write of DOORBELL (R373): ignored while BUSY; a command that is not served completes with BADCMD. -/
def State.doorbell (s : State) (d : Nat) (w : Word) : State :=
  let v := s.dev d
  let c := w.toNat
  if v.host.status.getLsbD 63 then s
  else if !commandKnown c || v.bootFail && !(5 ≤ c && c ≤ 7) then s.mailboxDone d c codeBadCmd
  else s.modHost d fun h => { h with status := statusWord true c (h.status.extractLsb' 0 8).toNat }

/-- A host write of BAR0 (R342). -/
def State.bar0Write (s : State) (d off : Nat) (w : Word) : State :=
  if off < 0x4000 then
    if off % 0x1000 = 0x10 ∧ !(s.core d (launchVcn (off / 0x1000))).failed then
      s.modLaunch d (off / 0x1000) fun h => h.storeTail (w.extractLsb' 0 32)
    else s
  else if off = 0x4000 then s.doorbell d w
  else if 0x4100 ≤ off ∧ off < 0x5000 then s.writeWord (barLoc d (off - off % 8)) w
  else if 0x6000 ≤ off ∧ off < 0x7000 then s.modHost d fun h => h.msixWrite (off - 0x6000) w
  else if off = 0x5000 then s.modHost d fun h => { h with hwake := w }
  else if off = 0x5008 then s.modHost d fun h => { h with cxlbase := w &&& ~~~0xFFFF#64 }
  else if off = 0x5010 then s.modHost d fun h => { h with cxlsize := BitVec.ofNat 64 (min (2 ^ 44) (w &&& ~~~0xFFFF#64).toNat) }
  else s

/-- REGISTER_WRITE (R51, R342): a write of a CSR by the thread, or of a register of BAR0 by the host. -/
def execRegisterWrite (host : Bool) (reg : BitVec 16) (v : BitVec 64) (s : State) : Out :=
  .next (
    if host then s.bar0Write s.cur.dev reg.toNat v
    else if reg.extractLsb' 12 4 = 0#4 ∧ csrAccess (reg.extractLsb' 0 12) s.thread.sup = .readWrite then
      s.csrWrite (reg.extractLsb' 0 12) v id
    else s)

/-! ## Commands (R371 to R373; the layouts of requests and responses are those of DESIGN CHOICE, log entry 6) -/

/-- The command being served is n. -/
def State.serving (s : State) (n : Nat) (k : State → State) : Out :=
  let st := s.device.host.status
  .next (if st.getLsbD 63 ∧ (st.extractLsb' 8 8).toNat = n then k s else s)

/-- A dword of the request, and bytes of it. -/
def State.request0 (s : State) (d k : Nat) : Word := s.readWord (barLoc d (0x4100 + 8 * k))
def State.requestBytes (s : State) (d off n : Nat) : List Byte := Memory.bytes s.mem (barLoc d (0x4100 + off)) n

/-- The response, at most 2,048 bytes. -/
def State.respond (s : State) (d : Nat) (b : List Byte) : State := s.writeBytes (barLoc d 0x4800) (b.take 2048)

/-- Both signatures of an image verify over the SHA-384 digest of its body (R369). -/
def FlashImage.verifies (i : FlashImage) : Bool :=
  let dig := sha384 i.body
  Config.ecdsaVerifies dig i.ecdsa && Config.lmsVerifies dig i.lms

/-- Accepting an image raises the counter of its kind to the image's security version (R369). -/
def Flash.raise (f : Flash) (i : FlashImage) : Flash := { f with counters := Table.set f.counters i.kind i.secver }

/-- An image is refused whose security version is below the counter of its kind (R369). -/
def Flash.stale (f : Flash) (i : FlashImage) : Bool := decide (i.secver < (Table.find f.counters i.kind).getD 0)

/-- ATTEST (R373): nonce, device number, reset count, security versions and digests of the verified images, tenants that hold keys,
and the two signatures. -/
def execAttest (s : State) : Out :=
  s.serving 1 fun s =>
    let d := s.cur.dev
    let v := s.device
    let images := v.flash.images.filter fun i => v.verified.contains i.kind
    let parts := [s.requestBytes d 0 48, wordsBytes [BitVec.ofNat 64 d], wordsBytes [BitVec.ofNat 64 v.flash.resets],
      wordsBytes (images.map fun i => BitVec.ofNat 64 i.secver), images.flatMap (fun i => sha384 i.body),
      wordsBytes (v.keys.map fun p => BitVec.ofNat 64 p.1)]
    let (f, sig) := v.flash.sign d parts.flatten
    ((s.setDev d { v with flash := f }).respond d (Config.report (parts ++ [sig]))).mailboxDone d 1 codeOk

/-- TENKEY (R372, R373): the request's first dword names the tenant, and the wrapped key follows. The code of a key that does not
unwrap is free (DESIGN CHOICE, log entry 6). -/
def execTenkey (s : State) : Out :=
  s.serving 2 fun s =>
    let d := s.cur.dev
    let t := (s.request0 d 0).toNat
    if t = 0 ∨ 255 < t then s.mailboxDone d 2 codeBadCmd
    else match Config.unwrapKey d (s.requestBytes d 8 1784) with
      | some key => (s.modDev d fun v => { v with keys := Table.set v.keys t key.toList }).mailboxDone d 2 codeOk
      | none => s.drawn.mailboxDone d 2 (s.freeWord.extractLsb' 0 8).toNat

/-- TENCLR (R372, R373). -/
def execTenclr (s : State) : Out :=
  s.serving 3 fun s =>
    let d := s.cur.dev
    let t := (s.request0 d 0).toNat
    if (Table.find s.device.keys t).isSome then
      (s.modDev d fun v => { v with keys := Table.erase v.keys t }).mailboxDone d 3 codeOk
    else s.mailboxDone d 3 codeNoKey

/-- LOGHEAD (R362, R373). -/
def execLoghead (s : State) : Out := s.serving 4 fun s => (s.writeHead s.cur.dev).mailboxDone s.cur.dev 4 codeOk

/-- IDENTITY (R371, R373): the certified public keys, and the LMS keys after the first with their signatures. -/
def execIdentity (s : State) : Out :=
  s.serving 6 fun s =>
    let d := s.cur.dev
    (s.respond d (Config.certified d ++ s.device.flash.chain)).mailboxDone d 6 codeOk

/-- UPDATE (R369, R373): the staged image is verified, its counter rises, and it is written for the next reset. -/
def execUpdate (s : State) : Out :=
  s.serving 7 fun s =>
    let d := s.cur.dev
    let kind := (s.request0 d 0).toNat
    let f := s.device.flash
    match Table.find f.staged (s.request0 d 1).toNat with
    | none => s.mailboxDone d 7 codeBadSig
    | some i =>
      if i.kind ≠ kind ∨ !i.verifies then s.mailboxDone d 7 codeBadSig
      else if f.stale i then s.mailboxDone d 7 codeRollback
      else (s.modDev d fun v => { v with flash := { f.raise i with next := f.next ++ [i] } }).mailboxDone d 7 codeOk

end Sys2Proof.Machine
end

