-- ==== Sys2Proof/Machine/Power.lean ====
section
/-! DEFINITION. Cold reset and boot, the events of power, temperature and links, and changes of membership (R335, R356, R367 to
R370, R373 to R377). -/

namespace Sys2Proof.Machine

/-! ## Cold reset (R367) -/

/-- A place of device d's own memories: all but host memory and drives. -/
def ownPlace (d l : Nat) : Bool := decide (l < 2 ^ 78) && l / devSpan == d

/-- A message that a reset of device d loses: it was for the device, or about to arrive there. -/
def Msg.lostAt (d : Nat) : Msg → Bool
  | .req r => r.dst == d
  | .eng w _ => w.dev == d
  | .ans _ w _ _ => w.dev == d
  | .record m => m.dst == d
  | .steal w _ => w.dev == d
  | .cancel w h => w.dev == d || (h.extractLsb' 13 12).toNat == d
  | .fill _ v _ _ _ _ _ _ => v == d
  | .nfill v _ _ _ _ _ _ _ _ => v == d
  | .share _ dst _ _ _ _ _ => dst == d
  | .shareAns _ dst _ _ _ _ => dst == d

/-- A cold reset of device d (R367): nothing of it stays but the flash; requests that it had made of other devices are never
answered (R335). -/
def State.coldReset (s : State) (d : Nat) : State :=
  let v := s.dev d
  let s := s.reroute fun w _ => w.dev == d
  let s : State := { s with
    net := s.net.filter fun m => !m.lostAt d
    waiters := s.waiters.filter fun w => w.req.dst != d
    mem := s.mem.filter fun c => !ownPlace d c.1
    empty := s.empty.filter fun w => !ownPlace d w
    poison := s.poison.filter fun w => !ownPlace d w
    ctxs := s.ctxs.filter fun p => keyDev p.1 != d
    poss := s.poss.filter fun p => p.1 / 65536 != d
    cores := s.cores.filter fun p => p.1 / 8192 != d
    inj := s.inj.filter fun p => p.1 / 8192 != d
    ej := s.ej.filter fun p => p.1 / 8192 != d }
  s.setDev d (Device.cold { v.flash with resets := v.flash.resets + 1 })

/-- POWER_ON (R367). -/
def execPowerOn (s : State) : Out := .next (s.coldReset s.cur.dev)

/-- PERST (R367). -/
def execPerst (s : State) : Out := .next (s.coldReset s.cur.dev)

/-- RESET (R373): a cold reset, with no response. -/
def execReset (s : State) : Out := s.serving 5 fun s => s.coldReset s.cur.dev

/-- THERMAL_TRIP (R375): the event is logged, as a reset (R361; DEDUCED, log entry 64), and the reset follows. -/
def execThermalTrip (s : State) : Out :=
  let d := s.cur.dev
  .next ((s.log d 0x0C 0 0x1FFF noCid 0 (BitVec.ofNat 64 s.device.flash.resets)).coldReset d)

/-! ## Boot (R356, R368 to R370) -/

/-- The images of the flash with those that UPDATE left for this reset (R373). -/
def Flash.updated (f : Flash) : Flash :=
  { f with images := f.next.foldl (fun l i => i :: l.filter fun x => x.kind ≠ i.kind) f.images, next := [] }

/-- An image of a kind is accepted: both signatures verify, its security version is not below the counter, which rises to it
(R369). -/
def Flash.accept (f : Flash) (kind : Nat) : Option (Flash × FlashImage) :=
  match f.images.find? fun i => i.kind == kind with
  | none => none
  | some i => if i.verifies && !f.stale i then some (f.raise i, i) else none

/-- Change a device's flash. -/
def State.modFlash (s : State) (d : Nat) (f : Flash → Flash) : State := s.modDev d fun v => { v with flash := f v.flash }

/-- An accepted image is in the flash as f, and its kind is verified (R373). -/
def State.accepted (s : State) (d kind : Nat) (f : Flash) : State :=
  s.modDev d fun v => { v with flash := f, verified := putNat v.verified kind }

/-- The program of an engine hart or channel core is verified and loaded, or its part is fenced as failed. -/
def State.loadEngine (s : State) (d v : Nat) : State :=
  match (s.dev d).flash.accept (2 + v) with
  | some (f, i) => (s.accepted d (2 + v) f).writeBytes (lsLoc d v 0) (i.body.take 0x10000)
  | none => s.modCore d v fun k => { k with failed := true, fenced := true }

/-- Indices of the intercalary cores of a cluster that have neither failed nor taken a VCN, rising (R15, R356). -/
def Device.spares (v : Device) (c : Nat) : List Nat :=
  (List.range 200).filter fun i =>
    !(physicalOf v.flash.cfg c).contains i && !v.flash.failedCores.contains (200 * c + i) && !v.remap.any fun p => p.2 == 200 * c + i

/-- The lowest healthy intercalary core of its cluster takes over the VCN of a compute core that failed its checker; with none left the VCN
stays fenced (R15, R356). -/
def State.replaceCore (s : State) (d v : Nat) : State :=
  if !(s.dev d).flash.failedCores.contains ((s.dev d).physical v) then s
  else match (s.dev d).spares (v / 192) with
    | i :: _ => s.modDev d fun dv => { dv with remap := Table.set dv.remap v (200 * (v / 192) + i) }
    | [] => s.modCore d v fun k => { k with failed := true, fenced := true }

/-- The boot context in position 0 of VCN 0 (R368). -/
def bootCtx (c : BootCfg) (resets : Nat) : Ctx :=
  ({ Ctx.reset with
    pc := c.bootPC &&& ~~~3#64
    sup := true
    supTask := true
    place := .resident } : Ctx).setX 10#5 c.imgVA |>.setX 11#5 (BitVec.ofNat 64 resets)

/-- Steps 4 to 6 of the boot, under the configuration (R368). -/
def State.bootOn (s : State) (d : Nat) (c : BootCfg) : State :=
  let s := ((List.range 316).map (4608 + ·)).foldl (fun s v => s.loadEngine d v) s
  let s := if (s.dev d).flash.failedCores = [] then s else (List.range 4608).foldl (fun s v => s.replaceCore d v) s
  let s := c.segs.foldl (fun s g => s.writeBytes (hbmLoc d g.1) g.2) s
  let s := s.log d 0x0C 0 0x1FFF noCid 0 (BitVec.ofNat 64 (s.dev d).flash.resets)
  let s := s.writeWord (tenantLoc d 0) (c.ten0 &&& 0x000FFFFFFFFFFFCD#64)
  let s := s.modCore d 0 fun k => { k with tvec := c.bootVec &&& 0xFFFFFFFFFC#64 }
  (s.setPos d 0 0 ⟨.dispatching ((s.dev d).cycle + 16), 0⟩).setCtx d 0 (bootCtx c (s.dev d).flash.resets)

/-- The boot stops (R368). -/
def State.bootStops (s : State) (d : Nat) : State :=
  s.modDev d fun v => { v with bootFail := true, host := { v.host with status := statusWord false 0 codeBootFail } }

/-- The booting device of entry d takes the number n of its image (R370): it changes entries with the device that is still to boot under n. A
number that another device already has leaves it at rest (DESIGN CHOICE, log entry 4). -/
def State.takeNumber (s : State) (d n : Nat) (k : State → State) : State :=
  if n = d then k s
  else if 3071 < n ∨ !(s.dev n).booting then s
  else k ((s.setDev d (s.dev n)).setDev n (s.dev d))

/-- The boot of device d (R368): the identity keys of a first boot (R371), firmware, configuration image, training, and the steps that
follow. The device has the number that its image gives; whether training succeeds is free (DESIGN CHOICE, log entry 18). -/
def State.boot (s : State) (d : Nat) : State :=
  let s := (s.modDev d fun v => { v with booting := false }).modFlash d fun f => { f.updated with keyed := true }
  match (s.dev d).flash.accept 0 with
  | none => s.bootStops d
  | some (f, _) =>
    let s := s.accepted d 0 f
    match f.accept 1 with
    | none => s.bootStops d
    | some (f, i) =>
      let c := Config.bootCfg i.body
      let s := s.accepted d 1 { f with cfg := c }
      s.takeNumber d c.num fun s =>
        if s.freeWord.getLsbD 0 then s.drawn.bootStops c.num else s.drawn.bootOn c.num c

/-! ## Power, temperature and links (R374 to R377) -/

/-- DROOP (R374): the cluster withholds whole rotations. -/
def execDroop (cl : Nat) (s : State) : Out := .next (s.onDevice fun v => { v with droop := if cl < 24 then putNat v.droop cl else v.droop })

/-- VOLTAGE_RECOVERS (R374). -/
def execVoltageRecovers (cl : Nat) (s : State) : Out := .next (s.onDevice fun v => { v with droop := dropNat v.droop cl })

/-- POWER_CAP (R374): rotations are withheld on every cluster in proportion. -/
def execPowerCap (s : State) : Out := .next (s.onDevice fun v => { v with capped := true })

/-- POWER_BELOW_PCAP (R374). -/
def execPowerBelowPcap (s : State) : Out := .next (s.onDevice fun v => { v with capped := false })

/-- THERMAL_LIMIT (R375): rotations are withheld device-wide. -/
def execThermalLimit (s : State) : Out := .next (s.onDevice fun v => { v with hot := true })

/-- LANE_RETRAIN (R376): the port leaves service; no membership bit changes. -/
def execLaneRetrain (port : Nat) (s : State) : Out :=
  .next (s.onDevice fun v => { v with portsOut := if port < 12 then putNat v.portsOut port else v.portsOut })

/-- FULL_RETRAINING_DONE (R376). -/
def execFullRetrainingDone (port : Nat) (s : State) : Out :=
  .next (s.onDevice fun v => { v with portsOut := dropNat v.portsOut port })

/-! ## Membership (R335) -/

/-- A message from device d to device p, which is down: the gateway answers a request with NACK 6 instead. -/
def Msg.toDown (d p : Nat) : Msg → Bool
  | .req r => r.who.dev == d && r.dst == p
  | .record m => m.who.dev == d && m.dst == p
  | .cancel w h => w.dev == d && (h.extractLsb' 13 12).toNat == p
  | .ans src w _ _ => src / 8192 == d && w.dev == p
  | .fill src v _ _ _ _ _ _ => src == d && v == p
  | .share src dst _ _ _ _ _ => src == d && dst == p
  | .shareAns src dst _ _ _ _ => src == d && dst == p
  | _ => false

/-- An answer from device p, or a share of a launch or an answer to one, that device d no longer takes: the gateway has answered. -/
def Msg.fromDown (d p : Nat) : Msg → Bool
  | .ans src w _ _ => src / 8192 == p && w.dev == d
  | .share src dst _ _ _ _ _ => src == p && dst == d
  | .shareAns src dst _ _ _ _ => src == p && dst == d
  | _ => false

/-- A request of device p that device d still performs, and answers nowhere (R335). -/
def Msg.unanswer (d p : Nat) (m : Msg) : Msg :=
  let f := fun (w : Issuer) (_ : Route) => w.dev == p
  match m with
  | .req r => if r.dst = d then .req (r.reroute f) else m
  | .record r => if r.dst = d then .record (r.reroute f) else m
  | m => m

/-- An answer to a route is on its way. -/
def State.answerComing (s : State) (d v i : Nat) : Bool :=
  s.net.any fun m => match m with
    | .ans _ w (.journal j) _ => w.dev == d && w.vcn == v && j == i
    | _ => false

/-- Some item in flight or held will still answer the context's wait for a reply. -/
def State.replyComing (s : State) (d cid : Nat) : Bool :=
  let req := fun (r : Req) => r.who.isCtx d cid && r.route == .reply
  s.net.any (fun m => match m with
    | .req r => req r
    | .eng w _ | .steal w _ | .cancel w _ => w.isCtx d cid
    | .ans _ w .reply _ => w.isCtx d cid
    | .record m => m.who.isCtx d cid && m.kind == .tsends
    | _ => false)
  || s.waiters.any (fun w => req w.req)
  || s.devs.any fun p =>
      p.2.copy.any (fun q => (q.2.full.any fun f => f.1.isCtx d cid) || (match q.2.move with | some m => m.held.any req | none => false))
      || p.2.view.any (fun q => q.2.full.any fun f => f.1.isCtx d cid)
      || p.2.chcore.any fun q => q.2.held.any req

/-- Open journal entries of a core that name device p and have no answer on its way: indexes and contexts. -/
def State.unanswered (s : State) (d v p : Nat) : List (Nat × Nat) :=
  (s.core d v).journal.filterMap fun e =>
    if e.2.peer && e.2.dev == p && e.2.ref.isNone && !s.answerComing d v e.1 then some (e.1, e.2.cid) else none

/-- The gateway answers what the device's cores still await from device p with NACK 6. -/
def State.gatewayNacks (s : State) (d p : Nat) : State :=
  let posts := (s.cores.filter fun q => q.1 / 8192 = d).flatMap fun q =>
    (s.unanswered d (q.1 % 8192) p).map fun e => (q.1 % 8192, e)
  let waits := s.ctxs.filter fun q => keyDev q.1 == d && q.2.alive && q.2.landed == .no && (match q.2.wait with
    | some (.word _ _) => true
    | some (.reply _ f) => f != .none || q.2.place != .resident || (s.pos d q.2.core q.2.pos).st == .parked
    | _ => false) && !s.replyComing d (q.1 % 2 ^ 25)
  let s := posts.foldl (fun s q => s.send (.ans (gateway d) ⟨d, q.1, q.2.2, false, 0⟩ (.journal q.2.1) (.nack 6))) s
  waits.foldl (fun s q => s.send (.ans (gateway d) ⟨d, q.2.core, q.1 % 2 ^ 25, q.2.sup, q.2.tenant.toNat⟩ .reply (.nack 6))) s

/-- Launches of the device no longer wait for shares of device p (R338). -/
def State.dropShares (s : State) (d p : Nat) : State :=
  (List.range 4).foldl (fun s h => match ((s.dev d).launchHart h).job with
    | some j => if j.shares.contains p then s.launchSettle d h { j with shares := j.shares.erase p, short := true } else s
    | none => s) s

/-- An ordered record or anti-message that never arrives is counted as received at its sender (R299). -/
def State.receipts (s : State) : List Msg → State
  | [] => s
  | .record m :: t => (s.receipt m.who.dev m.who.vcn m).receipts t
  | _ :: t => s.receipts t

/-- What device q holds of device e's requests is answered nowhere. -/
def State.disown (s : State) (q e : Nat) : State :=
  let f := fun (w : Issuer) (_ : Route) => w.dev == e
  (s.mapCores q (Core.reroute f)).modDev q fun v => v.reroute f

/-- Device p goes down as seen from device d (R335) (DEDUCED, log entry 36). -/
def State.peerDown (s : State) (d p : Nat) : State :=
  let lost := fun (w : Waiter) => w.req.who.dev == d && w.req.dst == p || w.req.who.dev == p && w.req.dst == d
  let gone := s.net.filter (Msg.toDown d p)
  let s : State := { s with
    net := (s.net.filter fun m => !m.toDown d p && !m.fromDown d p).map (Msg.unanswer d p)
    waiters := s.waiters.filter fun w => !lost w }
  ((((s.receipts gone).disown p d).disown d p).gatewayNacks d p).dropShares d p

/-- MEMBERSHIP_CHANGE (R335): the bit of a peer of the domain clears or sets, and the change is logged. -/
def execMembershipChange (peer : Nat) (up : Bool) (s : State) : Out :=
  let d := s.cur.dev
  .next (
    if peer = d ∨ !s.inDomain d peer ∨ s.device.down.contains peer = !up then s
    else if up then
      (s.onDevice fun v => { v with down := v.down.filter fun n => n ≠ peer }).log d 0x0B 0 0x1FFF noCid (BitVec.ofNat 64 peer) 1
    else
      ((s.onDevice fun v => { v with down := peer :: v.down }).log d 0x0B 0 0x1FFF noCid (BitVec.ofNat 64 peer) 0).peerDown d peer)

end Sys2Proof.Machine
end

