-- ==== Sys2Proof/Machine/Deadlock.lean ====
section
/-! DEFINITION. The deadlock predicate of a device and the DEADLOCK trap (R188, R283, R302; DEDUCED, log entry 32). -/

namespace Sys2Proof.Machine

/-! ## Waits -/

/-- A continuation of a context for a register is held by a record. -/
def Rec.continues (r : Rec) (d cid x : Nat) : Bool := r.reply && r.cdev == d && r.ccid == cid && r.creg == x

/-- Another device holds the task, or the record of the task, whose TRET fills the register. -/
def State.filledElsewhere (s : State) (d cid x : Nat) : Bool :=
  s.ctxs.any (fun p => keyDev p.1 != d && p.2.place != .free && p.2.record.continues d cid x)
  || s.cores.any fun p => p.1 / 8192 != d && p.2.inbox.any fun r => r.record.continues d cid x

/-- The access of a context waits at a home of another device, in a list or held there (R41, R358). -/
def State.waitsElsewhere (s : State) (d cid : Nat) : Bool :=
  let mine := fun (r : Req) => r.who.isCtx d cid && r.route.toCtx && r.dst != d
  s.waiters.any (fun w => mine w.req) || s.devs.any fun p =>
    p.2.copy.any (fun q => match q.2.move with | some m => m.held.any mine | none => false) || p.2.chcore.any fun q => q.2.held.any mine

/-- Another device of the domain is up, and may write a word of the own device (R283, R345; DEDUCED, log entry 32). -/
def State.peerWrites (s : State) (d : Nat) (who : Issuer) (va : VA) : Bool :=
  (match s.resolveAt d who va .write 8 true with | .ok _ => true | .error _ => false)
    && (s.domainDevs d).any fun n => n != d && s.reachable d n

/-- The word of the own device that the context waits on may come from another device; a header that LDV waits on is written by its view hart
alone (R173, R188). -/
def State.peerFills (s : State) (d cid : Nat) : Bool :=
  s.waiters.any fun w => w.req.who.isCtx d cid && w.req.dst == d
    && (match w.req.acc with | .ldv _ => false | _ => true) && s.peerWrites d w.req.who w.req.va

/-- A parked context counts as parked for the all-parked line while its wait is not over (R283, R302). -/
def State.stuck (s : State) (d v cid : Nat) : Bool :=
  let c := s.ctx d cid
  match c.wait with
  | some (.recv _ _ _) => true
  | some (.word _ _) | some (.reply _ _) => !s.waitsElsewhere d cid && !s.peerFills d cid
  | some (.again on _) =>
    match on with
    | .reg r => !s.filledElsewhere d cid r.toNat && !s.busy d v cid
    | .vreg _ | .mreg _ => !s.busy d v cid
    | .ring _ _ | .gvt => (s.dev d).gvtStalled && !(s.core d v).jubilee
    | .acks _ | .journal | .matching _ _ | .sends _ _ | .fork | .inbox =>
      !(s.core d v).journal.any fun e => e.2.peer && e.2.ref.isNone
    | .split => !s.waitsElsewhere d cid
    | .full va => !s.peerWrites d ⟨d, v, cid, c.sup, c.tenant.toNat⟩ va
    | .tick _ | .promise _ | .queue | .drain | .counts | .pos _ | .held _ | .walks _ | .budget | .other => false
    | _ => true
  | none => false

/-- A context waits for a tick. -/
def Ctx.timed (c : Ctx) : Bool :=
  c.alive && match c.wait with
  | some (.again (.tick _) _) | some (.again (.promise _) _) => true
  | _ => false

/-! ## Parts -/

/-- The core's all-parked line (R283); a position whose wait is over, or that takes a pending trap, does not count as parked. -/
def State.allParked (s : State) (d v : Nat) : Bool :=
  let k := s.core d v
  (List.range 8).all (fun p =>
    let q := s.pos d v p
    match q.st with
    | .empty => true
    | .parked => s.stuck d v q.cid && !s.wakes d v p (s.dev d).cycle
    | _ => false)
  && (List.range 64).all (fun c => !((k.chan c).open_ && (k.headOf c none).isSome))
  && k.runq.isEmpty

/-- A view hart is idle, or its only work waits on the reclaim floor (R188). -/
def State.viewIdle (s : State) (d h : Nat) (q : ViewHart) : Bool :=
  q.queued == 0 && q.full.isEmpty && (q.work.map fun b => b.begun.isNone && !b.cleared).getD true &&
  match (match q.work with | some b => some b.key | none => q.pend.head?.map (·.1)) with
  | none => true
  | some key =>
    let e := key / 2 ^ 40
    let x := s.entry d e
    let hva := vaAdd x.hdr (16 * (key % 2 ^ 40))
    match s.engRead d (viewIssuer d h x.tenant) hva 8, s.engRead d (viewIssuer d h x.tenant) (vaAdd hva 8) 8 with
    | .ok hw, .ok ow =>
      let hd := BitVec.ofNat 64 hw
      let o := BitVec.ofNat 64 ow
      hdrState hd != 3 && hdrVersion hd != 0 && o.getLsbD 63
        && decide (((s.viewWord d x.leader 27).extractLsb' 0 40).toNat ≤ hdrVersion o)
    | _, _ => false

/-- A launch hart has nothing to read, serve or deliver. -/
def LaunchHart.idle (h : LaunchHart) : Bool :=
  h.pend.isEmpty && h.job.isNone && h.peer.isEmpty && h.post.isEmpty && (!h.en || h.tail == h.head)

/-- Every engine of the device is idle. -/
def State.enginesIdle (s : State) (d : Nat) : Bool :=
  let v := s.dev d
  v.copy.all (fun p => p.2.queue.isEmpty && p.2.full.isEmpty) && v.view.all (fun p => s.viewIdle d p.1 p.2)
    && v.launch.all (fun p => p.2.idle) && v.chcore.all fun p => p.2.held.isEmpty

/-- A message that the device's network carries. -/
def Msg.touches (d : Nat) : Msg → Bool
  | .req r => r.dst == d || r.who.dev == d
  | .eng w _ | .steal w _ => w.dev == d
  | .cancel w h => w.dev == d || (h.extractLsb' 13 12).toNat == d
  | .ans src w _ _ => w.dev == d || src / 8192 == d
  | .record m => m.dst == d || m.who.dev == d
  | .fill u v _ _ _ _ _ _ => u == d || v == d
  | .nfill v _ _ _ _ _ _ _ _ => v == d
  | .share a b _ _ _ _ _ | .shareAns a b _ _ _ _ => a == d || b == d

/-- The VCNs of a device that the state lists, with those of its parked positions. -/
def State.listedCores (s : State) (d : Nat) : List Nat :=
  (s.cores.filterMap fun p => if p.1 / 8192 = d then some (p.1 % 8192) else none)
    ++ s.poss.filterMap fun p => if p.1 / 65536 = d then some (p.1 / 8 % 8192) else none

/-- The lowest parked position of the lowest VCN: VCN and position. -/
def State.lowestParked (s : State) (d : Nat) : Option (Nat × Nat) :=
  (s.poss.find? fun p => p.1 / 65536 == d && p.2.st != .empty).map fun p => (p.1 / 8 % 8192, p.1 % 8)

/-- The conditions of R283. -/
def State.deadlocked (s : State) (d : Nat) : Bool :=
  (s.listedCores d).all (fun v => s.allParked d v) && (s.lowestParked d).isSome
    && !s.net.any (Msg.touches d) && s.enginesIdle d
    && !hwakeArm (s.dev d).host.hwake
    && !s.ctxs.any fun p => keyDev p.1 == d && (p.2.timed || p.2.place == .evicted && s.waitOver d (p.1 % 2 ^ 25))

/-! ## The trap -/

/-- The parked instruction of a context is undone: its waiter, its binding and its emptied registers (R283). -/
def State.unpark (s : State) (d cid : Nat) : State :=
  let c := s.ctx d cid
  let s : State := { s with waiters := s.waiters.filter fun w => !(w.req.who.isCtx d cid && w.req.route.toCtx) }
  match c.wait with
  | some (.word _ f) | some (.reply _ f) => (s.finUndo d c.core f).modCtx d cid f.restore
  | some (.recv ch _ _) => s.modCore d c.core fun k => k.setChan ch.toNat { k.chan ch.toNat with bound := none }
  | _ => s

/-- DEADLOCK (R283): the trap of the context in the lowest occupied position of the lowest VCN, and MSI-X vector 1. -/
def execDeadlock (s : State) : Out :=
  let d := s.cur.dev
  .next (
    if s.deadlocked d then
      match s.lowestParked d with
      | some (v, p) =>
        let cid := (s.pos d v p).cid
        ((s.unpark d cid).trapCtx d cid { cause := 0x10, tval := 0 }).modHost d fun h => h.signal 1
      | none => s
    else s)

end Sys2Proof.Machine
end

