-- ==== Sys2Proof/Machine/Dispatch.lean ====
section
/-! DEFINITION. One arm per constructor: each calls the meaning of its instruction or event. -/

namespace Sys2Proof.Machine

def exec (i : Instr) (s : State) : Host.Outcome State Fault Refusal :=
  match i with
  | .lui rd imm => Sys2Proof.Machine.execLui rd imm s
  | .auipc rd imm => Sys2Proof.Machine.execAuipc rd imm s
  | .jal rd imm => Sys2Proof.Machine.execJal rd imm s
  | .jalr rd rs1 imm => Sys2Proof.Machine.execJalr rd rs1 imm s
  | .beq rs1 rs2 imm => Sys2Proof.Machine.execBeq rs1 rs2 imm s
  | .bne rs1 rs2 imm => Sys2Proof.Machine.execBne rs1 rs2 imm s
  | .blt rs1 rs2 imm => Sys2Proof.Machine.execBlt rs1 rs2 imm s
  | .bge rs1 rs2 imm => Sys2Proof.Machine.execBge rs1 rs2 imm s
  | .bltu rs1 rs2 imm => Sys2Proof.Machine.execBltu rs1 rs2 imm s
  | .bgeu rs1 rs2 imm => Sys2Proof.Machine.execBgeu rs1 rs2 imm s
  | .lb rd rs1 imm => Sys2Proof.Machine.execLb rd rs1 imm s
  | .lh rd rs1 imm => Sys2Proof.Machine.execLh rd rs1 imm s
  | .lw rd rs1 imm => Sys2Proof.Machine.execLw rd rs1 imm s
  | .ld rd rs1 imm => Sys2Proof.Machine.execLd rd rs1 imm s
  | .lbu rd rs1 imm => Sys2Proof.Machine.execLbu rd rs1 imm s
  | .lhu rd rs1 imm => Sys2Proof.Machine.execLhu rd rs1 imm s
  | .lwu rd rs1 imm => Sys2Proof.Machine.execLwu rd rs1 imm s
  | .sb rs2 rs1 imm => Sys2Proof.Machine.execSb rs2 rs1 imm s
  | .sh rs2 rs1 imm => Sys2Proof.Machine.execSh rs2 rs1 imm s
  | .sw rs2 rs1 imm => Sys2Proof.Machine.execSw rs2 rs1 imm s
  | .sd rs2 rs1 imm => Sys2Proof.Machine.execSd rs2 rs1 imm s
  | .addi rd rs1 imm => Sys2Proof.Machine.execAddi rd rs1 imm s
  | .slti rd rs1 imm => Sys2Proof.Machine.execSlti rd rs1 imm s
  | .sltiu rd rs1 imm => Sys2Proof.Machine.execSltiu rd rs1 imm s
  | .xori rd rs1 imm => Sys2Proof.Machine.execXori rd rs1 imm s
  | .ori rd rs1 imm => Sys2Proof.Machine.execOri rd rs1 imm s
  | .andi rd rs1 imm => Sys2Proof.Machine.execAndi rd rs1 imm s
  | .slli rd rs1 sh => Sys2Proof.Machine.execSlli rd rs1 sh s
  | .srli rd rs1 sh => Sys2Proof.Machine.execSrli rd rs1 sh s
  | .srai rd rs1 sh => Sys2Proof.Machine.execSrai rd rs1 sh s
  | .add rd rs1 rs2 => Sys2Proof.Machine.execAdd rd rs1 rs2 s
  | .sub rd rs1 rs2 => Sys2Proof.Machine.execSub rd rs1 rs2 s
  | .sll rd rs1 rs2 => Sys2Proof.Machine.execSll rd rs1 rs2 s
  | .slt rd rs1 rs2 => Sys2Proof.Machine.execSlt rd rs1 rs2 s
  | .sltu rd rs1 rs2 => Sys2Proof.Machine.execSltu rd rs1 rs2 s
  | .xor rd rs1 rs2 => Sys2Proof.Machine.execXor rd rs1 rs2 s
  | .srl rd rs1 rs2 => Sys2Proof.Machine.execSrl rd rs1 rs2 s
  | .sra rd rs1 rs2 => Sys2Proof.Machine.execSra rd rs1 rs2 s
  | .or rd rs1 rs2 => Sys2Proof.Machine.execOr rd rs1 rs2 s
  | .and rd rs1 rs2 => Sys2Proof.Machine.execAnd rd rs1 rs2 s
  | .addiw rd rs1 imm => Sys2Proof.Machine.execAddiw rd rs1 imm s
  | .slliw rd rs1 sh => Sys2Proof.Machine.execSlliw rd rs1 sh s
  | .srliw rd rs1 sh => Sys2Proof.Machine.execSrliw rd rs1 sh s
  | .sraiw rd rs1 sh => Sys2Proof.Machine.execSraiw rd rs1 sh s
  | .addw rd rs1 rs2 => Sys2Proof.Machine.execAddw rd rs1 rs2 s
  | .subw rd rs1 rs2 => Sys2Proof.Machine.execSubw rd rs1 rs2 s
  | .sllw rd rs1 rs2 => Sys2Proof.Machine.execSllw rd rs1 rs2 s
  | .srlw rd rs1 rs2 => Sys2Proof.Machine.execSrlw rd rs1 rs2 s
  | .sraw rd rs1 rs2 => Sys2Proof.Machine.execSraw rd rs1 rs2 s
  | .fence fm pred succ => Sys2Proof.Machine.execFence fm pred succ s
  | .fenceI => Sys2Proof.Machine.execFenceI s
  | .ecall => Sys2Proof.Machine.execEcall s
  | .ebreak => Sys2Proof.Machine.execEbreak s
  | .mul rd rs1 rs2 => Sys2Proof.Machine.execMul rd rs1 rs2 s
  | .mulh rd rs1 rs2 => Sys2Proof.Machine.execMulh rd rs1 rs2 s
  | .mulhsu rd rs1 rs2 => Sys2Proof.Machine.execMulhsu rd rs1 rs2 s
  | .mulhu rd rs1 rs2 => Sys2Proof.Machine.execMulhu rd rs1 rs2 s
  | .div rd rs1 rs2 => Sys2Proof.Machine.execDiv rd rs1 rs2 s
  | .divu rd rs1 rs2 => Sys2Proof.Machine.execDivu rd rs1 rs2 s
  | .rem rd rs1 rs2 => Sys2Proof.Machine.execRem rd rs1 rs2 s
  | .remu rd rs1 rs2 => Sys2Proof.Machine.execRemu rd rs1 rs2 s
  | .mulw rd rs1 rs2 => Sys2Proof.Machine.execMulw rd rs1 rs2 s
  | .divw rd rs1 rs2 => Sys2Proof.Machine.execDivw rd rs1 rs2 s
  | .divuw rd rs1 rs2 => Sys2Proof.Machine.execDivuw rd rs1 rs2 s
  | .remw rd rs1 rs2 => Sys2Proof.Machine.execRemw rd rs1 rs2 s
  | .remuw rd rs1 rs2 => Sys2Proof.Machine.execRemuw rd rs1 rs2 s
  | .csrrw rd rs1 csr => Sys2Proof.Machine.execCsrrw rd rs1 csr s
  | .csrrs rd rs1 csr => Sys2Proof.Machine.execCsrrs rd rs1 csr s
  | .csrrc rd rs1 csr => Sys2Proof.Machine.execCsrrc rd rs1 csr s
  | .csrrwi rd imm csr => Sys2Proof.Machine.execCsrrwi rd imm csr s
  | .csrrsi rd imm csr => Sys2Proof.Machine.execCsrrsi rd imm csr s
  | .csrrci rd imm csr => Sys2Proof.Machine.execCsrrci rd imm csr s
  | .addUw rd rs1 rs2 => Sys2Proof.Machine.execAddUw rd rs1 rs2 s
  | .sh1add rd rs1 rs2 => Sys2Proof.Machine.execSh1add rd rs1 rs2 s
  | .sh2add rd rs1 rs2 => Sys2Proof.Machine.execSh2add rd rs1 rs2 s
  | .sh3add rd rs1 rs2 => Sys2Proof.Machine.execSh3add rd rs1 rs2 s
  | .sh1addUw rd rs1 rs2 => Sys2Proof.Machine.execSh1addUw rd rs1 rs2 s
  | .sh2addUw rd rs1 rs2 => Sys2Proof.Machine.execSh2addUw rd rs1 rs2 s
  | .sh3addUw rd rs1 rs2 => Sys2Proof.Machine.execSh3addUw rd rs1 rs2 s
  | .slliUw rd rs1 sh => Sys2Proof.Machine.execSlliUw rd rs1 sh s
  | .andn rd rs1 rs2 => Sys2Proof.Machine.execAndn rd rs1 rs2 s
  | .orn rd rs1 rs2 => Sys2Proof.Machine.execOrn rd rs1 rs2 s
  | .xnor rd rs1 rs2 => Sys2Proof.Machine.execXnor rd rs1 rs2 s
  | .clz rd rs1 => Sys2Proof.Machine.execClz rd rs1 s
  | .ctz rd rs1 => Sys2Proof.Machine.execCtz rd rs1 s
  | .cpop rd rs1 => Sys2Proof.Machine.execCpop rd rs1 s
  | .clzw rd rs1 => Sys2Proof.Machine.execClzw rd rs1 s
  | .ctzw rd rs1 => Sys2Proof.Machine.execCtzw rd rs1 s
  | .cpopw rd rs1 => Sys2Proof.Machine.execCpopw rd rs1 s
  | .max rd rs1 rs2 => Sys2Proof.Machine.execMax rd rs1 rs2 s
  | .maxu rd rs1 rs2 => Sys2Proof.Machine.execMaxu rd rs1 rs2 s
  | .min rd rs1 rs2 => Sys2Proof.Machine.execMin rd rs1 rs2 s
  | .minu rd rs1 rs2 => Sys2Proof.Machine.execMinu rd rs1 rs2 s
  | .sextB rd rs1 => Sys2Proof.Machine.execSextB rd rs1 s
  | .sextH rd rs1 => Sys2Proof.Machine.execSextH rd rs1 s
  | .zextH rd rs1 => Sys2Proof.Machine.execZextH rd rs1 s
  | .rol rd rs1 rs2 => Sys2Proof.Machine.execRol rd rs1 rs2 s
  | .ror rd rs1 rs2 => Sys2Proof.Machine.execRor rd rs1 rs2 s
  | .rori rd rs1 sh => Sys2Proof.Machine.execRori rd rs1 sh s
  | .rolw rd rs1 rs2 => Sys2Proof.Machine.execRolw rd rs1 rs2 s
  | .rorw rd rs1 rs2 => Sys2Proof.Machine.execRorw rd rs1 rs2 s
  | .roriw rd rs1 sh => Sys2Proof.Machine.execRoriw rd rs1 sh s
  | .orcB rd rs1 => Sys2Proof.Machine.execOrcB rd rs1 s
  | .rev8 rd rs1 => Sys2Proof.Machine.execRev8 rd rs1 s
  | .xld wd aw xp rs1 rd => Sys2Proof.Machine.execXld wd aw xp rs1 rd s
  | .xst wd aw xp rs1 rd => Sys2Proof.Machine.execXst wd aw xp rs1 rd s
  | .ldaq sc aw xp rs1 rd => Sys2Proof.Machine.execLdaq sc aw xp rs1 rd s
  | .ldff sc aw xp rs1 rd => Sys2Proof.Machine.execLdff sc aw xp rs1 rd s
  | .ldfe sc aw xp rs1 rd => Sys2Proof.Machine.execLdfe sc aw xp rs1 rd s
  | .ldv sc aw xv rs1 rd => Sys2Proof.Machine.execLdv sc aw xv rs1 rd s
  | .strl sc aw xp rs1 rd => Sys2Proof.Machine.execStrl sc aw xp rs1 rd s
  | .stff sc aw xp rs1 rd => Sys2Proof.Machine.execStff sc aw xp rs1 rd s
  | .stef sc aw xp rs1 rd => Sys2Proof.Machine.execStef sc aw xp rs1 rd s
  | .femark sc aw xp rs1 rd => Sys2Proof.Machine.execFemark sc aw xp rs1 rd s
  | .amoAdd ar aw xp rs1 rd => Sys2Proof.Machine.execAmoAdd ar aw xp rs1 rd s
  | .amoAnd ar aw xp rs1 rd => Sys2Proof.Machine.execAmoAnd ar aw xp rs1 rd s
  | .amoOr ar aw xp rs1 rd => Sys2Proof.Machine.execAmoOr ar aw xp rs1 rd s
  | .amoXor ar aw xp rs1 rd => Sys2Proof.Machine.execAmoXor ar aw xp rs1 rd s
  | .amoMin ar aw xp rs1 rd => Sys2Proof.Machine.execAmoMin ar aw xp rs1 rd s
  | .amoMax ar aw xp rs1 rd => Sys2Proof.Machine.execAmoMax ar aw xp rs1 rd s
  | .amoMinU ar aw xp rs1 rd => Sys2Proof.Machine.execAmoMinU ar aw xp rs1 rd s
  | .amoMaxU ar aw xp rs1 rd => Sys2Proof.Machine.execAmoMaxU ar aw xp rs1 rd s
  | .amoSwap ar aw xp rs1 rd => Sys2Proof.Machine.execAmoSwap ar aw xp rs1 rd s
  | .amoCas ar aw xp rs1 rd => Sys2Proof.Machine.execAmoCas ar aw xp rs1 rd s
  | .amoCas2 ar aw xp rs1 rd => Sys2Proof.Machine.execAmoCas2 ar aw xp rs1 rd s
  | .redAdd aw xp rs1 rd => Sys2Proof.Machine.execRedAdd aw xp rs1 rd s
  | .redAnd aw xp rs1 rd => Sys2Proof.Machine.execRedAnd aw xp rs1 rd s
  | .redOr aw xp rs1 rd => Sys2Proof.Machine.execRedOr aw xp rs1 rd s
  | .redXor aw xp rs1 rd => Sys2Proof.Machine.execRedXor aw xp rs1 rd s
  | .redMin aw xp rs1 rd => Sys2Proof.Machine.execRedMin aw xp rs1 rd s
  | .redMax aw xp rs1 rd => Sys2Proof.Machine.execRedMax aw xp rs1 rd s
  | .redMinU aw xp rs1 rd => Sys2Proof.Machine.execRedMinU aw xp rs1 rd s
  | .redMaxU aw xp rs1 rd => Sys2Proof.Machine.execRedMaxU aw xp rs1 rd s
  | .fenceS sc => Sys2Proof.Machine.execFenceS sc s
  | .fenceSSt sc => Sys2Proof.Machine.execFenceSSt sc s
  | .fenceSLd sc => Sys2Proof.Machine.execFenceSLd sc s
  | .festat aw xp rs1 rd => Sys2Proof.Machine.execFestat aw xp rs1 rd s
  | .vcommit aw xv rs1 => Sys2Proof.Machine.execVcommit aw xv rs1 s
  | .vreclaim aw xv rs1 => Sys2Proof.Machine.execVreclaim aw xv rs1 s
  | .waitp rs1 => Sys2Proof.Machine.execWaitp rs1 s
  | .cpyq aw xc rs1 rd => Sys2Proof.Machine.execCpyq aw xc rs1 rd s
  | .klook rd rs1 => Sys2Proof.Machine.execKlook rd rs1 s
  | .klookp rd rs1 => Sys2Proof.Machine.execKlookp rd rs1 s
  | .klookw rd rs1 => Sys2Proof.Machine.execKlookw rd rs1 s
  | .kbind rd rs1 rs2 => Sys2Proof.Machine.execKbind rd rs1 rs2 s
  | .kbindp rd rs1 rs2 => Sys2Proof.Machine.execKbindp rd rs1 rs2 s
  | .kready rd rs2 => Sys2Proof.Machine.execKready rd rs2 s
  | .kpin rd rs2 => Sys2Proof.Machine.execKpin rd rs2 s
  | .kunpin rd rs2 => Sys2Proof.Machine.execKunpin rd rs2 s
  | .kunbind rd rs2 => Sys2Proof.Machine.execKunbind rd rs2 s
  | .kinfo rd rs2 => Sys2Proof.Machine.execKinfo rd rs2 s
  | .kvix rd rs1 rs2 => Sys2Proof.Machine.execKvix rd rs1 rs2 s
  | .kvixa rd rs1 rs2 => Sys2Proof.Machine.execKvixa rd rs1 rs2 s
  | .tsend rd rs1 rs2 => Sys2Proof.Machine.execTsend rd rs1 rs2 s
  | .tsends rd rs1 rs2 => Sys2Proof.Machine.execTsends rd rs1 rs2 s
  | .tcall rd rs1 rs2 => Sys2Proof.Machine.execTcall rd rs1 rs2 s
  | .tcancel rd rs1 => Sys2Proof.Machine.execTcancel rd rs1 s
  | .chblk rs1 => Sys2Proof.Machine.execChblk rs1 s
  | .chunblk rs1 => Sys2Proof.Machine.execChunblk rs1 s
  | .tend => Sys2Proof.Machine.execTend s
  | .tret rs1 => Sys2Proof.Machine.execTret rs1 s
  | .tyield => Sys2Proof.Machine.execTyield s
  | .recv rd rs1 => Sys2Proof.Machine.execRecv rd rs1 s
  | .irrev => Sys2Proof.Machine.execIrrev s
  | .dqpush rd rs1 => Sys2Proof.Machine.execDqpush rd rs1 s
  | .dqpop rd rs1 => Sys2Proof.Machine.execDqpop rd rs1 s
  | .dqsteal rd rs1 rs2 => Sys2Proof.Machine.execDqsteal rd rs1 rs2 s
  | .forkr rd rs1 => Sys2Proof.Machine.execForkr rd rs1 s
  | .join rd rs1 => Sys2Proof.Machine.execJoin rd rs1 s
  | .barreg rd rs1 rs2 => Sys2Proof.Machine.execBarreg rd rs1 rs2 s
  | .bararv rs1 => Sys2Proof.Machine.execBararv rs1 s
  | .barwait rd rs1 => Sys2Proof.Machine.execBarwait rd rs1 s
  | .bardrop rs1 => Sys2Proof.Machine.execBardrop rs1 s
  | .nput rt dir rs pos => Sys2Proof.Machine.execNput rt dir rs pos s
  | .trapret => Sys2Proof.Machine.execTrapret s
  | .sleept rs1 => Sys2Proof.Machine.execSleept rs1 s
  | .ctxsave rd rs1 rs2 => Sys2Proof.Machine.execCtxsave rd rs1 rs2 s
  | .jread rd rs1 rs2 => Sys2Proof.Machine.execJread rd rs1 rs2 s
  | .jretire rd rs1 rs2 => Sys2Proof.Machine.execJretire rd rs1 rs2 s
  | .ctxload rd rs1 => Sys2Proof.Machine.execCtxload rd rs1 s
  | .migrc rd rs1 rs2 => Sys2Proof.Machine.execMigrc rd rs1 rs2 s
  | .tlbi aw rd rs1 rs2 => Sys2Proof.Machine.execTlbi aw rd rs1 rs2 s
  | .scrub rs1 rs2 => Sys2Proof.Machine.execScrub rs1 rs2 s
  | .mark rs1 => Sys2Proof.Machine.execMark rs1 s
  | .vadd ty vd vs1 vs2 m => Sys2Proof.Machine.execVadd ty vd vs1 vs2 m s
  | .vsub ty vd vs1 vs2 m => Sys2Proof.Machine.execVsub ty vd vs1 vs2 m s
  | .vmul ty vd vs1 vs2 m => Sys2Proof.Machine.execVmul ty vd vs1 vs2 m s
  | .vfma ty vd vs1 vs2 m => Sys2Proof.Machine.execVfma ty vd vs1 vs2 m s
  | .vmin ty vd vs1 vs2 m => Sys2Proof.Machine.execVmin ty vd vs1 vs2 m s
  | .vmax ty vd vs1 vs2 m => Sys2Proof.Machine.execVmax ty vd vs1 vs2 m s
  | .vminu ty vd vs1 vs2 m => Sys2Proof.Machine.execVminu ty vd vs1 vs2 m s
  | .vmaxu ty vd vs1 vs2 m => Sys2Proof.Machine.execVmaxu ty vd vs1 vs2 m s
  | .vdiv ty vd vs1 vs2 m => Sys2Proof.Machine.execVdiv ty vd vs1 vs2 m s
  | .vand ty vd vs1 vs2 m => Sys2Proof.Machine.execVand ty vd vs1 vs2 m s
  | .vor ty vd vs1 vs2 m => Sys2Proof.Machine.execVor ty vd vs1 vs2 m s
  | .vxor ty vd vs1 vs2 m => Sys2Proof.Machine.execVxor ty vd vs1 vs2 m s
  | .vshl ty vd vs1 vs2 m => Sys2Proof.Machine.execVshl ty vd vs1 vs2 m s
  | .vshr ty vd vs1 vs2 m => Sys2Proof.Machine.execVshr ty vd vs1 vs2 m s
  | .vshrl ty vd vs1 vs2 m => Sys2Proof.Machine.execVshrl ty vd vs1 vs2 m s
  | .vcmp cc ty md vs1 vs2 m => Sys2Proof.Machine.execVcmp cc ty md vs1 vs2 m s
  | .vsel ty vd vs1 vs2 m => Sys2Proof.Machine.execVsel ty vd vs1 vs2 m s
  | .vcvt dst src rtz vd vs1 m => Sys2Proof.Machine.execVcvt dst src rtz vd vs1 m s
  | .vredsum ty vd vs1 m => Sys2Proof.Machine.execVredsum ty vd vs1 m s
  | .vredmax ty vd vs1 m => Sys2Proof.Machine.execVredmax ty vd vs1 m s
  | .vbcast ty vd rs1 m => Sys2Proof.Machine.execVbcast ty vd rs1 m s
  | .vextr ty rd vs1 rs2 => Sys2Proof.Machine.execVextr ty rd vs1 rs2 s
  | .vins ty vd rs1 rs2 => Sys2Proof.Machine.execVins ty vd rs1 rs2 s
  | .vld aw vd rs1 m => Sys2Proof.Machine.execVld aw vd rs1 m s
  | .vst aw vs3 rs1 m => Sys2Proof.Machine.execVst aw vs3 rs1 m s
  | .vldx dw aw vd rs1 vs2 m => Sys2Proof.Machine.execVldx dw aw vd rs1 vs2 m s
  | .vstx dw aw vs3 rs1 vs2 m => Sys2Proof.Machine.execVstx dw aw vs3 rs1 vs2 m s
  | .vperm ty vd vs1 vs2 m => Sys2Proof.Machine.execVperm ty vd vs1 vs2 m s
  | .vquant ty vd vs1 m => Sys2Proof.Machine.execVquant ty vd vs1 m s
  | .vdeq ty vd vs1 m => Sys2Proof.Machine.execVdeq ty vd vs1 m s
  | .vnput dir pos vt vs1 => Sys2Proof.Machine.execVnput dir pos vt vs1 s
  | .vsqrt ty vd vs1 m => Sys2Proof.Machine.execVsqrt ty vd vs1 m s
  | .vrsqrt ty vd vs1 m => Sys2Proof.Machine.execVrsqrt ty vd vs1 m s
  | .vexp2 ty vd vs1 m => Sys2Proof.Machine.execVexp2 ty vd vs1 m s
  | .vlog2 ty vd vs1 m => Sys2Proof.Machine.execVlog2 ty vd vs1 m s
  | .vabs ty vd vs1 m => Sys2Proof.Machine.execVabs ty vd vs1 m s
  | .vneg ty vd vs1 m => Sys2Proof.Machine.execVneg ty vd vs1 m s
  | .vqapp vs rs1 m => Sys2Proof.Machine.execVqapp vs rs1 m s
  | .vmova ty vd acc rs1 => Sys2Proof.Machine.execVmova ty vd acc rs1 s
  | .vmovaw ty acc rs1 vs => Sys2Proof.Machine.execVmovaw ty acc rs1 vs s
  | .vscale ty vd vs1 m => Sys2Proof.Machine.execVscale ty vd vs1 m s
  | .mma c => Sys2Proof.Machine.execMma c s
  | .mmaz c => Sys2Proof.Machine.execMmaz c s
  | .maccst c => Sys2Proof.Machine.execMaccst c s
  | .maccld c => Sys2Proof.Machine.execMaccld c s
  | .mpack c => Sys2Proof.Machine.execMpack c s
  | .mxpose c => Sys2Proof.Machine.execMxpose c s
  | .mzero c => Sys2Proof.Machine.execMzero c s
  | .tileCommandExecution => Sys2Proof.Machine.execTileCommandExecution s
  | .tileCommandCompletion => Sys2Proof.Machine.execTileCommandCompletion s
  | .vectorCompletion => Sys2Proof.Machine.execVectorCompletion s
  | .registerWrite host reg v => Sys2Proof.Machine.execRegisterWrite host reg v s
  | .kmcfgWrite v => Sys2Proof.Machine.execKmcfgWrite v s
  | .xemptyWrite v => Sys2Proof.Machine.execXemptyWrite v s
  | .vemptyWrite v => Sys2Proof.Machine.execVemptyWrite v s
  | .chtabWrite v => Sys2Proof.Machine.execChtabWrite v s
  | .ctxbaseWrite v => Sys2Proof.Machine.execCtxbaseWrite v s
  | .gvtperWrite v => Sys2Proof.Machine.execGvtperWrite v s
  | .deqbaseWrite v => Sys2Proof.Machine.execDeqbaseWrite v s
  | .inbaseWrite v => Sys2Proof.Machine.execInbaseWrite v s
  | .sampcfgWrite v => Sys2Proof.Machine.execSampcfgWrite v s
  | .nvmeBindingWrite port v => Sys2Proof.Machine.execNvmeBindingWrite port v s
  | .launchConfigWrite hart v => Sys2Proof.Machine.execLaunchConfigWrite hart v s
  | .tailStore hart v => Sys2Proof.Machine.execTailStore hart v s
  | .launchRecordRead hart => Sys2Proof.Machine.execLaunchRecordRead hart s
  | .launch hart => Sys2Proof.Machine.execLaunch hart s
  | .launchDelivery hart n => Sys2Proof.Machine.execLaunchDelivery hart n s
  | .domainLaunchShare n => Sys2Proof.Machine.execDomainLaunchShare n s
  | .hwakeWrite v => Sys2Proof.Machine.execHwakeWrite v s
  | .hwakeExpiry => Sys2Proof.Machine.execHwakeExpiry s
  | .cxlbaseWrite v => Sys2Proof.Machine.execCxlbaseWrite v s
  | .cxlsizeWrite v => Sys2Proof.Machine.execCxlsizeWrite v s
  | .hostRead off => Sys2Proof.Machine.execHostRead off s
  | .hostWrite off v => Sys2Proof.Machine.execHostWrite off v s
  | .attest => Sys2Proof.Machine.execAttest s
  | .tenkey => Sys2Proof.Machine.execTenkey s
  | .tenclr => Sys2Proof.Machine.execTenclr s
  | .loghead => Sys2Proof.Machine.execLoghead s
  | .reset => Sys2Proof.Machine.execReset s
  | .identity => Sys2Proof.Machine.execIdentity s
  | .update => Sys2Proof.Machine.execUpdate s
  | .homeService n => Sys2Proof.Machine.execHomeService n s
  | .stealService n => Sys2Proof.Machine.execStealService n s
  | .replyLands n => Sys2Proof.Machine.execReplyLands n s
  | .acknowledgementLands n => Sys2Proof.Machine.execAcknowledgementLands n s
  | .postedStoreRefused n => Sys2Proof.Machine.execPostedStoreRefused n s
  | .asynchronousTrap => Sys2Proof.Machine.execAsynchronousTrap s
  | .splitLoadWordLands n => Sys2Proof.Machine.execSplitLoadWordLands n s
  | .pageWalk cl ten va drop => Sys2Proof.Machine.execPageWalk cl ten va drop s
  | .externalFillArrival n => Sys2Proof.Machine.execExternalFillArrival n s
  | .neighbourFillArrival n => Sys2Proof.Machine.execNeighbourFillArrival n s
  | .klookwWake => Sys2Proof.Machine.execKlookwWake s
  | .recordArrival n => Sys2Proof.Machine.execRecordArrival n s
  | .rollbackEnd ch => Sys2Proof.Machine.execRollbackEnd ch s
  | .antiMessageArrival n => Sys2Proof.Machine.execAntiMessageArrival n s
  | .orderedResend n => Sys2Proof.Machine.execOrderedResend n s
  | .dispatchChoice => Sys2Proof.Machine.execDispatchChoice s
  | .eviction => Sys2Proof.Machine.execEviction s
  | .waitEnd cid => Sys2Proof.Machine.execWaitEnd cid s
  | .ebudgetRefill => Sys2Proof.Machine.execEbudgetRefill s
  | .sleeptExpiry => Sys2Proof.Machine.execSleeptExpiry s
  | .waitpPromiseExpiry => Sys2Proof.Machine.execWaitpPromiseExpiry s
  | .deadlock => Sys2Proof.Machine.execDeadlock s
  | .gvtRoundStart => Sys2Proof.Machine.execGvtRoundStart s
  | .gvtPass => Sys2Proof.Machine.execGvtPass s
  | .jubilee => Sys2Proof.Machine.execJubilee s
  | .copy hart k => Sys2Proof.Machine.execCopy hart k s
  | .deal hart k => Sys2Proof.Machine.execDeal hart k s
  | .gather hart k => Sys2Proof.Machine.execGather hart k s
  | .pool hart => Sys2Proof.Machine.execPool hart s
  | .migrate hart => Sys2Proof.Machine.execMigrate hart s
  | .fillreg hart => Sys2Proof.Machine.execFillreg hart s
  | .fill hart k => Sys2Proof.Machine.execFill hart k s
  | .viewreg hart => Sys2Proof.Machine.execViewreg hart s
  | .viewBlockBuild hart => Sys2Proof.Machine.execViewBlockBuild hart s
  | .sample => Sys2Proof.Machine.execSample s
  | .almanacSnapshot => Sys2Proof.Machine.execAlmanacSnapshot s
  | .logHeadRecord => Sys2Proof.Machine.execLogHeadRecord s
  | .softErrorCorrected kind sub addr syn => Sys2Proof.Machine.execSoftErrorCorrected kind sub addr syn s
  | .uncorrectableSoftError loc addr => Sys2Proof.Machine.execUncorrectableSoftError loc addr s
  | .membershipChange peer up => Sys2Proof.Machine.execMembershipChange peer up s
  | .laneRetrain port => Sys2Proof.Machine.execLaneRetrain port s
  | .droop cl => Sys2Proof.Machine.execDroop cl s
  | .powerCap => Sys2Proof.Machine.execPowerCap s
  | .thermalLimit => Sys2Proof.Machine.execThermalLimit s
  | .thermalTrip => Sys2Proof.Machine.execThermalTrip s
  | .powerOn => Sys2Proof.Machine.execPowerOn s
  | .perst => Sys2Proof.Machine.execPerst s
  | .unassignedEncoding word => Sys2Proof.Machine.execUnassignedEncoding word s
  | .voltageRecovers cl => Sys2Proof.Machine.execVoltageRecovers cl s
  | .powerBelowPcap => Sys2Proof.Machine.execPowerBelowPcap s
  | .fullRetrainingDone port => Sys2Proof.Machine.execFullRetrainingDone port s

end Sys2Proof.Machine
end

