-- ==== Sys2Proof/Decode.lean ====
section
/-! DEFINITION. Decoding of instruction words (R55 to R65, R227 to R229) and, after it, the encoder. A 32-bit word is split
once into the six fields of the RISC-V frame; every other field of the manual is a part or a join of these. -/

namespace Sys2Proof

/-- Why a word is no instruction (R58, R59, R57 step 2). -/
inductive Reject where
  /-- Fewer bytes than one instruction: the fetch always supplies enough, so no run raises it. Safe. -/
  | short
  /-- Bits [1:0] are not 0b11 (R55). -/
  | lowBits
  /-- The major opcode traps (R58). -/
  | majorOpcode
  /-- A funct3, funct7, sub-code, type or op that is not assigned (R59 to R65). -/
  | unassigned
  /-- A field that must be zero is not (R60, R62, R63, R227). -/
  | reserved
  /-- A vector-register field with bit 4 set (R57). -/
  | vectorRegister
  /-- The fields break a rule between fields: a type the operation does not accept, m0 as a destination, a tile command's
  field rules (R57, R203, R228). -/
  | fieldRule
deriving DecidableEq, Repr, Inhabited

/-- The six fields of a 32-bit word: [31:25], [24:20], [19:15], [14:12], [11:7], [6:0]. -/
structure Fields where
  /-- [31:25]. -/
  f7 : BitVec 7
  /-- [24:20]. -/
  rs2 : BitVec 5
  /-- [19:15]. -/
  rs1 : BitVec 5
  /-- [14:12]. -/
  f3 : BitVec 3
  /-- [11:7]. -/
  rd : BitVec 5
  /-- [6:0]. -/
  op : BitVec 7
deriving DecidableEq, Repr, Inhabited

/-- The word of six fields. -/
def packWord (f : Fields) : BitVec 32 := f.f7 ++ f.rs2 ++ f.rs1 ++ f.f3 ++ f.rd ++ f.op

/-- The six fields of a word. -/
def unpackWord (w : BitVec 32) : Fields :=
  ⟨w.extractLsb' 25 7, w.extractLsb' 20 5, w.extractLsb' 15 5, w.extractLsb' 12 3, w.extractLsb' 7 5, w.extractLsb' 0 7⟩

/-- [31:27] of a custom word: sub or op (R60, R63). -/
def Fields.sub (f : Fields) : BitVec 5 := f.f7.extractLsb' 2 5

/-- [26:25] of a custom word: the window, mask, direction or tile (R60, R62 to R64). -/
def Fields.aw (f : Fields) : BitVec 2 := f.f7.extractLsb' 0 2

/-- The 12-bit immediate of LOAD, OP-IMM, JALR and SYSTEM: [31:20]. -/
def Fields.immI (f : Fields) : BitVec 12 := f.f7 ++ f.rs2

/-- The 12-bit immediate of STORE. -/
def Fields.immS (f : Fields) : BitVec 12 := f.f7 ++ f.rd

/-- Bits [12:1] of a branch offset. -/
def Fields.immB (f : Fields) : BitVec 12 :=
  f.f7.extractLsb' 6 1 ++ f.rd.extractLsb' 0 1 ++ f.f7.extractLsb' 0 6 ++ f.rd.extractLsb' 1 4

/-- Bits [20:1] of a JAL offset. -/
def Fields.immJ (f : Fields) : BitVec 20 :=
  f.f7.extractLsb' 6 1 ++ f.rs1 ++ f.f3 ++ f.rs2.extractLsb' 0 1 ++ f.f7.extractLsb' 0 6 ++ f.rs2.extractLsb' 1 4

/-- [31:12] of LUI and AUIPC. -/
def Fields.immU (f : Fields) : BitVec 20 := f.f7 ++ f.rs2 ++ f.rs1 ++ f.f3

/-- The six-bit shift amount of an RV64 immediate shift, [25:20]. -/
def Fields.sh6 (f : Fields) : BitVec 6 := f.f7.extractLsb' 0 1 ++ f.rs2

/-- [31:26] of an RV64 immediate shift. -/
def Fields.f6 (f : Fields) : BitVec 6 := f.f7.extractLsb' 1 6

/-- The width code of an XLD (R60). -/
def LdWidth.code : LdWidth → BitVec 3
  | .b => 0#3 | .h => 1#3 | .w => 2#3 | .d => 3#3 | .bu => 4#3 | .hu => 5#3 | .wu => 6#3

/-- The XLD width of a code (R60). -/
def LdWidth.ofCode (c : BitVec 3) : Option LdWidth :=
  match c.toNat with
  | 0 => some .b | 1 => some .h | 2 => some .w | 3 => some .d | 4 => some .bu | 5 => some .hu | 6 => some .wu | _ => none

/-- The width code of an XST (R60). -/
def StWidth.code : StWidth → BitVec 3
  | .b => 0#3 | .h => 1#3 | .w => 2#3 | .d => 3#3

/-- The XST width of a code (R60). -/
def StWidth.ofCode (c : BitVec 3) : Option StWidth :=
  match c.toNat with
  | 0 => some .b | 1 => some .h | 2 => some .w | 3 => some .d | _ => none

/-- The code of a scope (R101). -/
def Scope.code : Scope → BitVec 3
  | .th => 0#3 | .co => 1#3 | .cl => 2#3 | .dv => 3#3 | .dm => 4#3 | .sy => 5#3

/-- The scope of a code; 110 and 111 are illegal (R60). -/
def Scope.ofCode (c : BitVec 3) : Option Scope :=
  match c.toNat with
  | 0 => some .th | 1 => some .co | 2 => some .cl | 3 => some .dv | 4 => some .dm | 5 => some .sy | _ => none

/-- The code of a lane type (R63). -/
def VTy.code : VTy → BitVec 3
  | .f32 => 0#3 | .bf16 => 1#3 | .f16 => 2#3 | .i8 => 3#3 | .i16 => 4#3 | .i32 => 5#3 | .i64 => 6#3

/-- The lane type of a code; 111 is illegal (R63). -/
def VTy.ofCode (c : BitVec 3) : Option VTy :=
  match c.toNat with
  | 0 => some .f32 | 1 => some .bf16 | 2 => some .f16 | 3 => some .i8 | 4 => some .i16 | 5 => some .i32 | 6 => some .i64
  | _ => none

/-- The code of a VCMP condition (R63). -/
def Cond.code : Cond → BitVec 3
  | .eq => 0#3 | .ne => 1#3 | .lt => 2#3 | .le => 3#3 | .ltu => 4#3 | .leu => 5#3

/-- The VCMP condition of a code (R63). -/
def Cond.ofCode (c : BitVec 3) : Option Cond :=
  match c.toNat with
  | 0 => some .eq | 1 => some .ne | 2 => some .lt | 3 => some .le | 4 => some .ltu | 5 => some .leu | _ => none

/-- The code of a direction (R62). -/
def Dir.code : Dir → BitVec 2
  | .n => 0#2 | .e => 1#2 | .s => 2#2 | .w => 3#2

/-- The direction of a code (R62). -/
def Dir.ofCode (c : BitVec 2) : Dir :=
  match c.toNat with
  | 0 => .n | 1 => .e | 2 => .s | _ => .w

/-- The op code of a tile command (R65). -/
def TileOp.code : TileOp → BitVec 5
  | .mma => 1#5 | .mmaz => 2#5 | .maccst => 3#5 | .maccld => 4#5 | .mpack => 5#5 | .mxpose => 6#5 | .mzero => 7#5

/-- The tile op of a code (R65). -/
def TileOp.ofCode (c : BitVec 5) : Option TileOp :=
  match c.toNat with
  | 1 => some .mma | 2 => some .mmaz | 3 => some .maccst | 4 => some .maccld | 5 => some .mpack | 6 => some .mxpose
  | 7 => some .mzero | _ => none

/-- The instruction of a tile op and its fields. -/
def TileOp.instr : TileOp → TileCmd → Instr
  | .mma, c => .mma c | .mmaz, c => .mmaz c | .maccst, c => .maccst c | .maccld, c => .maccld c
  | .mpack, c => .mpack c | .mxpose, c => .mxpose c | .mzero, c => .mzero c

/-- The result of a decode. -/
abbrev Decoded := Except Reject Instr

/-- Answer i when the fields that must be zero are zero (R60). -/
def zeroed (z : Bool) (i : Instr) : Decoded := if z then .ok i else .error .reserved

/-- A vector register of a field; bit 4 set is illegal (R57). -/
def vreg (f : BitVec 5) (k : VReg → Decoded) : Decoded :=
  if f.extractLsb' 4 1 == 0#1 then k (f.extractLsb' 0 4) else .error .vectorRegister

/-- A type field, or the rejection of 111 (R63). -/
def vty (f : BitVec 3) (k : VTy → Decoded) : Decoded :=
  match VTy.ofCode f with
  | some t => k t
  | none => .error .unassigned

/-- RV64I loads (R191). -/
def decodeLoad (f : Fields) : Decoded :=
  if f.f3 == 0#3 then .ok (.lb f.rd f.rs1 f.immI)
  else if f.f3 == 1#3 then .ok (.lh f.rd f.rs1 f.immI)
  else if f.f3 == 2#3 then .ok (.lw f.rd f.rs1 f.immI)
  else if f.f3 == 3#3 then .ok (.ld f.rd f.rs1 f.immI)
  else if f.f3 == 4#3 then .ok (.lbu f.rd f.rs1 f.immI)
  else if f.f3 == 5#3 then .ok (.lhu f.rd f.rs1 f.immI)
  else if f.f3 == 6#3 then .ok (.lwu f.rd f.rs1 f.immI)
  else .error .unassigned

/-- RV64I stores (R191). -/
def decodeStore (f : Fields) : Decoded :=
  if f.f3 == 0#3 then .ok (.sb f.rs2 f.rs1 f.immS)
  else if f.f3 == 1#3 then .ok (.sh f.rs2 f.rs1 f.immS)
  else if f.f3 == 2#3 then .ok (.sw f.rs2 f.rs1 f.immS)
  else if f.f3 == 3#3 then .ok (.sd f.rs2 f.rs1 f.immS)
  else .error .unassigned

/-- RV64I branches (R191). -/
def decodeBranch (f : Fields) : Decoded :=
  if f.f3 == 0#3 then .ok (.beq f.rs1 f.rs2 f.immB)
  else if f.f3 == 1#3 then .ok (.bne f.rs1 f.rs2 f.immB)
  else if f.f3 == 4#3 then .ok (.blt f.rs1 f.rs2 f.immB)
  else if f.f3 == 5#3 then .ok (.bge f.rs1 f.rs2 f.immB)
  else if f.f3 == 6#3 then .ok (.bltu f.rs1 f.rs2 f.immB)
  else if f.f3 == 7#3 then .ok (.bgeu f.rs1 f.rs2 f.immB)
  else .error .unassigned

/-- OP-IMM: RV64I and Zbb (R191). -/
def decodeOpImm (f : Fields) : Decoded :=
  if f.f3 == 0#3 then .ok (.addi f.rd f.rs1 f.immI)
  else if f.f3 == 2#3 then .ok (.slti f.rd f.rs1 f.immI)
  else if f.f3 == 3#3 then .ok (.sltiu f.rd f.rs1 f.immI)
  else if f.f3 == 4#3 then .ok (.xori f.rd f.rs1 f.immI)
  else if f.f3 == 6#3 then .ok (.ori f.rd f.rs1 f.immI)
  else if f.f3 == 7#3 then .ok (.andi f.rd f.rs1 f.immI)
  else if f.f3 == 1#3 && f.f6 == 0x0#6 then .ok (.slli f.rd f.rs1 f.sh6)
  else if f.f3 == 5#3 && f.f6 == 0x0#6 then .ok (.srli f.rd f.rs1 f.sh6)
  else if f.f3 == 5#3 && f.f6 == 0x10#6 then .ok (.srai f.rd f.rs1 f.sh6)
  else if f.f3 == 5#3 && f.f6 == 0x18#6 then .ok (.rori f.rd f.rs1 f.sh6)
  else if f.f3 == 1#3 && f.f7 == 0x30#7 && f.rs2 == 0x0#5 then .ok (.clz f.rd f.rs1)
  else if f.f3 == 1#3 && f.f7 == 0x30#7 && f.rs2 == 0x1#5 then .ok (.ctz f.rd f.rs1)
  else if f.f3 == 1#3 && f.f7 == 0x30#7 && f.rs2 == 0x2#5 then .ok (.cpop f.rd f.rs1)
  else if f.f3 == 1#3 && f.f7 == 0x30#7 && f.rs2 == 0x4#5 then .ok (.sextB f.rd f.rs1)
  else if f.f3 == 1#3 && f.f7 == 0x30#7 && f.rs2 == 0x5#5 then .ok (.sextH f.rd f.rs1)
  else if f.f3 == 5#3 && f.f7 == 0x14#7 && f.rs2 == 0x7#5 then .ok (.orcB f.rd f.rs1)
  else if f.f3 == 5#3 && f.f7 == 0x35#7 && f.rs2 == 0x18#5 then .ok (.rev8 f.rd f.rs1)
  else .error .unassigned

/-- OP-IMM-32: RV64I, Zba and Zbb (R191). -/
def decodeOpImm32 (f : Fields) : Decoded :=
  if f.f3 == 0#3 then .ok (.addiw f.rd f.rs1 f.immI)
  else if f.f3 == 1#3 && f.f7 == 0x0#7 then .ok (.slliw f.rd f.rs1 f.rs2)
  else if f.f3 == 5#3 && f.f7 == 0x0#7 then .ok (.srliw f.rd f.rs1 f.rs2)
  else if f.f3 == 5#3 && f.f7 == 0x20#7 then .ok (.sraiw f.rd f.rs1 f.rs2)
  else if f.f3 == 5#3 && f.f7 == 0x30#7 then .ok (.roriw f.rd f.rs1 f.rs2)
  else if f.f3 == 1#3 && f.f6 == 2#6 then .ok (.slliUw f.rd f.rs1 f.sh6)
  else if f.f3 == 1#3 && f.f7 == 0x30#7 && f.rs2 == 0x0#5 then .ok (.clzw f.rd f.rs1)
  else if f.f3 == 1#3 && f.f7 == 0x30#7 && f.rs2 == 0x1#5 then .ok (.ctzw f.rd f.rs1)
  else if f.f3 == 1#3 && f.f7 == 0x30#7 && f.rs2 == 0x2#5 then .ok (.cpopw f.rd f.rs1)
  else .error .unassigned

/-- OP: RV64I, M, Zba and Zbb (R191). -/
def decodeOp (f : Fields) : Decoded :=
  if f.f7 == 0x0#7 && f.f3 == 0#3 then .ok (.add f.rd f.rs1 f.rs2)
  else if f.f7 == 0x20#7 && f.f3 == 0#3 then .ok (.sub f.rd f.rs1 f.rs2)
  else if f.f7 == 0x0#7 && f.f3 == 1#3 then .ok (.sll f.rd f.rs1 f.rs2)
  else if f.f7 == 0x0#7 && f.f3 == 2#3 then .ok (.slt f.rd f.rs1 f.rs2)
  else if f.f7 == 0x0#7 && f.f3 == 3#3 then .ok (.sltu f.rd f.rs1 f.rs2)
  else if f.f7 == 0x0#7 && f.f3 == 4#3 then .ok (.xor f.rd f.rs1 f.rs2)
  else if f.f7 == 0x0#7 && f.f3 == 5#3 then .ok (.srl f.rd f.rs1 f.rs2)
  else if f.f7 == 0x20#7 && f.f3 == 5#3 then .ok (.sra f.rd f.rs1 f.rs2)
  else if f.f7 == 0x0#7 && f.f3 == 6#3 then .ok (.or f.rd f.rs1 f.rs2)
  else if f.f7 == 0x0#7 && f.f3 == 7#3 then .ok (.and f.rd f.rs1 f.rs2)
  else if f.f7 == 0x1#7 && f.f3 == 0#3 then .ok (.mul f.rd f.rs1 f.rs2)
  else if f.f7 == 0x1#7 && f.f3 == 1#3 then .ok (.mulh f.rd f.rs1 f.rs2)
  else if f.f7 == 0x1#7 && f.f3 == 2#3 then .ok (.mulhsu f.rd f.rs1 f.rs2)
  else if f.f7 == 0x1#7 && f.f3 == 3#3 then .ok (.mulhu f.rd f.rs1 f.rs2)
  else if f.f7 == 0x1#7 && f.f3 == 4#3 then .ok (.div f.rd f.rs1 f.rs2)
  else if f.f7 == 0x1#7 && f.f3 == 5#3 then .ok (.divu f.rd f.rs1 f.rs2)
  else if f.f7 == 0x1#7 && f.f3 == 6#3 then .ok (.rem f.rd f.rs1 f.rs2)
  else if f.f7 == 0x1#7 && f.f3 == 7#3 then .ok (.remu f.rd f.rs1 f.rs2)
  else if f.f7 == 0x10#7 && f.f3 == 2#3 then .ok (.sh1add f.rd f.rs1 f.rs2)
  else if f.f7 == 0x10#7 && f.f3 == 4#3 then .ok (.sh2add f.rd f.rs1 f.rs2)
  else if f.f7 == 0x10#7 && f.f3 == 6#3 then .ok (.sh3add f.rd f.rs1 f.rs2)
  else if f.f7 == 0x20#7 && f.f3 == 7#3 then .ok (.andn f.rd f.rs1 f.rs2)
  else if f.f7 == 0x20#7 && f.f3 == 6#3 then .ok (.orn f.rd f.rs1 f.rs2)
  else if f.f7 == 0x20#7 && f.f3 == 4#3 then .ok (.xnor f.rd f.rs1 f.rs2)
  else if f.f7 == 0x5#7 && f.f3 == 6#3 then .ok (.max f.rd f.rs1 f.rs2)
  else if f.f7 == 0x5#7 && f.f3 == 7#3 then .ok (.maxu f.rd f.rs1 f.rs2)
  else if f.f7 == 0x5#7 && f.f3 == 4#3 then .ok (.min f.rd f.rs1 f.rs2)
  else if f.f7 == 0x5#7 && f.f3 == 5#3 then .ok (.minu f.rd f.rs1 f.rs2)
  else if f.f7 == 0x30#7 && f.f3 == 1#3 then .ok (.rol f.rd f.rs1 f.rs2)
  else if f.f7 == 0x30#7 && f.f3 == 5#3 then .ok (.ror f.rd f.rs1 f.rs2)
  else .error .unassigned

/-- OP-32: RV64I, M, Zba and Zbb (R191). -/
def decodeOp32 (f : Fields) : Decoded :=
  if f.f7 == 0x0#7 && f.f3 == 0#3 then .ok (.addw f.rd f.rs1 f.rs2)
  else if f.f7 == 0x20#7 && f.f3 == 0#3 then .ok (.subw f.rd f.rs1 f.rs2)
  else if f.f7 == 0x0#7 && f.f3 == 1#3 then .ok (.sllw f.rd f.rs1 f.rs2)
  else if f.f7 == 0x0#7 && f.f3 == 5#3 then .ok (.srlw f.rd f.rs1 f.rs2)
  else if f.f7 == 0x20#7 && f.f3 == 5#3 then .ok (.sraw f.rd f.rs1 f.rs2)
  else if f.f7 == 0x1#7 && f.f3 == 0#3 then .ok (.mulw f.rd f.rs1 f.rs2)
  else if f.f7 == 0x1#7 && f.f3 == 4#3 then .ok (.divw f.rd f.rs1 f.rs2)
  else if f.f7 == 0x1#7 && f.f3 == 5#3 then .ok (.divuw f.rd f.rs1 f.rs2)
  else if f.f7 == 0x1#7 && f.f3 == 6#3 then .ok (.remw f.rd f.rs1 f.rs2)
  else if f.f7 == 0x1#7 && f.f3 == 7#3 then .ok (.remuw f.rd f.rs1 f.rs2)
  else if f.f7 == 0x4#7 && f.f3 == 0#3 then .ok (.addUw f.rd f.rs1 f.rs2)
  else if f.f7 == 0x10#7 && f.f3 == 2#3 then .ok (.sh1addUw f.rd f.rs1 f.rs2)
  else if f.f7 == 0x10#7 && f.f3 == 4#3 then .ok (.sh2addUw f.rd f.rs1 f.rs2)
  else if f.f7 == 0x10#7 && f.f3 == 6#3 then .ok (.sh3addUw f.rd f.rs1 f.rs2)
  else if f.f7 == 0x30#7 && f.f3 == 1#3 then .ok (.rolw f.rd f.rs1 f.rs2)
  else if f.f7 == 0x30#7 && f.f3 == 5#3 then .ok (.rorw f.rd f.rs1 f.rs2)
  else if f.f7 == 0x4#7 && f.f3 == 4#3 && f.rs2 == 0#5 then .ok (.zextH f.rd f.rs1)
  else .error .unassigned

/-- MISC-MEM: FENCE with rd and rs1 zero, and FENCE.I exactly (R59). -/
def decodeMisc (f : Fields) : Decoded :=
  if f.f3 == 0#3 then
    zeroed (f.rd == 0#5 && f.rs1 == 0#5)
      (.fence (f.f7.extractLsb' 3 4) (f.f7.extractLsb' 0 3 ++ f.rs2.extractLsb' 4 1) (f.rs2.extractLsb' 0 4))
  else if f.f3 == 1#3 then zeroed (f.f7 == 0#7 && f.rs2 == 0#5 && f.rs1 == 0#5 && f.rd == 0#5) .fenceI
  else .error .unassigned

/-- SYSTEM: ECALL, EBREAK and Zicsr (R58, R59). -/
def decodeSystem (f : Fields) : Decoded :=
  if f.f3 == 0#3 then
    if f.f7 == 0#7 && f.rs2 == 0#5 && f.rs1 == 0#5 && f.rd == 0#5 then .ok .ecall
    else if f.f7 == 0#7 && f.rs2 == 1#5 && f.rs1 == 0#5 && f.rd == 0#5 then .ok .ebreak
    else .error .unassigned
  else if f.f3 == 1#3 then .ok (.csrrw f.rd f.rs1 f.immI)
  else if f.f3 == 2#3 then .ok (.csrrs f.rd f.rs1 f.immI)
  else if f.f3 == 3#3 then .ok (.csrrc f.rd f.rs1 f.immI)
  else if f.f3 == 5#3 then .ok (.csrrwi f.rd f.rs1 f.immI)
  else if f.f3 == 6#3 then .ok (.csrrsi f.rd f.rs1 f.immI)
  else if f.f3 == 7#3 then .ok (.csrrci f.rd f.rs1 f.immI)
  else .error .unassigned

/-- The kind [28:27] of an ordered load or store (R60). -/
def Fields.kind (f : Fields) : BitVec 2 := f.f7.extractLsb' 2 2

/-- The width or scope [31:29] of a custom-0 word (R60). -/
def Fields.hi3 (f : Fields) : BitVec 3 := f.f7.extractLsb' 4 3

/-- The operation [31:28] of an AMO or RED (R60). -/
def Fields.hi4 (f : Fields) : BitVec 4 := f.f7.extractLsb' 3 4

/-- Bit [27] of an AMO or RED (R60). -/
def Fields.ar (f : Fields) : Bool := f.f7.extractLsb' 2 1 == 1#1

/-- The ordered loads (R60). -/
def decodeOrderedLoad (f : Fields) : Decoded :=
  match Scope.ofCode f.hi3 with
  | none => .error .unassigned
  | some sc =>
    if f.kind == 0#2 then .ok (.ldaq sc f.aw f.rs2 f.rs1 f.rd)
    else if f.kind == 1#2 then .ok (.ldff sc f.aw f.rs2 f.rs1 f.rd)
    else if f.kind == 2#2 then .ok (.ldfe sc f.aw f.rs2 f.rs1 f.rd)
    else .ok (.ldv sc f.aw f.rs2 f.rs1 f.rd)

/-- The ordered stores (R60). -/
def decodeOrderedStore (f : Fields) : Decoded :=
  match Scope.ofCode f.hi3 with
  | none => .error .unassigned
  | some sc =>
    if f.kind == 0#2 then .ok (.strl sc f.aw f.rs2 f.rs1 f.rd)
    else if f.kind == 1#2 then .ok (.stff sc f.aw f.rs2 f.rs1 f.rd)
    else if f.kind == 2#2 then .ok (.stef sc f.aw f.rs2 f.rs1 f.rd)
    else .ok (.femark sc f.aw f.rs2 f.rs1 f.rd)

/-- XSYNC: FENCE, FESTAT, VCOMMIT, VRECLAIM and WAITP (R60, R109). -/
def decodeXsync (f : Fields) : Decoded :=
  if f.sub == 0#5 then
    match Scope.ofCode (f.rs1.extractLsb' 0 3) with
    | none => .error .unassigned
    | some sc =>
      if f.rs1.extractLsb' 3 2 == 0#2 then zeroed (f.aw == 0#2 && f.rs2 == 0#5 && f.rd == 0#5) (.fenceS sc)
      else if f.rs1.extractLsb' 3 2 == 1#2 then zeroed (f.aw == 0#2 && f.rs2 == 0#5 && f.rd == 0#5) (.fenceSSt sc)
      else if f.rs1.extractLsb' 3 2 == 2#2 then zeroed (f.aw == 0#2 && f.rs2 == 0#5 && f.rd == 0#5) (.fenceSLd sc)
      else .error .unassigned
  else if f.sub == 1#5 then .ok (.festat f.aw f.rs2 f.rs1 f.rd)
  else if f.sub == 2#5 then zeroed (f.rd == 0#5) (.vcommit f.aw f.rs2 f.rs1)
  else if f.sub == 3#5 then zeroed (f.rd == 0#5) (.vreclaim f.aw f.rs2 f.rs1)
  else if f.sub == 4#5 then zeroed (f.aw == 0#2 && f.rs2 == 0#5 && f.rd == 0#5) (.waitp f.rs1)
  else .error .unassigned

/-- AMO (R60). -/
def decodeAmo (f : Fields) : Decoded :=
  if f.hi4 == 0#4 then .ok (.amoAdd f.ar f.aw f.rs2 f.rs1 f.rd)
  else if f.hi4 == 1#4 then .ok (.amoAnd f.ar f.aw f.rs2 f.rs1 f.rd)
  else if f.hi4 == 2#4 then .ok (.amoOr f.ar f.aw f.rs2 f.rs1 f.rd)
  else if f.hi4 == 3#4 then .ok (.amoXor f.ar f.aw f.rs2 f.rs1 f.rd)
  else if f.hi4 == 4#4 then .ok (.amoMin f.ar f.aw f.rs2 f.rs1 f.rd)
  else if f.hi4 == 5#4 then .ok (.amoMax f.ar f.aw f.rs2 f.rs1 f.rd)
  else if f.hi4 == 6#4 then .ok (.amoMinU f.ar f.aw f.rs2 f.rs1 f.rd)
  else if f.hi4 == 7#4 then .ok (.amoMaxU f.ar f.aw f.rs2 f.rs1 f.rd)
  else if f.hi4 == 8#4 then .ok (.amoSwap f.ar f.aw f.rs2 f.rs1 f.rd)
  else if f.hi4 == 9#4 then .ok (.amoCas f.ar f.aw f.rs2 f.rs1 f.rd)
  else if f.hi4 == 10#4 then .ok (.amoCas2 f.ar f.aw f.rs2 f.rs1 f.rd)
  else .error .unassigned

/-- RED; [27] must be 0 (R60). -/
def decodeRed (f : Fields) : Decoded :=
  if f.hi4 == 0#4 then zeroed (!f.ar) (.redAdd f.aw f.rs2 f.rs1 f.rd)
  else if f.hi4 == 1#4 then zeroed (!f.ar) (.redAnd f.aw f.rs2 f.rs1 f.rd)
  else if f.hi4 == 2#4 then zeroed (!f.ar) (.redOr f.aw f.rs2 f.rs1 f.rd)
  else if f.hi4 == 3#4 then zeroed (!f.ar) (.redXor f.aw f.rs2 f.rs1 f.rd)
  else if f.hi4 == 4#4 then zeroed (!f.ar) (.redMin f.aw f.rs2 f.rs1 f.rd)
  else if f.hi4 == 5#4 then zeroed (!f.ar) (.redMax f.aw f.rs2 f.rs1 f.rd)
  else if f.hi4 == 6#4 then zeroed (!f.ar) (.redMinU f.aw f.rs2 f.rs1 f.rd)
  else if f.hi4 == 7#4 then zeroed (!f.ar) (.redMaxU f.aw f.rs2 f.rs1 f.rd)
  else .error .unassigned

/-- custom-0, the memory instructions (R60). -/
def decodeC0 (f : Fields) : Decoded :=
  if f.f3 == 0#3 then
    match LdWidth.ofCode f.hi3 with
    | none => .error .unassigned
    | some wd => zeroed (f.kind == 0#2) (.xld wd f.aw f.rs2 f.rs1 f.rd)
  else if f.f3 == 1#3 then
    match StWidth.ofCode f.hi3 with
    | none => .error .unassigned
    | some wd => zeroed (f.kind == 0#2) (.xst wd f.aw f.rs2 f.rs1 f.rd)
  else if f.f3 == 2#3 then decodeOrderedLoad f
  else if f.f3 == 3#3 then decodeOrderedStore f
  else if f.f3 == 4#3 then decodeAmo f
  else if f.f3 == 5#3 then decodeRed f
  else if f.f3 == 6#3 then decodeXsync f
  else if f.sub == 0#5 then .ok (.cpyq f.aw f.rs2 f.rs1 f.rd)
  else .error .unassigned

/-- The fields a custom-1 form does not list are zero (R60). -/
def Fields.only (f : Fields) (rs2 rs1 rd : Bool) : Bool :=
  f.aw == 0#2 && (rs2 || f.rs2 == 0#5) && (rs1 || f.rs1 == 0#5) && (rd || f.rd == 0#5)

/-- custom-1, group MAP (R61). -/
def decodeMap (f : Fields) : Decoded :=
  if f.sub == 0#5 then zeroed (f.only false true true) (.klook f.rd f.rs1)
  else if f.sub == 1#5 then zeroed (f.only false true true) (.klookp f.rd f.rs1)
  else if f.sub == 2#5 then zeroed (f.only false true true) (.klookw f.rd f.rs1)
  else if f.sub == 3#5 then zeroed (f.only true true true) (.kbind f.rd f.rs1 f.rs2)
  else if f.sub == 4#5 then zeroed (f.only true true true) (.kbindp f.rd f.rs1 f.rs2)
  else if f.sub == 5#5 then zeroed (f.only true false true) (.kready f.rd f.rs2)
  else if f.sub == 6#5 then zeroed (f.only true false true) (.kpin f.rd f.rs2)
  else if f.sub == 7#5 then zeroed (f.only true false true) (.kunpin f.rd f.rs2)
  else if f.sub == 8#5 then zeroed (f.only true false true) (.kunbind f.rd f.rs2)
  else if f.sub == 9#5 then zeroed (f.only true false true) (.kinfo f.rd f.rs2)
  else if f.sub == 10#5 then zeroed (f.only true true true) (.kvix f.rd f.rs1 f.rs2)
  else if f.sub == 11#5 then zeroed (f.only true true true) (.kvixa f.rd f.rs1 f.rs2)
  else .error .unassigned

/-- custom-1, group SEND (R61). -/
def decodeSend (f : Fields) : Decoded :=
  if f.sub == 0#5 then zeroed (f.only true true true) (.tsend f.rd f.rs1 f.rs2)
  else if f.sub == 1#5 then zeroed (f.only true true true) (.tsends f.rd f.rs1 f.rs2)
  else if f.sub == 2#5 then zeroed (f.only true true true) (.tcall f.rd f.rs1 f.rs2)
  else if f.sub == 3#5 then zeroed (f.only false true true) (.tcancel f.rd f.rs1)
  else if f.sub == 4#5 then zeroed (f.only false true false) (.chblk f.rs1)
  else if f.sub == 5#5 then zeroed (f.only false true false) (.chunblk f.rs1)
  else .error .unassigned

/-- custom-1, group END (R61). -/
def decodeEnd (f : Fields) : Decoded :=
  if f.sub == 0#5 then zeroed (f.only false false false) .tend
  else if f.sub == 1#5 then zeroed (f.only false true false) (.tret f.rs1)
  else if f.sub == 2#5 then zeroed (f.only false false false) .tyield
  else if f.sub == 3#5 then zeroed (f.only false true true) (.recv f.rd f.rs1)
  else if f.sub == 4#5 then zeroed (f.only false false false) .irrev
  else .error .unassigned

/-- custom-1, group DEQUE (R61). -/
def decodeDeque (f : Fields) : Decoded :=
  if f.sub == 0#5 then zeroed (f.only false true true) (.dqpush f.rd f.rs1)
  else if f.sub == 1#5 then zeroed (f.only false true true) (.dqpop f.rd f.rs1)
  else if f.sub == 2#5 then zeroed (f.only true true true) (.dqsteal f.rd f.rs1 f.rs2)
  else .error .unassigned

/-- custom-1, group FORK (R61). -/
def decodeFork (f : Fields) : Decoded :=
  if f.sub == 0#5 then zeroed (f.only false true true) (.forkr f.rd f.rs1)
  else if f.sub == 1#5 then zeroed (f.only false true true) (.join f.rd f.rs1)
  else .error .unassigned

/-- custom-1, group BARRIER (R61). -/
def decodeBarrier (f : Fields) : Decoded :=
  if f.sub == 0#5 then zeroed (f.only true true true) (.barreg f.rd f.rs1 f.rs2)
  else if f.sub == 1#5 then zeroed (f.only false true false) (.bararv f.rs1)
  else if f.sub == 2#5 then zeroed (f.only false true true) (.barwait f.rd f.rs1)
  else if f.sub == 3#5 then zeroed (f.only false true false) (.bardrop f.rs1)
  else .error .unassigned

/-- custom-1, group SYS (R61). -/
def decodeSys (f : Fields) : Decoded :=
  if f.sub == 0#5 then zeroed (f.only false false false) .trapret
  else if f.sub == 1#5 then zeroed (f.only false true false) (.sleept f.rs1)
  else if f.sub == 2#5 then zeroed (f.only true true true) (.ctxsave f.rd f.rs1 f.rs2)
  else if f.sub == 3#5 then zeroed (f.only false true true) (.ctxload f.rd f.rs1)
  else if f.sub == 4#5 then zeroed (f.only true true true) (.migrc f.rd f.rs1 f.rs2)
  else if f.sub == 5#5 then .ok (.tlbi f.aw f.rd f.rs1 f.rs2)
  else if f.sub == 6#5 then zeroed (f.only true true false) (.scrub f.rs1 f.rs2)
  else if f.sub == 7#5 then zeroed (f.only false true false) (.mark f.rs1)
  else .error .unassigned

/-- custom-1, the control instructions (R61, R62). -/
def decodeC1 (f : Fields) : Decoded :=
  if f.f3 == 0#3 then decodeMap f
  else if f.f3 == 1#3 then decodeSend f
  else if f.f3 == 2#3 then decodeEnd f
  else if f.f3 == 3#3 then decodeDeque f
  else if f.f3 == 4#3 then decodeFork f
  else if f.f3 == 5#3 then decodeBarrier f
  else if f.f3 == 6#3 then
    zeroed (f.rs1 == 0#5 && f.rd.extractLsb' 3 2 == 0#2) (.nput f.sub (Dir.ofCode f.aw) f.rs2 (f.rd.extractLsb' 0 3))
  else decodeSys f

/-- custom-2 operations of three vector registers (R63). -/
def decodeVec3 (f : Fields) : Decoded :=
  if f.sub == 0#5 then vty f.f3 fun t => vreg f.rd fun vd => vreg f.rs1 fun a => vreg f.rs2 fun b => .ok (.vadd t vd a b f.aw)
  else if f.sub == 1#5 then vty f.f3 fun t => vreg f.rd fun vd => vreg f.rs1 fun a => vreg f.rs2 fun b => .ok (.vsub t vd a b f.aw)
  else if f.sub == 2#5 then vty f.f3 fun t => vreg f.rd fun vd => vreg f.rs1 fun a => vreg f.rs2 fun b => .ok (.vmul t vd a b f.aw)
  else if f.sub == 3#5 then vty f.f3 fun t => vreg f.rd fun vd => vreg f.rs1 fun a => vreg f.rs2 fun b => .ok (.vfma t vd a b f.aw)
  else if f.sub == 4#5 then vty f.f3 fun t => vreg f.rd fun vd => vreg f.rs1 fun a => vreg f.rs2 fun b => .ok (.vmin t vd a b f.aw)
  else if f.sub == 5#5 then vty f.f3 fun t => vreg f.rd fun vd => vreg f.rs1 fun a => vreg f.rs2 fun b => .ok (.vmax t vd a b f.aw)
  else if f.sub == 6#5 then vty f.f3 fun t => vreg f.rd fun vd => vreg f.rs1 fun a => vreg f.rs2 fun b => .ok (.vminu t vd a b f.aw)
  else if f.sub == 7#5 then vty f.f3 fun t => vreg f.rd fun vd => vreg f.rs1 fun a => vreg f.rs2 fun b => .ok (.vmaxu t vd a b f.aw)
  else if f.sub == 8#5 then vty f.f3 fun t => vreg f.rd fun vd => vreg f.rs1 fun a => vreg f.rs2 fun b => .ok (.vdiv t vd a b f.aw)
  else if f.sub == 9#5 then vty f.f3 fun t => vreg f.rd fun vd => vreg f.rs1 fun a => vreg f.rs2 fun b => .ok (.vand t vd a b f.aw)
  else if f.sub == 10#5 then vty f.f3 fun t => vreg f.rd fun vd => vreg f.rs1 fun a => vreg f.rs2 fun b => .ok (.vor t vd a b f.aw)
  else if f.sub == 11#5 then vty f.f3 fun t => vreg f.rd fun vd => vreg f.rs1 fun a => vreg f.rs2 fun b => .ok (.vxor t vd a b f.aw)
  else if f.sub == 12#5 then vty f.f3 fun t => vreg f.rd fun vd => vreg f.rs1 fun a => vreg f.rs2 fun b => .ok (.vshl t vd a b f.aw)
  else if f.sub == 13#5 then vty f.f3 fun t => vreg f.rd fun vd => vreg f.rs1 fun a => vreg f.rs2 fun b => .ok (.vshr t vd a b f.aw)
  else if f.sub == 14#5 then vty f.f3 fun t => vreg f.rd fun vd => vreg f.rs1 fun a => vreg f.rs2 fun b => .ok (.vshrl t vd a b f.aw)
  else if f.sub == 16#5 then vty f.f3 fun t => vreg f.rd fun vd => vreg f.rs1 fun a => vreg f.rs2 fun b => .ok (.vsel t vd a b f.aw)
  else if f.sub == 27#5 then vty f.f3 fun t => vreg f.rd fun vd => vreg f.rs1 fun a => vreg f.rs2 fun b => .ok (.vperm t vd a b f.aw)
  else .error .unassigned

/-- custom-2 operations of one vector source, [24:20] zero (R63). -/
def decodeVec1 (f : Fields) : Decoded :=
  if f.sub == 18#5 then vty f.f3 fun t => vreg f.rd fun vd => vreg f.rs1 fun a => zeroed (f.rs2 == 0#5) (.vredsum t vd a f.aw)
  else if f.sub == 19#5 then vty f.f3 fun t => vreg f.rd fun vd => vreg f.rs1 fun a => zeroed (f.rs2 == 0#5) (.vredmax t vd a f.aw)
  else if f.sub == 28#5 then vty f.f3 fun t => vreg f.rd fun vd => vreg f.rs1 fun a => zeroed (f.rs2 == 0#5) (.vquant t vd a f.aw)
  else if f.sub == 29#5 then vty f.f3 fun t => vreg f.rd fun vd => vreg f.rs1 fun a => zeroed (f.rs2 == 0#5) (.vdeq t vd a f.aw)
  else .error .unassigned

/-- The extended operations, sub-op in [24:20] (R64). -/
def decodeVecExt (f : Fields) : Decoded :=
  if f.rs2 == 0#5 then vty f.f3 fun t => vreg f.rd fun vd => vreg f.rs1 fun a => .ok (.vsqrt t vd a f.aw)
  else if f.rs2 == 1#5 then vty f.f3 fun t => vreg f.rd fun vd => vreg f.rs1 fun a => .ok (.vrsqrt t vd a f.aw)
  else if f.rs2 == 2#5 then vty f.f3 fun t => vreg f.rd fun vd => vreg f.rs1 fun a => .ok (.vexp2 t vd a f.aw)
  else if f.rs2 == 3#5 then vty f.f3 fun t => vreg f.rd fun vd => vreg f.rs1 fun a => .ok (.vlog2 t vd a f.aw)
  else if f.rs2 == 4#5 then vty f.f3 fun t => vreg f.rd fun vd => vreg f.rs1 fun a => .ok (.vabs t vd a f.aw)
  else if f.rs2 == 5#5 then vty f.f3 fun t => vreg f.rd fun vd => vreg f.rs1 fun a => .ok (.vneg t vd a f.aw)
  else if f.rs2 == 9#5 then vty f.f3 fun t => vreg f.rd fun vd => vreg f.rs1 fun a => .ok (.vscale t vd a f.aw)
  else if f.rs2 == 6#5 then
    if f.f3 == 0#3 then vreg f.rd fun vs => .ok (.vqapp vs f.rs1 f.aw) else .error .unassigned
  else if f.rs2 == 7#5 then vty f.f3 fun t => vreg f.rd fun vd => .ok (.vmova t vd f.aw f.rs1)
  else if f.rs2 == 8#5 then vty f.f3 fun t => vreg f.rd fun vs => .ok (.vmovaw t f.aw f.rs1 vs)
  else .error .unassigned

/-- The other custom-2 operations (R63, R211, R213, R215, R216, R200). -/
def decodeVecOther (f : Fields) : Decoded :=
  if f.sub == 15#5 then
    vty f.f3 fun t => vreg f.rs1 fun a => vreg f.rs2 fun b =>
      match Cond.ofCode (f.rd.extractLsb' 2 3) with
      | none => .error .unassigned
      | some cc => .ok (.vcmp cc t (f.rd.extractLsb' 0 2) a b f.aw)
  else if f.sub == 17#5 then
    vty f.f3 fun src => vty (f.rs2.extractLsb' 0 3) fun dst => vreg f.rd fun vd => vreg f.rs1 fun a =>
      if f.rs2.extractLsb' 4 1 == 0#1 then .ok (.vcvt dst src (f.rs2.extractLsb' 3 1 == 1#1) vd a f.aw)
      else .error .unassigned
  else if f.sub == 20#5 then
    vty f.f3 fun t => vreg f.rd fun vd => zeroed (f.rs2 == 0#5) (.vbcast t vd f.rs1 f.aw)
  else if f.sub == 21#5 then
    vty f.f3 fun t => vreg f.rs1 fun a => zeroed (f.aw == 0#2) (.vextr t f.rd a f.rs2)
  else if f.sub == 22#5 then
    vty f.f3 fun t => vreg f.rd fun vd => zeroed (f.aw == 0#2) (.vins t vd f.rs1 f.rs2)
  else if f.sub == 23#5 then
    vreg f.rd fun vd => zeroed (f.rs2 == 0#5 && f.f3.extractLsb' 2 1 == 0#1) (.vld (f.f3.extractLsb' 0 2) vd f.rs1 f.aw)
  else if f.sub == 24#5 then
    vreg f.rd fun vs => zeroed (f.rs2 == 0#5 && f.f3.extractLsb' 2 1 == 0#1) (.vst (f.f3.extractLsb' 0 2) vs f.rs1 f.aw)
  else if f.sub == 25#5 then
    vreg f.rd fun vd => vreg f.rs2 fun b => .ok (.vldx (f.f3.extractLsb' 2 1 == 1#1) (f.f3.extractLsb' 0 2) vd f.rs1 b f.aw)
  else if f.sub == 26#5 then
    vreg f.rd fun vs => vreg f.rs2 fun b => .ok (.vstx (f.f3.extractLsb' 2 1 == 1#1) (f.f3.extractLsb' 0 2) vs f.rs1 b f.aw)
  else if f.sub == 30#5 then
    vreg f.rd fun vt => vreg f.rs1 fun a =>
      zeroed (f.aw == 0#2 && f.f3 == 0#3) (.vnput (Dir.ofCode (f.rs2.extractLsb' 3 2)) (f.rs2.extractLsb' 0 3) vt a)
  else .error .unassigned

/-- custom-2, the vector instructions (R63, R64). -/
def decodeC2 (f : Fields) : Decoded :=
  if f.sub.ult 15#5 || f.sub == 16#5 || f.sub == 27#5 then decodeVec3 f
  else if f.sub == 18#5 || f.sub == 19#5 || f.sub == 28#5 || f.sub == 29#5 then decodeVec1 f
  else if f.sub == 31#5 then decodeVecExt f
  else decodeVecOther f

/-- Every 32-bit instruction but the tile commands, from its fields (R58). -/
def decodeFields (f : Fields) : Decoded :=
  if f.op.extractLsb' 0 2 != 3#2 then .error .lowBits
  else if f.op == 0x37#7 then .ok (.lui f.rd f.immU)
  else if f.op == 0x17#7 then .ok (.auipc f.rd f.immU)
  else if f.op == 0x6F#7 then .ok (.jal f.rd f.immJ)
  else if f.op == 0x67#7 then if f.f3 == 0#3 then .ok (.jalr f.rd f.rs1 f.immI) else .error .unassigned
  else if f.op == 0x63#7 then decodeBranch f
  else if f.op == 0x03#7 then decodeLoad f
  else if f.op == 0x23#7 then decodeStore f
  else if f.op == 0x13#7 then decodeOpImm f
  else if f.op == 0x1B#7 then decodeOpImm32 f
  else if f.op == 0x33#7 then decodeOp f
  else if f.op == 0x3B#7 then decodeOp32 f
  else if f.op == 0x0F#7 then decodeMisc f
  else if f.op == 0x73#7 then decodeSystem f
  else if f.op == 0x0B#7 then decodeC0 f
  else if f.op == 0x2B#7 then decodeC1 f
  else if f.op == 0x5B#7 then decodeC2 f
  else .error .majorOpcode

/-- Refuse what the field rules refuse (`Instr.wf`). -/
def checkRules (d : Decoded) : Decoded :=
  match d with
  | .ok i => if i.wf then .ok i else .error .fieldRule
  | .error r => .error r

/-- Decode a 32-bit word that is not a tile command's. -/
def decodeWord (w : BitVec 32) : Decoded := checkRules (decodeFields (unpackWord w))

/-- w0 of a tile command has opcode custom-3 (R56). -/
def isTileWord (w : BitVec 32) : Bool := (unpackWord w).op == 0x7B#7

/-- The reserved bits of w1 to w7 are zero (R227). -/
def tileReservedZero (w1 w2 w3 w4 w5 w6 w7 : BitVec 32) : Bool :=
  w1.extractLsb' 29 3 == 0#3 && w2.extractLsb' 23 9 == 0#9 && w3.extractLsb' 18 14 == 0#14
    && w4.extractLsb' 18 14 == 0#14 && w5.extractLsb' 2 30 == 0#30 && w6.extractLsb' 9 23 == 0#23
    && w7.extractLsb' 20 12 == 0#12

/-- The fields of the eight words (R65, R227). -/
def tileFields (w0 w1 w2 w3 w4 w5 w6 w7 : BitVec 32) : TileCmd where
  ctrap := w0.extractLsb' 28 1 == 1#1
  shadow := w0.extractLsb' 27 1 == 1#1
  ec := w0.extractLsb' 25 2
  base := w0.extractLsb' 15 5
  xd := w0.extractLsb' 7 5
  kb := w1.extractLsb' 23 6
  pm1 := w1.extractLsb' 18 5
  off1 := w1.extractLsb' 0 18
  pm2 := w2.extractLsb' 18 5
  off2 := w2.extractLsb' 0 18
  off3 := w3.extractLsb' 0 18
  off4 := w4.extractLsb' 0 18
  tile := w5.extractLsb' 0 2
  sat := w6.extractLsb' 8 1 == 1#1
  ofmt := w6.extractLsb' 4 4
  ifmt := w6.extractLsb' 0 4
  s1 := w7.extractLsb' 0 10
  s2 := w7.extractLsb' 10 10

/-- Decode the eight words of a tile command (R56, R65, R227 to R229). -/
def decodeTile (w0 w1 w2 w3 w4 w5 w6 w7 : BitVec 32) : Decoded :=
  match TileOp.ofCode (w0.extractLsb' 20 5) with
  | none => .error .unassigned
  | some op =>
    if w0.extractLsb' 29 3 == 0#3 && w0.extractLsb' 12 3 == 0#3 && tileReservedZero w1 w2 w3 w4 w5 w6 w7 then
      checkRules (.ok (op.instr (tileFields w0 w1 w2 w3 w4 w5 w6 w7)))
    else .error .reserved

/-- A little-endian word of four bytes (R55). -/
def leWord (b0 b1 b2 b3 : Byte) : BitVec 32 := b3 ++ b2 ++ b1 ++ b0

/-- The words of a list of bytes, little-endian; a rest of fewer than four bytes is dropped. -/
def leWords : List Byte → List (BitVec 32)
  | b0 :: b1 :: b2 :: b3 :: rest => leWord b0 b1 b2 b3 :: leWords rest
  | _ => []

/-- Decode the instruction at the head of a list of words: one word, or eight for a tile command. -/
def decodeWords : List (BitVec 32) → Decoded
  | [] => .error .short
  | w0 :: rest =>
    if isTileWord w0 then
      match rest with
      | w1 :: w2 :: w3 :: w4 :: w5 :: w6 :: w7 :: _ => decodeTile w0 w1 w2 w3 w4 w5 w6 w7
      | _ => .error .short
    else decodeWord w0

/-- Decode the instruction at the head of a list of bytes. Total; a refusal has a name. -/
def decode (bs : List Byte) : Decoded := decodeWords (leWords bs)

/-! ### The encoder -/

/-- A vector register as a five-bit field (R63). -/
def ev (v : VReg) : BitVec 5 := 0#1 ++ v

/-- LUI and AUIPC. -/
def encU (op : BitVec 7) (rd : Reg) (imm : BitVec 20) : Fields :=
  ⟨imm.extractLsb' 13 7, imm.extractLsb' 8 5, imm.extractLsb' 3 5, imm.extractLsb' 0 3, rd, op⟩

/-- JAL. -/
def encJ (rd : Reg) (imm : BitVec 20) : Fields :=
  ⟨imm.extractLsb' 19 1 ++ imm.extractLsb' 4 6, imm.extractLsb' 0 4 ++ imm.extractLsb' 10 1, imm.extractLsb' 14 5,
    imm.extractLsb' 11 3, rd, 0x6F#7⟩

/-- The words with a 12-bit immediate in [31:20]. -/
def encI (op : BitVec 7) (f3 : BitVec 3) (rd rs1 : Reg) (imm : BitVec 12) : Fields :=
  ⟨imm.extractLsb' 5 7, imm.extractLsb' 0 5, rs1, f3, rd, op⟩

/-- Stores. -/
def encS (f3 : BitVec 3) (rs2 rs1 : Reg) (imm : BitVec 12) : Fields :=
  ⟨imm.extractLsb' 5 7, rs2, rs1, f3, imm.extractLsb' 0 5, 0x23#7⟩

/-- Branches. -/
def encB (f3 : BitVec 3) (rs1 rs2 : Reg) (imm : BitVec 12) : Fields :=
  ⟨imm.extractLsb' 11 1 ++ imm.extractLsb' 4 6, rs2, rs1, f3, imm.extractLsb' 0 4 ++ imm.extractLsb' 10 1, 0x63#7⟩

/-- Shifts with a six-bit amount. -/
def encSh (op : BitVec 7) (f3 : BitVec 3) (f6 : BitVec 6) (rd rs1 : Reg) (sh : BitVec 6) : Fields :=
  ⟨f6 ++ sh.extractLsb' 5 1, sh.extractLsb' 0 5, rs1, f3, rd, op⟩

/-- The fields of the one word of an instruction that has one word; none for tile commands and events. -/
def encodeFields : Instr → Option Fields
  | .lui rd imm => some (encU 0x37#7 rd imm)
  | .auipc rd imm => some (encU 0x17#7 rd imm)
  | .jal rd imm => some (encJ rd imm)
  | .jalr rd rs1 imm => some (encI 0x67#7 0#3 rd rs1 imm)
  | .beq rs1 rs2 imm => some (encB 0#3 rs1 rs2 imm)
  | .bne rs1 rs2 imm => some (encB 1#3 rs1 rs2 imm)
  | .blt rs1 rs2 imm => some (encB 4#3 rs1 rs2 imm)
  | .bge rs1 rs2 imm => some (encB 5#3 rs1 rs2 imm)
  | .bltu rs1 rs2 imm => some (encB 6#3 rs1 rs2 imm)
  | .bgeu rs1 rs2 imm => some (encB 7#3 rs1 rs2 imm)
  | .lb rd rs1 imm => some (encI 0x03#7 0#3 rd rs1 imm)
  | .lh rd rs1 imm => some (encI 0x03#7 1#3 rd rs1 imm)
  | .lw rd rs1 imm => some (encI 0x03#7 2#3 rd rs1 imm)
  | .ld rd rs1 imm => some (encI 0x03#7 3#3 rd rs1 imm)
  | .lbu rd rs1 imm => some (encI 0x03#7 4#3 rd rs1 imm)
  | .lhu rd rs1 imm => some (encI 0x03#7 5#3 rd rs1 imm)
  | .lwu rd rs1 imm => some (encI 0x03#7 6#3 rd rs1 imm)
  | .sb rs2 rs1 imm => some (encS 0#3 rs2 rs1 imm)
  | .sh rs2 rs1 imm => some (encS 1#3 rs2 rs1 imm)
  | .sw rs2 rs1 imm => some (encS 2#3 rs2 rs1 imm)
  | .sd rs2 rs1 imm => some (encS 3#3 rs2 rs1 imm)
  | .addi rd rs1 imm => some (encI 0x13#7 0#3 rd rs1 imm)
  | .slti rd rs1 imm => some (encI 0x13#7 2#3 rd rs1 imm)
  | .sltiu rd rs1 imm => some (encI 0x13#7 3#3 rd rs1 imm)
  | .xori rd rs1 imm => some (encI 0x13#7 4#3 rd rs1 imm)
  | .ori rd rs1 imm => some (encI 0x13#7 6#3 rd rs1 imm)
  | .andi rd rs1 imm => some (encI 0x13#7 7#3 rd rs1 imm)
  | .slli rd rs1 sh => some (encSh 0x13#7 1#3 0x0#6 rd rs1 sh)
  | .srli rd rs1 sh => some (encSh 0x13#7 5#3 0x0#6 rd rs1 sh)
  | .srai rd rs1 sh => some (encSh 0x13#7 5#3 0x10#6 rd rs1 sh)
  | .add rd rs1 rs2 => some ⟨0x0#7, rs2, rs1, 0#3, rd, 0x33#7⟩
  | .sub rd rs1 rs2 => some ⟨0x20#7, rs2, rs1, 0#3, rd, 0x33#7⟩
  | .sll rd rs1 rs2 => some ⟨0x0#7, rs2, rs1, 1#3, rd, 0x33#7⟩
  | .slt rd rs1 rs2 => some ⟨0x0#7, rs2, rs1, 2#3, rd, 0x33#7⟩
  | .sltu rd rs1 rs2 => some ⟨0x0#7, rs2, rs1, 3#3, rd, 0x33#7⟩
  | .xor rd rs1 rs2 => some ⟨0x0#7, rs2, rs1, 4#3, rd, 0x33#7⟩
  | .srl rd rs1 rs2 => some ⟨0x0#7, rs2, rs1, 5#3, rd, 0x33#7⟩
  | .sra rd rs1 rs2 => some ⟨0x20#7, rs2, rs1, 5#3, rd, 0x33#7⟩
  | .or rd rs1 rs2 => some ⟨0x0#7, rs2, rs1, 6#3, rd, 0x33#7⟩
  | .and rd rs1 rs2 => some ⟨0x0#7, rs2, rs1, 7#3, rd, 0x33#7⟩
  | .addiw rd rs1 imm => some (encI 0x1B#7 0#3 rd rs1 imm)
  | .slliw rd rs1 sh => some ⟨0x0#7, sh, rs1, 1#3, rd, 0x1B#7⟩
  | .srliw rd rs1 sh => some ⟨0x0#7, sh, rs1, 5#3, rd, 0x1B#7⟩
  | .sraiw rd rs1 sh => some ⟨0x20#7, sh, rs1, 5#3, rd, 0x1B#7⟩
  | .addw rd rs1 rs2 => some ⟨0x0#7, rs2, rs1, 0#3, rd, 0x3B#7⟩
  | .subw rd rs1 rs2 => some ⟨0x20#7, rs2, rs1, 0#3, rd, 0x3B#7⟩
  | .sllw rd rs1 rs2 => some ⟨0x0#7, rs2, rs1, 1#3, rd, 0x3B#7⟩
  | .srlw rd rs1 rs2 => some ⟨0x0#7, rs2, rs1, 5#3, rd, 0x3B#7⟩
  | .sraw rd rs1 rs2 => some ⟨0x20#7, rs2, rs1, 5#3, rd, 0x3B#7⟩
  | .fence fm pred succ => some ⟨fm ++ pred.extractLsb' 1 3, pred.extractLsb' 0 1 ++ succ, 0#5, 0#3, 0#5, 0x0F#7⟩
  | .fenceI => some ⟨0#7, 0#5, 0#5, 1#3, 0#5, 0x0F#7⟩
  | .ecall => some ⟨0#7, 0#5, 0#5, 0#3, 0#5, 0x73#7⟩
  | .ebreak => some ⟨0#7, 1#5, 0#5, 0#3, 0#5, 0x73#7⟩
  | .mul rd rs1 rs2 => some ⟨0x1#7, rs2, rs1, 0#3, rd, 0x33#7⟩
  | .mulh rd rs1 rs2 => some ⟨0x1#7, rs2, rs1, 1#3, rd, 0x33#7⟩
  | .mulhsu rd rs1 rs2 => some ⟨0x1#7, rs2, rs1, 2#3, rd, 0x33#7⟩
  | .mulhu rd rs1 rs2 => some ⟨0x1#7, rs2, rs1, 3#3, rd, 0x33#7⟩
  | .div rd rs1 rs2 => some ⟨0x1#7, rs2, rs1, 4#3, rd, 0x33#7⟩
  | .divu rd rs1 rs2 => some ⟨0x1#7, rs2, rs1, 5#3, rd, 0x33#7⟩
  | .rem rd rs1 rs2 => some ⟨0x1#7, rs2, rs1, 6#3, rd, 0x33#7⟩
  | .remu rd rs1 rs2 => some ⟨0x1#7, rs2, rs1, 7#3, rd, 0x33#7⟩
  | .mulw rd rs1 rs2 => some ⟨0x1#7, rs2, rs1, 0#3, rd, 0x3B#7⟩
  | .divw rd rs1 rs2 => some ⟨0x1#7, rs2, rs1, 4#3, rd, 0x3B#7⟩
  | .divuw rd rs1 rs2 => some ⟨0x1#7, rs2, rs1, 5#3, rd, 0x3B#7⟩
  | .remw rd rs1 rs2 => some ⟨0x1#7, rs2, rs1, 6#3, rd, 0x3B#7⟩
  | .remuw rd rs1 rs2 => some ⟨0x1#7, rs2, rs1, 7#3, rd, 0x3B#7⟩
  | .csrrw rd rs1 csr => some (encI 0x73#7 1#3 rd rs1 csr)
  | .csrrs rd rs1 csr => some (encI 0x73#7 2#3 rd rs1 csr)
  | .csrrc rd rs1 csr => some (encI 0x73#7 3#3 rd rs1 csr)
  | .csrrwi rd imm csr => some (encI 0x73#7 5#3 rd imm csr)
  | .csrrsi rd imm csr => some (encI 0x73#7 6#3 rd imm csr)
  | .csrrci rd imm csr => some (encI 0x73#7 7#3 rd imm csr)
  | .addUw rd rs1 rs2 => some ⟨0x4#7, rs2, rs1, 0#3, rd, 0x3B#7⟩
  | .sh1add rd rs1 rs2 => some ⟨0x10#7, rs2, rs1, 2#3, rd, 0x33#7⟩
  | .sh2add rd rs1 rs2 => some ⟨0x10#7, rs2, rs1, 4#3, rd, 0x33#7⟩
  | .sh3add rd rs1 rs2 => some ⟨0x10#7, rs2, rs1, 6#3, rd, 0x33#7⟩
  | .sh1addUw rd rs1 rs2 => some ⟨0x10#7, rs2, rs1, 2#3, rd, 0x3B#7⟩
  | .sh2addUw rd rs1 rs2 => some ⟨0x10#7, rs2, rs1, 4#3, rd, 0x3B#7⟩
  | .sh3addUw rd rs1 rs2 => some ⟨0x10#7, rs2, rs1, 6#3, rd, 0x3B#7⟩
  | .slliUw rd rs1 sh => some (encSh 0x1b#7 1#3 0x2#6 rd rs1 sh)
  | .andn rd rs1 rs2 => some ⟨0x20#7, rs2, rs1, 7#3, rd, 0x33#7⟩
  | .orn rd rs1 rs2 => some ⟨0x20#7, rs2, rs1, 6#3, rd, 0x33#7⟩
  | .xnor rd rs1 rs2 => some ⟨0x20#7, rs2, rs1, 4#3, rd, 0x33#7⟩
  | .clz rd rs1 => some ⟨0x30#7, 0x0#5, rs1, 1#3, rd, 0x13#7⟩
  | .ctz rd rs1 => some ⟨0x30#7, 0x1#5, rs1, 1#3, rd, 0x13#7⟩
  | .cpop rd rs1 => some ⟨0x30#7, 0x2#5, rs1, 1#3, rd, 0x13#7⟩
  | .clzw rd rs1 => some ⟨0x30#7, 0x0#5, rs1, 1#3, rd, 0x1b#7⟩
  | .ctzw rd rs1 => some ⟨0x30#7, 0x1#5, rs1, 1#3, rd, 0x1b#7⟩
  | .cpopw rd rs1 => some ⟨0x30#7, 0x2#5, rs1, 1#3, rd, 0x1b#7⟩
  | .max rd rs1 rs2 => some ⟨0x5#7, rs2, rs1, 6#3, rd, 0x33#7⟩
  | .maxu rd rs1 rs2 => some ⟨0x5#7, rs2, rs1, 7#3, rd, 0x33#7⟩
  | .min rd rs1 rs2 => some ⟨0x5#7, rs2, rs1, 4#3, rd, 0x33#7⟩
  | .minu rd rs1 rs2 => some ⟨0x5#7, rs2, rs1, 5#3, rd, 0x33#7⟩
  | .sextB rd rs1 => some ⟨0x30#7, 0x4#5, rs1, 1#3, rd, 0x13#7⟩
  | .sextH rd rs1 => some ⟨0x30#7, 0x5#5, rs1, 1#3, rd, 0x13#7⟩
  | .zextH rd rs1 => some ⟨0x4#7, 0x0#5, rs1, 4#3, rd, 0x3b#7⟩
  | .rol rd rs1 rs2 => some ⟨0x30#7, rs2, rs1, 1#3, rd, 0x33#7⟩
  | .ror rd rs1 rs2 => some ⟨0x30#7, rs2, rs1, 5#3, rd, 0x33#7⟩
  | .rori rd rs1 sh => some (encSh 0x13#7 5#3 0x18#6 rd rs1 sh)
  | .rolw rd rs1 rs2 => some ⟨0x30#7, rs2, rs1, 1#3, rd, 0x3B#7⟩
  | .rorw rd rs1 rs2 => some ⟨0x30#7, rs2, rs1, 5#3, rd, 0x3B#7⟩
  | .roriw rd rs1 sh => some ⟨0x30#7, sh, rs1, 5#3, rd, 0x1B#7⟩
  | .orcB rd rs1 => some ⟨0x14#7, 0x7#5, rs1, 5#3, rd, 0x13#7⟩
  | .rev8 rd rs1 => some ⟨0x35#7, 0x18#5, rs1, 5#3, rd, 0x13#7⟩
  | .xld wd aw xp rs1 rd => some ⟨wd.code ++ 0#2 ++ aw, xp, rs1, 0#3, rd, 0x0B#7⟩
  | .xst wd aw xp rs1 rd => some ⟨wd.code ++ 0#2 ++ aw, xp, rs1, 1#3, rd, 0x0B#7⟩
  | .ldaq sc aw xp rs1 rd => some ⟨sc.code ++ 0#2 ++ aw, xp, rs1, 2#3, rd, 0x0B#7⟩
  | .ldff sc aw xp rs1 rd => some ⟨sc.code ++ 1#2 ++ aw, xp, rs1, 2#3, rd, 0x0B#7⟩
  | .ldfe sc aw xp rs1 rd => some ⟨sc.code ++ 2#2 ++ aw, xp, rs1, 2#3, rd, 0x0B#7⟩
  | .ldv sc aw xv rs1 rd => some ⟨sc.code ++ 3#2 ++ aw, xv, rs1, 2#3, rd, 0x0B#7⟩
  | .strl sc aw xp rs1 rd => some ⟨sc.code ++ 0#2 ++ aw, xp, rs1, 3#3, rd, 0x0B#7⟩
  | .stff sc aw xp rs1 rd => some ⟨sc.code ++ 1#2 ++ aw, xp, rs1, 3#3, rd, 0x0B#7⟩
  | .stef sc aw xp rs1 rd => some ⟨sc.code ++ 2#2 ++ aw, xp, rs1, 3#3, rd, 0x0B#7⟩
  | .femark sc aw xp rs1 rd => some ⟨sc.code ++ 3#2 ++ aw, xp, rs1, 3#3, rd, 0x0B#7⟩
  | .amoAdd ar aw xp rs1 rd => some ⟨0#4 ++ BitVec.ofBool ar ++ aw, xp, rs1, 4#3, rd, 0x0B#7⟩
  | .amoAnd ar aw xp rs1 rd => some ⟨1#4 ++ BitVec.ofBool ar ++ aw, xp, rs1, 4#3, rd, 0x0B#7⟩
  | .amoOr ar aw xp rs1 rd => some ⟨2#4 ++ BitVec.ofBool ar ++ aw, xp, rs1, 4#3, rd, 0x0B#7⟩
  | .amoXor ar aw xp rs1 rd => some ⟨3#4 ++ BitVec.ofBool ar ++ aw, xp, rs1, 4#3, rd, 0x0B#7⟩
  | .amoMin ar aw xp rs1 rd => some ⟨4#4 ++ BitVec.ofBool ar ++ aw, xp, rs1, 4#3, rd, 0x0B#7⟩
  | .amoMax ar aw xp rs1 rd => some ⟨5#4 ++ BitVec.ofBool ar ++ aw, xp, rs1, 4#3, rd, 0x0B#7⟩
  | .amoMinU ar aw xp rs1 rd => some ⟨6#4 ++ BitVec.ofBool ar ++ aw, xp, rs1, 4#3, rd, 0x0B#7⟩
  | .amoMaxU ar aw xp rs1 rd => some ⟨7#4 ++ BitVec.ofBool ar ++ aw, xp, rs1, 4#3, rd, 0x0B#7⟩
  | .amoSwap ar aw xp rs1 rd => some ⟨8#4 ++ BitVec.ofBool ar ++ aw, xp, rs1, 4#3, rd, 0x0B#7⟩
  | .amoCas ar aw xp rs1 rd => some ⟨9#4 ++ BitVec.ofBool ar ++ aw, xp, rs1, 4#3, rd, 0x0B#7⟩
  | .amoCas2 ar aw xp rs1 rd => some ⟨10#4 ++ BitVec.ofBool ar ++ aw, xp, rs1, 4#3, rd, 0x0B#7⟩
  | .redAdd aw xp rs1 rd => some ⟨0#4 ++ 0#1 ++ aw, xp, rs1, 5#3, rd, 0x0B#7⟩
  | .redAnd aw xp rs1 rd => some ⟨1#4 ++ 0#1 ++ aw, xp, rs1, 5#3, rd, 0x0B#7⟩
  | .redOr aw xp rs1 rd => some ⟨2#4 ++ 0#1 ++ aw, xp, rs1, 5#3, rd, 0x0B#7⟩
  | .redXor aw xp rs1 rd => some ⟨3#4 ++ 0#1 ++ aw, xp, rs1, 5#3, rd, 0x0B#7⟩
  | .redMin aw xp rs1 rd => some ⟨4#4 ++ 0#1 ++ aw, xp, rs1, 5#3, rd, 0x0B#7⟩
  | .redMax aw xp rs1 rd => some ⟨5#4 ++ 0#1 ++ aw, xp, rs1, 5#3, rd, 0x0B#7⟩
  | .redMinU aw xp rs1 rd => some ⟨6#4 ++ 0#1 ++ aw, xp, rs1, 5#3, rd, 0x0B#7⟩
  | .redMaxU aw xp rs1 rd => some ⟨7#4 ++ 0#1 ++ aw, xp, rs1, 5#3, rd, 0x0B#7⟩
  | .fenceS sc => some ⟨0#7, 0#5, 0#2 ++ sc.code, 6#3, 0#5, 0x0B#7⟩
  | .fenceSSt sc => some ⟨0#7, 0#5, 1#2 ++ sc.code, 6#3, 0#5, 0x0B#7⟩
  | .fenceSLd sc => some ⟨0#7, 0#5, 2#2 ++ sc.code, 6#3, 0#5, 0x0B#7⟩
  | .festat aw xp rs1 rd => some ⟨1#5 ++ aw, xp, rs1, 6#3, rd, 0x0B#7⟩
  | .vcommit aw xv rs1 => some ⟨2#5 ++ aw, xv, rs1, 6#3, 0#5, 0x0B#7⟩
  | .vreclaim aw xv rs1 => some ⟨3#5 ++ aw, xv, rs1, 6#3, 0#5, 0x0B#7⟩
  | .waitp rs1 => some ⟨4#5 ++ 0#2, 0#5, rs1, 6#3, 0#5, 0x0B#7⟩
  | .cpyq aw xc rs1 rd => some ⟨0#5 ++ aw, xc, rs1, 7#3, rd, 0x0B#7⟩
  | .klook rd rs1 => some ⟨0#5 ++ 0#2, 0#5, rs1, 0#3, rd, 0x2B#7⟩
  | .klookp rd rs1 => some ⟨1#5 ++ 0#2, 0#5, rs1, 0#3, rd, 0x2B#7⟩
  | .klookw rd rs1 => some ⟨2#5 ++ 0#2, 0#5, rs1, 0#3, rd, 0x2B#7⟩
  | .kbind rd rs1 rs2 => some ⟨3#5 ++ 0#2, rs2, rs1, 0#3, rd, 0x2B#7⟩
  | .kbindp rd rs1 rs2 => some ⟨4#5 ++ 0#2, rs2, rs1, 0#3, rd, 0x2B#7⟩
  | .kready rd rs2 => some ⟨5#5 ++ 0#2, rs2, 0#5, 0#3, rd, 0x2B#7⟩
  | .kpin rd rs2 => some ⟨6#5 ++ 0#2, rs2, 0#5, 0#3, rd, 0x2B#7⟩
  | .kunpin rd rs2 => some ⟨7#5 ++ 0#2, rs2, 0#5, 0#3, rd, 0x2B#7⟩
  | .kunbind rd rs2 => some ⟨8#5 ++ 0#2, rs2, 0#5, 0#3, rd, 0x2B#7⟩
  | .kinfo rd rs2 => some ⟨9#5 ++ 0#2, rs2, 0#5, 0#3, rd, 0x2B#7⟩
  | .kvix rd rs1 rs2 => some ⟨10#5 ++ 0#2, rs2, rs1, 0#3, rd, 0x2B#7⟩
  | .kvixa rd rs1 rs2 => some ⟨11#5 ++ 0#2, rs2, rs1, 0#3, rd, 0x2B#7⟩
  | .tsend rd rs1 rs2 => some ⟨0#5 ++ 0#2, rs2, rs1, 1#3, rd, 0x2B#7⟩
  | .tsends rd rs1 rs2 => some ⟨1#5 ++ 0#2, rs2, rs1, 1#3, rd, 0x2B#7⟩
  | .tcall rd rs1 rs2 => some ⟨2#5 ++ 0#2, rs2, rs1, 1#3, rd, 0x2B#7⟩
  | .tcancel rd rs1 => some ⟨3#5 ++ 0#2, 0#5, rs1, 1#3, rd, 0x2B#7⟩
  | .chblk rs1 => some ⟨4#5 ++ 0#2, 0#5, rs1, 1#3, 0#5, 0x2B#7⟩
  | .chunblk rs1 => some ⟨5#5 ++ 0#2, 0#5, rs1, 1#3, 0#5, 0x2B#7⟩
  | .tend => some ⟨0#5 ++ 0#2, 0#5, 0#5, 2#3, 0#5, 0x2B#7⟩
  | .tret rs1 => some ⟨1#5 ++ 0#2, 0#5, rs1, 2#3, 0#5, 0x2B#7⟩
  | .tyield => some ⟨2#5 ++ 0#2, 0#5, 0#5, 2#3, 0#5, 0x2B#7⟩
  | .recv rd rs1 => some ⟨3#5 ++ 0#2, 0#5, rs1, 2#3, rd, 0x2B#7⟩
  | .irrev => some ⟨4#5 ++ 0#2, 0#5, 0#5, 2#3, 0#5, 0x2B#7⟩
  | .dqpush rd rs1 => some ⟨0#5 ++ 0#2, 0#5, rs1, 3#3, rd, 0x2B#7⟩
  | .dqpop rd rs1 => some ⟨1#5 ++ 0#2, 0#5, rs1, 3#3, rd, 0x2B#7⟩
  | .dqsteal rd rs1 rs2 => some ⟨2#5 ++ 0#2, rs2, rs1, 3#3, rd, 0x2B#7⟩
  | .forkr rd rs1 => some ⟨0#5 ++ 0#2, 0#5, rs1, 4#3, rd, 0x2B#7⟩
  | .join rd rs1 => some ⟨1#5 ++ 0#2, 0#5, rs1, 4#3, rd, 0x2B#7⟩
  | .barreg rd rs1 rs2 => some ⟨0#5 ++ 0#2, rs2, rs1, 5#3, rd, 0x2B#7⟩
  | .bararv rs1 => some ⟨1#5 ++ 0#2, 0#5, rs1, 5#3, 0#5, 0x2B#7⟩
  | .barwait rd rs1 => some ⟨2#5 ++ 0#2, 0#5, rs1, 5#3, rd, 0x2B#7⟩
  | .bardrop rs1 => some ⟨3#5 ++ 0#2, 0#5, rs1, 5#3, 0#5, 0x2B#7⟩
  | .nput rt dir rs pos => some ⟨rt ++ dir.code, rs, 0#5, 6#3, 0#2 ++ pos, 0x2B#7⟩
  | .trapret => some ⟨0#5 ++ 0#2, 0#5, 0#5, 7#3, 0#5, 0x2B#7⟩
  | .sleept rs1 => some ⟨1#5 ++ 0#2, 0#5, rs1, 7#3, 0#5, 0x2B#7⟩
  | .ctxsave rd rs1 rs2 => some ⟨2#5 ++ 0#2, rs2, rs1, 7#3, rd, 0x2B#7⟩
  | .jread rd rs1 rs2 => some ⟨2#5 ++ 0#2, rs2, rs1, 7#3, rd, 0x2B#7⟩
  | .jretire rd rs1 rs2 => some ⟨2#5 ++ 0#2, rs2, rs1, 7#3, rd, 0x2B#7⟩
  | .ctxload rd rs1 => some ⟨3#5 ++ 0#2, 0#5, rs1, 7#3, rd, 0x2B#7⟩
  | .migrc rd rs1 rs2 => some ⟨4#5 ++ 0#2, rs2, rs1, 7#3, rd, 0x2B#7⟩
  | .tlbi aw rd rs1 rs2 => some ⟨5#5 ++ aw, rs2, rs1, 7#3, rd, 0x2B#7⟩
  | .scrub rs1 rs2 => some ⟨6#5 ++ 0#2, rs2, rs1, 7#3, 0#5, 0x2B#7⟩
  | .mark rs1 => some ⟨7#5 ++ 0#2, 0#5, rs1, 7#3, 0#5, 0x2B#7⟩
  | .vadd ty vd vs1 vs2 m => some ⟨0#5 ++ m, ev vs2, ev vs1, ty.code, ev vd, 0x5B#7⟩
  | .vsub ty vd vs1 vs2 m => some ⟨1#5 ++ m, ev vs2, ev vs1, ty.code, ev vd, 0x5B#7⟩
  | .vmul ty vd vs1 vs2 m => some ⟨2#5 ++ m, ev vs2, ev vs1, ty.code, ev vd, 0x5B#7⟩
  | .vfma ty vd vs1 vs2 m => some ⟨3#5 ++ m, ev vs2, ev vs1, ty.code, ev vd, 0x5B#7⟩
  | .vmin ty vd vs1 vs2 m => some ⟨4#5 ++ m, ev vs2, ev vs1, ty.code, ev vd, 0x5B#7⟩
  | .vmax ty vd vs1 vs2 m => some ⟨5#5 ++ m, ev vs2, ev vs1, ty.code, ev vd, 0x5B#7⟩
  | .vminu ty vd vs1 vs2 m => some ⟨6#5 ++ m, ev vs2, ev vs1, ty.code, ev vd, 0x5B#7⟩
  | .vmaxu ty vd vs1 vs2 m => some ⟨7#5 ++ m, ev vs2, ev vs1, ty.code, ev vd, 0x5B#7⟩
  | .vdiv ty vd vs1 vs2 m => some ⟨8#5 ++ m, ev vs2, ev vs1, ty.code, ev vd, 0x5B#7⟩
  | .vand ty vd vs1 vs2 m => some ⟨9#5 ++ m, ev vs2, ev vs1, ty.code, ev vd, 0x5B#7⟩
  | .vor ty vd vs1 vs2 m => some ⟨10#5 ++ m, ev vs2, ev vs1, ty.code, ev vd, 0x5B#7⟩
  | .vxor ty vd vs1 vs2 m => some ⟨11#5 ++ m, ev vs2, ev vs1, ty.code, ev vd, 0x5B#7⟩
  | .vshl ty vd vs1 vs2 m => some ⟨12#5 ++ m, ev vs2, ev vs1, ty.code, ev vd, 0x5B#7⟩
  | .vshr ty vd vs1 vs2 m => some ⟨13#5 ++ m, ev vs2, ev vs1, ty.code, ev vd, 0x5B#7⟩
  | .vshrl ty vd vs1 vs2 m => some ⟨14#5 ++ m, ev vs2, ev vs1, ty.code, ev vd, 0x5B#7⟩
  | .vcmp cc ty md vs1 vs2 m => some ⟨15#5 ++ m, ev vs2, ev vs1, ty.code, cc.code ++ md, 0x5B#7⟩
  | .vsel ty vd vs1 vs2 m => some ⟨16#5 ++ m, ev vs2, ev vs1, ty.code, ev vd, 0x5B#7⟩
  | .vcvt dst src rtz vd vs1 m => some ⟨17#5 ++ m, 0#1 ++ BitVec.ofBool rtz ++ dst.code, ev vs1, src.code, ev vd, 0x5B#7⟩
  | .vredsum ty vd vs1 m => some ⟨18#5 ++ m, 0#5, ev vs1, ty.code, ev vd, 0x5B#7⟩
  | .vredmax ty vd vs1 m => some ⟨19#5 ++ m, 0#5, ev vs1, ty.code, ev vd, 0x5B#7⟩
  | .vbcast ty vd rs1 m => some ⟨20#5 ++ m, 0#5, rs1, ty.code, ev vd, 0x5B#7⟩
  | .vextr ty rd vs1 rs2 => some ⟨21#5 ++ 0#2, rs2, ev vs1, ty.code, rd, 0x5B#7⟩
  | .vins ty vd rs1 rs2 => some ⟨22#5 ++ 0#2, rs2, rs1, ty.code, ev vd, 0x5B#7⟩
  | .vld aw vd rs1 m => some ⟨23#5 ++ m, 0#5, rs1, 0#1 ++ aw, ev vd, 0x5B#7⟩
  | .vst aw vs3 rs1 m => some ⟨24#5 ++ m, 0#5, rs1, 0#1 ++ aw, ev vs3, 0x5B#7⟩
  | .vldx dw aw vd rs1 vs2 m => some ⟨25#5 ++ m, ev vs2, rs1, BitVec.ofBool dw ++ aw, ev vd, 0x5B#7⟩
  | .vstx dw aw vs3 rs1 vs2 m => some ⟨26#5 ++ m, ev vs2, rs1, BitVec.ofBool dw ++ aw, ev vs3, 0x5B#7⟩
  | .vperm ty vd vs1 vs2 m => some ⟨27#5 ++ m, ev vs2, ev vs1, ty.code, ev vd, 0x5B#7⟩
  | .vquant ty vd vs1 m => some ⟨28#5 ++ m, 0#5, ev vs1, ty.code, ev vd, 0x5B#7⟩
  | .vdeq ty vd vs1 m => some ⟨29#5 ++ m, 0#5, ev vs1, ty.code, ev vd, 0x5B#7⟩
  | .vnput dir pos vt vs1 => some ⟨30#5 ++ 0#2, dir.code ++ pos, ev vs1, 0#3, ev vt, 0x5B#7⟩
  | .vsqrt ty vd vs1 m => some ⟨31#5 ++ m, 0#5, ev vs1, ty.code, ev vd, 0x5B#7⟩
  | .vrsqrt ty vd vs1 m => some ⟨31#5 ++ m, 1#5, ev vs1, ty.code, ev vd, 0x5B#7⟩
  | .vexp2 ty vd vs1 m => some ⟨31#5 ++ m, 2#5, ev vs1, ty.code, ev vd, 0x5B#7⟩
  | .vlog2 ty vd vs1 m => some ⟨31#5 ++ m, 3#5, ev vs1, ty.code, ev vd, 0x5B#7⟩
  | .vabs ty vd vs1 m => some ⟨31#5 ++ m, 4#5, ev vs1, ty.code, ev vd, 0x5B#7⟩
  | .vneg ty vd vs1 m => some ⟨31#5 ++ m, 5#5, ev vs1, ty.code, ev vd, 0x5B#7⟩
  | .vqapp vs rs1 m => some ⟨31#5 ++ m, 6#5, rs1, 0#3, ev vs, 0x5B#7⟩
  | .vmova ty vd acc rs1 => some ⟨31#5 ++ acc, 7#5, rs1, ty.code, ev vd, 0x5B#7⟩
  | .vmovaw ty acc rs1 vs => some ⟨31#5 ++ acc, 8#5, rs1, ty.code, ev vs, 0x5B#7⟩
  | .vscale ty vd vs1 m => some ⟨31#5 ++ m, 9#5, ev vs1, ty.code, ev vd, 0x5B#7⟩
  | _ => none

/-- The eight words of a tile command (R65, R227). -/
def encodeTile (op : TileOp) (c : TileCmd) : List (BitVec 32) :=
  [0#3 ++ BitVec.ofBool c.ctrap ++ BitVec.ofBool c.shadow ++ c.ec ++ op.code ++ c.base ++ 0#3 ++ c.xd ++ 0x7B#7,
   0#3 ++ c.kb ++ c.pm1 ++ c.off1, 0#9 ++ c.pm2 ++ c.off2, 0#14 ++ c.off3, 0#14 ++ c.off4, 0#30 ++ c.tile,
   0#23 ++ BitVec.ofBool c.sat ++ c.ofmt ++ c.ifmt, 0#12 ++ c.s2 ++ c.s1]

/-- The words of an instruction, first word first; none for an event, which has no encoding. -/
def encode (i : Instr) : List (BitVec 32) :=
  match i with
  | .mma c => encodeTile .mma c
  | .mmaz c => encodeTile .mmaz c
  | .maccst c => encodeTile .maccst c
  | .maccld c => encodeTile .maccld c
  | .mpack c => encodeTile .mpack c
  | .mxpose c => encodeTile .mxpose c
  | .mzero c => encodeTile .mzero c
  | i => match encodeFields i with
    | some f => [packWord f]
    | none => []

/-- Little-endian bytes of a word (R55). -/
def wordBytes (w : BitVec 32) : List Byte :=
  [w.extractLsb' 0 8, w.extractLsb' 8 8, w.extractLsb' 16 8, w.extractLsb' 24 8]

/-- The words of an instruction whose bits are w, bit 0 the least significant bit of the first word; eight words, the
bits from nbits up being zero. -/
def tableWords (nbits w : Nat) : List (BitVec 32) :=
  (List.range 8).map fun k => BitVec.ofNat 32 ((w % 2 ^ nbits) / 2 ^ (32 * k))

/-- The instruction the decoder reads from an instruction whose bits are w, numbered as spec/opcode_table.json numbers
them; the bits above nbits are 0. -/
def decodeTableWord (nbits w : Nat) : Option Instr :=
  match decode ((tableWords nbits w).flatMap wordBytes) with
  | .ok i => some i
  | .error _ => none

end Sys2Proof
end

