-- ==== Sys2Proof/Machine/Fetch.lean ====
section
/-! DEFINITION. What a move of the machine does around the instruction or event it issues: the passing of ticks, the turns of
the barrel positions (R17, R249, R250), instruction fetch (R20, R55 to R57), breakpoints (R366), the checkers (R351 to R353),
and the code place of a first instruction. -/

namespace Sys2Proof.Machine

/-! ## Moves and ticks -/

/-- The move that happens now: the head of the agenda, or a free one (DESIGN CHOICE, log entry 2). -/
def State.move (s : State) : Move := s.agenda.headD (Config.freeMove s.free)

/-- The state once the move has been chosen. -/
def State.moveTaken (s : State) : State :=
  if s.agenda.isEmpty then s.drawn else { s with agenda := s.agenda.tail }

/-- The context whose position has its turn, or that the move looks at. -/
def State.focusOf (s : State) (m : Move) : State :=
  let p := (s.dev m.dev).cycle % 8
  { s with cur := ⟨m.dev, m.vcn, p, (s.pos m.dev m.vcn p).cid, [], none, m.mismatches, m.part, []⟩ }

/-- Ticks until a wait for a tick is over (R129, R316). -/
def State.untilTick (s : State) (d cid : Nat) : Nat :=
  let t := (s.dev d).cycle
  match (s.ctx d cid).wait with
  | some (.again (.tick u) _) => u.toNat - t
  | some (.again (.promise u) _) => if promisePassed t u then 0 else (u.toNat + 2 ^ 48 - t % 2 ^ 48) % 2 ^ 48
  | _ => 0

/-- Ticks to the next tick that a position's turn can fall in: a core issues once in a tick, and a dispatch or a wait for a tick ends at its
tick. -/
def State.untilTurn (s : State) (d v p : Nat) : Nat :=
  let t := (s.dev d).cycle
  let wait := match (s.pos d v p).st with
    | .dispatching u => if tickDone u t then 0 else ticksFrom t u
    | .parked => if (s.ctx d (s.pos d v p).cid).asyncReady then 0 else s.untilTick d (s.pos d v p).cid
    | _ => 0
  let w := (p + 8 - (t + wait) % 8) % 8
  wait + (if wait + w = 0 ∧ (s.core d v).turnAt = some t then 8 else w)

/-- Ticks to the turns in which positions of a device issue (R17, R249). -/
def State.turnsDue (s : State) (d : Nat) : List Nat :=
  (s.listedCores d).flatMap fun v =>
    if s.standsStill d v then []
    else (List.range 8).filterMap fun p =>
      let w := s.untilTurn d v p
      if s.turnReady d v p ((s.dev d).cycle + w) then some w else none

/-- Ticks to the arrivals of fills over the links of a device (R199). -/
def State.fillsDue (s : State) (d : Nat) : List Nat :=
  s.net.filterMap fun m => match m with
    | .nfill d' _ _ _ _ _ _ _ due =>
      let t := (s.dev d).cycle
      if d' = d then some (if tickDone due t then 0 else ticksFrom t due) else none
    | _ => none

/-- Rotations of some cluster may be withheld (R17, R374, R375). -/
def Device.throttled (v : Device) : Bool := v.droop != [] || v.capped || v.hot

/-- Ticks at which the device itself does something: the next rotation while some are withheld, the next almanac tick, and the turn of the
64-bit counter (R16, R17, R363). -/
def Device.ticksDue (v : Device) : List Nat :=
  let alm := 1400 * 2 ^ (v.obs.alm.extractLsb' 0 4).toNat
  (2 ^ 64 - v.cycle) :: (if v.throttled || v.rotOff != [] then [8 - v.cycle % 8] else [])
    ++ (if v.obs.alm.getLsbD 4 then [alm - v.cycle % alm] else [])

/-- The ticks that pass of the dt that a move asks for: no turn, arrival or tick that is due is passed over. -/
def State.passing (s : State) (d dt : Nat) : Nat :=
  (s.turnsDue d ++ s.fillsDue d ++ (s.dev d).ticksDue).foldl min dt

/-- The clusters that withhold the rotation that starts now: those with a droop, each cluster at a power cap in a share of its rotations, and
all of them at the temperature limit in a share (R17, R374, R375; DESIGN CHOICE, log entry 18) (DEDUCED, log entry 67). -/
def State.startRotation (s : State) (d : Nat) : State :=
  let v := s.dev d
  let w := s.freeWord
  let off := (List.range 24).filter fun c =>
    v.droop.contains c || v.capped && w.getLsbD c || v.hot && w.getLsbD 24
  (if v.capped || v.hot then s.drawn else s).modDev d fun v => { v with rotOff := off }

/-- Ticks of a device pass: its reference counter, the refill of every 1,400th tick (R242), the waits of marked instructions, a wake that
expires (R343), the rotation that starts, and the almanac's latch (DESIGN CHOICE, log entry 3). -/
def State.elapse (s : State) (d dt : Nat) : State :=
  let n := if dt = 0 then 0 else s.passing d dt
  if n = 0 then s
  else
    let t := (s.dev d).cycle
    let s := (s.passMarks d n).modDev d fun v => { v with cycle := (t + n) % 2 ^ 64 }
    let s := if t / 1400 < (t + n) / 1400 ∨ t + n = 2 ^ 64 then s.refill d else s
    let s := s.expireWake d
    let s := if (s.dev d).throttled || (s.dev d).rotOff != [] then
        if (s.dev d).cycle % 8 = 0 then s.startRotation d else s
      else s
    s.almTick d

/-! ## What a move may name (DESIGN CHOICE, log entry 2) -/

/-- The row happens of itself: no write, store, turn or tick of a context, core or host brings it about. -/
def spontaneous : Instr → Bool
  | .registerWrite host _ _ => host
  | .tileCommandExecution | .tileCommandCompletion | .vectorCompletion
  | .launchRecordRead _ | .launch _ | .launchDelivery _ _ | .domainLaunchShare _
  | .hwakeWrite _ | .cxlbaseWrite _ | .cxlsizeWrite _ | .hostRead _ | .hostWrite _ _
  | .attest | .tenkey | .tenclr | .loghead | .reset | .identity | .update
  | .homeService _ | .stealService _ | .replyLands _ | .acknowledgementLands _ | .postedStoreRefused _
  | .splitLoadWordLands _ | .pageWalk _ _ _ _ | .externalFillArrival _ | .neighbourFillArrival _
  | .recordArrival _ | .rollbackEnd _ | .antiMessageArrival _ | .orderedResend _ | .eviction | .waitEnd _
  | .deadlock | .gvtRoundStart | .gvtPass | .jubilee
  | .copy _ _ | .deal _ _ | .gather _ _ | .pool _ | .migrate _ | .fillreg _ | .fill _ _ | .viewreg _ | .viewBlockBuild _
  | .almanacSnapshot | .logHeadRecord | .softErrorCorrected _ _ _ _ | .uncorrectableSoftError _ _
  | .membershipChange _ _ | .laneRetrain _ | .fullRetrainingDone _ | .droop _ | .voltageRecovers _
  | .powerCap | .powerBelowPcap | .thermalLimit | .thermalTrip | .powerOn | .perst => true
  | _ => false

/-! ## Fetch (R20, R34, R55, R56) -/

/-- The VA of the 32-byte block of an address, whose words a fetch translates together. -/
def blockVa (a : Word) : VA := 0x00#8 ++ (a &&& ~~~31#64)

/-- The word that the thread reads at an address: the one fetched ahead, or its home's; a trap, or none when the home holds the
read (R41). A translation is made at every fetch (DESIGN CHOICE, log entry 33). -/
def State.fetchWord (s : State) (a : Word) : Except (Option TrapInfo) (BitVec 32) :=
  let va : VA := 0x00#8 ++ a
  match s.resolveAt s.cur.dev s.issuer (blockVa a) .fetch 4 false with
  | .error f => .error (if f = walkHeld then none else some { cause := f.1, tval := a, sub := f.2 })
  | .ok b =>
    let t : Target := ⟨b.loc + a.toNat % 32, b.feOk⟩
    match s.thread.ahead.find? fun q => q.1 == a with
    | some q => .ok q.2
    | none =>
      let r := s.reqOf s.cur.dev va (some t) (.load 4 false)
      match s.refusal r t.loc with
      | some n => .error (some (nackTrap va n))
      | none => if (s.moveHolds r t.loc).isSome then .error none else .ok (if s.isHeader 1 t.loc then 0 else BitVec.ofNat 32 (s.readMem (s.atPort t.loc) 4))

/-- n words from an address; a fault on any of them is reported at the first (R56). -/
def State.fetchRest (s : State) (pc a : Word) : Nat → Except (Option TrapInfo) (List (BitVec 32))
  | 0 => .ok []
  | n + 1 =>
    match s.fetchWord a with
    | .error (some t) => .error (some { t with tval := pc })
    | .error none => .error none
    | .ok w => match s.fetchRest pc (a + 4) n with
      | .ok l => .ok (w :: l)
      | .error e => .error e

/-- The words of the instruction at the pc (R56, R57 step 1): one, or the eight of a tile command. Of a block whose first word alone cannot be
read the spec does not say what an ordinary instruction inside it does: it traps with that word's fault, and tval names that word
(DESIGN CHOICE, log entry 81). -/
def State.fetchWords (s : State) : Except (Option TrapInfo) (List (BitVec 32)) :=
  let pc := s.thread.pc
  match s.fetchWord pc with
  | .error e => .error e
  | .ok w =>
    if pc.toNat % 32 = 0 then
      if isTileWord w then
        match s.fetchRest pc (pc + 4) 7 with
        | .ok l => .ok (w :: l)
        | .error e => .error e
      else .ok [w]
    else match s.fetchWord (pc &&& ~~~31#64) with
      | .error e => .error e
      | .ok h =>
        if isTileWord h then .error (some { cause := 0x00, tval := pc })
        else if isTileWord w then .error (some { cause := 0x02, tval := pc })
        else .ok [w]

/-- The words at the n addresses from a, as far as they can be read. -/
def State.fetchAhead (s : State) (a : Word) : Nat → List (Word × BitVec 32)
  | 0 => []
  | n + 1 => match s.fetchWord a with
    | .ok w => (a, w) :: s.fetchAhead (a + 4) n
    | .error _ => []

/-- The words fetched ahead after a fetch of ws: those fetched before that are not of ws, and n new ones (R194). -/
def State.aheadAfter (s : State) (ws : List (BitVec 32)) (n : Nat) : List (Word × BitVec 32) :=
  let pc := s.thread.pc
  let rest := s.thread.ahead.filter fun q => decide (q.1.toNat < pc.toNat) || decide (pc.toNat + 4 * ws.length ≤ q.1.toNat)
  rest ++ (s.fetchAhead (pc + BitVec.ofNat 64 (4 * ws.length)) n).filter fun q => rest.all fun r => r.1 != q.1

/-- The index of the lowest breakpoint that matches the fetch (R366): a task-level context whose CID the entry names, or any
context when its CID is all ones (DEDUCED, log entry 63). -/
def State.breakpoint (s : State) : Option Nat :=
  let c := s.thread
  if c.stepOver then none
  else (List.range s.device.obs.brk.length).find? fun k =>
    let b := s.device.obs.brk.getD k (0, 0)
    let cid := (b.1.extractLsb' 0 24).toNat
    b.1.getLsbD 63 && b.2 == c.pc && (cid == 0xFFFFFF || !c.sup && cid == s.cur.cid)

/-! ## Turns (R17, R249, R250) -/

/-- What a move issues. -/
inductive Todo where
  /-- Nothing: the state that the move leaves. -/
  | rest (s : State)
  /-- An instruction or an event, in a state. -/
  | issue (i : Instr) (s : State)
deriving Repr

/-- Issue the instruction of some words, or trap its encoding. -/
def State.issueWords (s : State) (ws : List (BitVec 32)) : Todo :=
  match decodeWords ws with
  | .ok i => .issue i s
  | .error _ => .issue (.unassignedEncoding (ws.headD 0)) s

/-- The fetch of the thread has its translation, and no longer waits for the walk (R38). -/
def State.fetched (s : State) : State :=
  let q := (s.issuer, blockVa s.thread.pc)
  s.onDevice fun v => { v with walks := v.walks.map fun w => { w with waiting := w.waiting.filter (· ≠ q) } }

/-- A running thread fetches and issues (R57): fetch faults, breakpoints, then the instruction. A fetch that a walk holds back waits for it, and is
tried again at the next turn (R38). -/
def State.fetchTurn (s : State) (n : Nat) : Todo :=
  match s.fetchWords with
  | .error none => .rest (s.awaitWalk s.cur.dev s.issuer (blockVa s.thread.pc))
  | .error (some t) => .rest (s.fetched.trap t)
  | .ok ws =>
    match s.breakpoint with
    | some k => .rest (s.fetched.trap { cause := 0x0C, tval := BitVec.ofNat 64 k, sub := 1 })
    | none =>
      let l := s.aheadAfter ws n
      let s := (s.fetched.sampleDue.sampleFetch ws).onThread fun c =>
        { c with stepOver := false, wasOver := c.stepOver, chosenAt := none, ahead := l, enTested := c.enTested && isMapWord (ws.headD 0) }
      ({ s with cur := { s.cur with words := ws } } : State).issueWords ws

/-- A thread of the device in focus issues: a round that is open no longer shows that the GVT stands still (R302). -/
def State.stirred (s : State) : State := s.modDev s.cur.dev fun v => { v with gvtCalm := false, gvtStalled := false }

/-- A running thread at its turn: a pending asynchronous trap at a boundary (R311), or the next instruction; VQAPP issues
nothing while its lanes enter (R222). -/
def State.runTurn (s : State) (n : Nat) : Todo :=
  if s.thread.wait.isSome then .rest s
  else if s.thread.asyncReady then .issue .asynchronousTrap s.stirred
  else s.stirred.fetchTurn n

/-- A parked thread at its turn: the instruction issues again once its condition may hold (R57, R379). -/
def State.parkedTurn (s : State) : Todo :=
  if s.thread.asyncReady then .issue .asynchronousTrap s
  else match s.thread.wait with
    | some (.again on ws) =>
      if s.condition on then
        match on with
        | .key _ => .issue .klookwWake s
        | .tick _ => .issue .sleeptExpiry s
        | .promise _ => .issue .waitpPromiseExpiry s
        | _ => (s.reissued ws).issueWords ws
      else .rest s
    | _ => .rest s

/-- The turn of the position in focus. -/
def State.posTurn (s : State) (n : Nat) : Todo :=
  match (s.pos s.cur.dev s.cur.vcn s.cur.pos).st with
  | .empty => .issue .dispatchChoice s
  | .dispatching t =>
    if tickDone t s.now then (s.setPos s.cur.dev s.cur.vcn s.cur.pos ⟨.running, s.cur.cid⟩).runTurn n else .rest s
  | .running => s.runTurn n
  | .parked => s.parkedTurn

/-- The turn of a core, at most one in a tick (R17, R249): not in a rotation that its cluster withholds, on a core that is fenced or has
failed (R354, R356), or at a position that a CTXSAVE or MIGRC has paused (R318, R322). -/
def State.turn (s : State) (n : Nat) : Todo :=
  if s.standsStill s.cur.dev s.cur.vcn || s.here.turnAt == some s.now || s.stopped s.cur.dev s.cur.vcn s.cur.pos then .rest s
  else (s.onCore fun k => { k with turnAt := some s.now }).posTurn n

/-! ## The move -/

/-- What the move does once its ticks have passed. -/
def State.planMove (s : State) (m : Move) : Todo :=
  match m.event with
  | some e => if spontaneous e then .issue e s else .rest s
  | none => s.turn m.ahead

/-- The move, up to what it issues: a device and a part that exist (R10, R18). A device that is to boot boots first (R368). -/
def State.plan (s : State) : Todo :=
  let m := s.move
  let s := s.moveTaken
  if 3071 < m.dev ∨ gatewayVcn ≤ m.vcn then .rest s
  else if (s.dev m.dev).booting then .rest (s.boot m.dev)
  else ((s.elapse m.dev m.dt).focusOf m).planMove m

/-! ## Checkers (R351 to R353) -/

/-- What a checker sees of an issued instruction or event: a retiring scalar or vector result, a tile command, the work of an engine hart or
channel core of a device, or nothing. -/
inductive Checked where
  | result
  /-- A command with block products, before it writes: the state in which it starts again, and the command. -/
  | tile (j : TileJob)
  | part (d v : Nat)
  | nothing
deriving DecidableEq, Repr

/-- A part below a bound is checked. -/
def engineOf (d base h n : Nat) : Checked := if h < n then .part d (base + h) else .nothing

/-- The channel core that serves an access (R11), with the place that a peer's access reaches. -/
def State.servedBy (s : State) (r : Req) : Checked :=
  let at_ := fun (l : Nat) => match regionOf l with
    | .hbm | .lp => Checked.part r.dst (channelCore l)
    | _ => .nothing
  match r.loc with
  | some l => at_ l
  | none => match s.resolveAt r.dst r.who r.va r.acc.perm r.acc.width true with
    | .ok t => at_ t.loc
    | .error _ => .nothing

/-- The engine hart that serves a request to an engine. -/
def State.servedByEngine (s : State) (who : Issuer) (op : EngOp) : Checked :=
  match op with
  | .cpyq xc _ _ => if 4608 ≤ xc.toNat ∧ xc.toNat < 4704 then .part who.dev xc.toNat else .nothing
  | .waitp t => .part who.dev (copyVcn ((t.extractLsb' 57 7).toNat))
  | .vcommit loc _ | .vreclaim loc _ => match s.descriptor who loc with
    | .ok (.ok w) => .part who.dev (viewVcn (hartOf (w.extractLsb' 40 12).toNat))
    | _ => .nothing

/-- What is checked (R351, R352). -/
def State.checked (s : State) (i : Instr) : Checked :=
  let d := s.cur.dev
  match i with
  | .tileCommandExecution => match s.here.mq with
    | .tile j :: _ => if j.out.isNone ∧ (j.op = .mma ∨ j.op = .mmaz) ∧ j.stores.isEmpty ∧ !j.split then .tile j else .nothing
    | _ => .nothing
  | .copy h _ | .deal h _ | .gather h _ | .pool h | .migrate h | .fillreg h | .fill h _ | .viewreg h => engineOf d 4608 h 96
  | .viewBlockBuild h => engineOf d 4704 h 24
  | .launchRecordRead h | .launch h | .launchDelivery h _ => engineOf d 4920 h.toNat 4
  | .domainLaunchShare n => match s.net[n]? with
    | some (.share _ dst h _ _ _ _) | some (.shareAns _ dst h _ _ _) => engineOf dst 4920 h 4
    | _ => .nothing
  | .homeService n => match s.net[n]? with
    | some (.req r) => s.servedBy r
    | some (.eng who op) => s.servedByEngine who op
    | _ => .nothing
  | .dispatchChoice | .asynchronousTrap => .nothing
  | i => if spontaneous i then .nothing else .result

/-- The instruction word that a move issues; a map lookup, SLEEPT or WAITP that is issued again on its wake has it in its wait. -/
def State.issuedWord (s : State) : BitVec 32 :=
  match s.cur.words, s.thread.wait with
  | w :: _, _ => w
  | [], some (.again _ ws) => ws.headD 0
  | _, _ => 0

/-- The instruction that the thread has been issued retires with a result, or an access of it is performed: it has not merely parked or
stalled. -/
def State.worked (t before : State) : Bool :=
  let a := before.thread
  let b := t.ctx before.cur.dev before.cur.cid
  match b.wait with
  | some (.again _ _) => a.sent != b.sent || a.sending != b.sending || a.fork != b.fork
  | some _ => true
  | none => a.pc != b.pc || t.cur.trapped != [] || a.x != b.x || a.place != b.place

/-- A mismatch that a repetition repairs is logged (R361). Of an instruction that goes on over several turns the context keeps the count; the
effect of the turn is that of one execution. A tile command starts again, with nothing of it done (R352). Pc and word of an engine hart's
program are free (DESIGN CHOICE, log entry 18). -/
def State.logMismatch (s before : State) (c : Checked) : State :=
  let d := before.cur.dev
  let v := before.cur.vcn
  let w := before.issuedWord
  match c with
  | .result =>
    let s := s.log d 0x04 (if isVectorWord w then 1 else 0) v before.cur.cid before.thread.pc (w.zeroExtend 64)
    match (s.ctx d before.cur.cid).wait with
    | some (.again _ _) => s.modCtx d before.cur.cid fun x => { x with mism := 1 }
    | _ => s
  | .tile j =>
    (before.onCore fun k => { k with mq := match k.mq with | _ :: t => .tile { j with got := [], mism := 1 } :: t | [] => [] }).logFor d 0x05 0 v
      j.cid (some j.tenant) j.pc (BitVec.ofNat 64 (tileOpCode j.op))
  | .part e n => (s.log e 0x04 0 n noCid s.freeWord s.drawn.freeWord).drawn.drawn
  | .nothing => s

/-- A second mismatch: nothing is committed, and the part has failed its checker (R353). -/
def State.checkerFails (before : State) (c : Checked) : State :=
  let d := before.cur.dev
  match c with
  | .result => before.checkerFailure d before.cur.vcn before.cur.cid (some before.thread.tenant.toNat) before.thread.pc
  | .tile j => before.checkerFailure d before.cur.vcn j.cid (some j.tenant) j.pc
  | .part e n => before.drawn.checkerFailure e n noCid none before.freeWord
  | .nothing => before

/-- Mismatches of an instruction or command so far, with those of this move (R353). -/
def State.mismatchesOf (before : State) : Checked → Nat
  | .result => before.thread.mism + before.cur.mismatches
  | .tile j => j.mism + before.cur.mismatches
  | _ => before.cur.mismatches

/-- The marks of the cores are followed (R364). -/
def State.allMarks (s : State) : State :=
  (s.cores.filter fun p => p.2.obs.marks ≠ []).foldl (fun s p => s.followMarks (p.1 / 8192) (p.1 % 8192)) s

/-- What a move leaves to its end: checkpoint headers and held writes, copy commands, launch statuses, marks and traces that could not go on
before, and walks that nothing waits for. -/
def State.settle (s : State) : State := s.ckptSettle.copySettle.launchPosts.allMarks.traceSettle.walkSettle

/-- A message that a home has not served is still in flight. -/
def State.stillThere (t before : State) (i : Instr) : Bool :=
  match i with
  | .homeService n => match before.net[n]? with
    | some m => t.net.count m == before.net.count m
    | none => true
  | _ => false

/-- What has been checked in the move that led from `before` to t: a part that did nothing has nothing to check, and neither has an instruction
that only waits. -/
def State.checkedWork (before : State) (i : Instr) (t : State) : Checked :=
  if before.cur.mismatches = 0 then .nothing
  else match before.checked i with
    | .part d v => if t = before ∨ t.stillThere before i then .nothing else .part d v
    | .result => if t.worked before then .result else .nothing
    | c => c

/-- The state after an issue: `t` is what `exec` of i answered in `before` (DESIGN CHOICE, log entry 50). -/
def State.after (before : State) (i : Instr) (t : State) : State :=
  let c := before.checkedWork i t
  if before.mismatchesOf c < 2 ∨ c = .nothing then (t.logMismatch before c).settle
  else (before.checkerFails c).settle

/-! ## The first instruction (DESIGN CHOICE, log entry 5) -/

/-- Where the first instruction stands: code VA and HBM address, a multiple of 32. -/
def codeAt : Nat := 0x10000

/-- A page-table entry: V, the permissions, tier 0, leaf or not, PA (R31). -/
def tableEntry (leaf : Bool) (pa : Nat) : Word :=
  BitVec.ofNat 64 (pa / 65536 * 65536 + (if leaf then 1024 + 127 else 1))

/-- Tables of tenant 0 at HBM 1 MiB and above that map VA 0 to 4 TiB onto HBM: levels 0 and 1, and a leaf at level 2
(R29 to R31). -/
def State.withTables (s : State) (d : Nat) : State :=
  (((s.writeWord (tenantLoc d 0) (1#64 ||| BitVec.ofNat 64 (0x100000))).writeWord (hbmLoc d 0x100000) (tableEntry false 0x110000)).writeWord
    (hbmLoc d 0x110000) (tableEntry false 0x120000)).writeWord (hbmLoc d 0x120000) (tableEntry true 0)

/-- The device runs: booted, no cached translation, no rotation withheld, no page move, no breakpoint. -/
def State.withDevice (s : State) (d : Nat) : State :=
  s.modDev d fun v => { v with
    booting := false
    tlb := []
    walks := []
    copy := v.copy.map fun q => (q.1, { q.2 with move := none })
    rotOff := []
    obs := { v.obs with brk := [] } }

/-- A supervisor context in its own words: CID 0 at the code place, in position p of VCN 0. -/
def Ctx.atCode (c : Ctx) (p : Nat) : Ctx :=
  { c with
    pc := BitVec.ofNat 64 codeAt
    sup := true
    tenant := 0
    wait := none
    pend := []
    enTested := false
    stepOver := true
    ahead := []
    core := 0
    pos := p
    place := .resident }

/-- The bytes of an instruction at the code place, and the context in the position whose turn it is. -/
def State.withCode (s : State) (bs : List Byte) : State :=
  let p := (s.dev 0).cycle % 8
  let s := ((s.withDevice 0).withTables 0).writeBytes (hbmLoc 0 codeAt) bs
  let s := s.modCore 0 0 fun k => { k with fenced := false, failed := false, turnAt := none, paused := [], obs := { k.obs with samp := 0, marks := [] } }
  let s := s.modCore 0 (channelCore codeAt) fun k => { k with failed := false }
  let s := (s.setPos 0 0 p ⟨.running, 0⟩).modCtx 0 0 fun c => c.atCode p
  { s with agenda := [⟨0, 0, 0, none, 0, 0, []⟩] }

end Sys2Proof.Machine
end

