-- ==== Sys2Proof/Machine/Step.lean ====
section
/-! DEFINITION. One step of the machine: the move that the agenda or a free value names, and what it issues. -/

namespace Sys2Proof.Machine

/-- One step (R1, R132): the plan of the move, and `exec` of what it issues. -/
def step (s : State) : Host.Outcome State Fault Refusal :=
  match s.plan with
  | .rest t => .next t.settle
  | .issue i t =>
    match exec i t with
    | .next u => .next (t.after i u)
    | .fault r => .fault r
    | .refused r => .refused r

/-- The state whose next step fetches and issues the instruction with bits w (DESIGN CHOICE, log entry 5). -/
def State.withFetchWord (s : State) (nbits w : Nat) : State := s.withCode ((tableWords nbits w).flatMap wordBytes)

end Sys2Proof.Machine
end

