-- ==== Sys2Proof/Safety.lean ====
section
/-! DEFINITION. What counts as a safe run, and the words in which the statements speak of a state and of what a step leaves
unchanged. -/

namespace Sys2Proof.Machine

/-! ## Safe runs -/

/-- The members of a list rise strictly. -/
def rising : List Nat → Bool
  | a :: b :: t => decide (a < b) && rising (b :: t)
  | _ => true

/-- The one form in which equal memories are equal data: bytes, F/E bits and poison marks. -/
def State.canonical (s : State) : Bool := Memory.wf s.mem && rising s.empty && rising s.poison

/-- n steps from s each answer a next state. -/
def State.runs (s : State) : Nat → Prop
  | 0 => True
  | n + 1 => match step s with
    | .next t => t.runs n
    | _ => False

/-! ## What an instruction needs -/

/-- Every register named is full (R47, R57). -/
def State.fullAll (s : State) (l : List Opnd) : Prop := ∀ o ∈ l, s.thread.full o = true

/-- The VA reaches a place of the own core's local storage, with the permission and width that the access needs. -/
def State.ownPlace (s : State) (va : VA) (p : Perm) (n : Nat) (t : Target) : Prop :=
  va.toNat % n = 0 ∧ s.resolveAt s.cur.dev s.issuer va p n false = .ok t ∧ isOwn s.cur.dev s.cur.vcn t.loc = true

/-- The VA reaches a place on the own device whose home is not the own core. -/
def State.farPlace (s : State) (va : VA) (p : Perm) (n : Nat) (t : Target) : Prop :=
  va.toNat % n = 0 ∧ s.resolveAt s.cur.dev s.issuer va p n false = .ok t ∧ isOwn s.cur.dev s.cur.vcn t.loc = false

/-- No split load, no FENCE with set stores, no unacknowledged store and, at supervisor level, no refused store stands in the thread's
way. -/
def State.atRest (s : State) : Prop :=
  s.thread.split = none ∧ s.thread.storeFence = none ∧ s.anyEntry s.cur.dev (fun e => e.isOpen s.cur.cid) = false
    ∧ s.refusedIn .sy = false

/-- The context sits in the position that moves. -/
def State.seated (s : State) : Prop := s.thread.core = s.cur.vcn ∧ s.thread.pos = s.cur.pos

/-- The thread may change memory at once: nothing stands in its way, and it is no revocable ordered task. -/
def State.quiet (s : State) : Prop := s.atRest ∧ s.seated ∧ s.canonical = true ∧ s.thread.revocable = false

/-- No access waits at the home of a place's word. -/
def State.noWaiterAt (s : State) (l : Nat) : Prop := ∀ w ∈ s.waiters, ∀ k, w.req.loc = some k → wordOf k ≠ wordOf l

/-! ## What is left unchanged -/

/-- One byte of memory. -/
def State.byteAt (s : State) (l : Nat) : Byte := Memory.get s.mem l

/-- Memory is unchanged: every byte and every F/E bit. -/
def SameMemory (s t : State) : Prop := (∀ l, t.byteAt l = s.byteAt l) ∧ ∀ l, t.full l = s.full l

/-- Every core, device, message and waiter is unchanged, and every context but that of the thread that moves. -/
structure SameElsewhere (s t : State) : Prop where
  cores : t.cores = s.cores
  devs : t.devs = s.devs
  net : t.net = s.net
  waiters : t.waiters = s.waiters
  agenda : t.agenda = s.agenda
  free : t.free = s.free
  place : t.cur.dev = s.cur.dev ∧ t.cur.vcn = s.cur.vcn ∧ t.cur.pos = s.cur.pos ∧ t.cur.cid = s.cur.cid
  ctxs : ∀ d c, ctxKey d c ≠ ctxKey s.cur.dev s.cur.cid → t.ctx d c = s.ctx d c
  poss : ∀ d v p, posKey d v p ≠ posKey s.cur.dev s.cur.vcn s.cur.pos → t.pos d v p = s.pos d v p

/-- Every register of the thread but those that `written` names keeps its value and its F/E bit. -/
def SameRegs (written : Opnd → Bool) (a b : Ctx) : Prop :=
  (∀ r, written (.x r) = false → b.getX r = a.getX r ∧ b.fullX r = a.fullX r)
  ∧ (∀ r, written (.v r) = false → b.getV r = a.getV r ∧ b.fullV r = a.fullV r)
  ∧ ∀ r, written (.m r) = false → b.getM r = a.getM r ∧ b.fullM r = a.fullM r

/-- The context CSRs that only CSR instructions, vector flags and tile commands write (R52). -/
def SameCtxCsrs (a b : Ctx) : Prop :=
  b.aw = a.aw ∧ b.fmt = a.fmt ∧ b.sclp = a.sclp ∧ b.ebudget = a.ebudget ∧ b.vflags = a.vflags ∧ b.vstale = a.vstale
  ∧ b.mcnt = a.mcnt ∧ b.mthr = a.mthr ∧ b.tscratch = a.tscratch ∧ b.vtime = a.vtime ∧ b.tenant = a.tenant ∧ b.chan = a.chan
  ∧ b.prio = a.prio

/-- The trap CSRs and the level (R309, R310). -/
def SameTrapCsrs (a b : Ctx) : Prop :=
  b.tcause = a.tcause ∧ b.tval = a.tval ∧ b.tepc = a.tepc ∧ b.tstat = a.tstat ∧ b.sup = a.sup

end Sys2Proof.Machine
end

