-- ==== Sys2Proof/Certificates/Slice0/Obligations.lean ====
section
/-! DEFINITION. The statements about the machine, for the provers. Each formalises rules of the manual; OBLIGATIONS.json lists
them with what they rest on. -/

open Sys2Proof Sys2Proof.Machine

/-! ## Scalar arithmetic (R191, R196) -/

/-- What rd receives: nothing but rd and the pc changes, and the instruction retires. A write of x0 is discarded (R45). -/
def Obligations.RegisterWriteRetires : Prop :=
  ∀ (s : State) (rd r : Reg) (v : Word),
    ((s.setX rd v).retire).thread.getX r = (if r = rd ∧ rd ≠ 0#5 then v else s.thread.getX r)
    ∧ ((s.setX rd v).retire).thread.fullX r = (s.thread.fullX r || decide (r = rd))
    ∧ ((s.setX rd v).retire).thread.pc = s.thread.pc + 4
    ∧ SameRegs (fun o => o == .x rd) s.thread ((s.setX rd v).retire).thread
    ∧ SameCtxCsrs s.thread ((s.setX rd v).retire).thread ∧ SameTrapCsrs s.thread ((s.setX rd v).retire).thread
    ∧ SameMemory s ((s.setX rd v).retire) ∧ SameElsewhere s ((s.setX rd v).retire)

/-- Immediate forms, the upper immediates among them: with the source and the destination full the instruction completes, and rd
holds the result (R191). -/
def Piece.ImmediateResults : Prop :=
  ∀ (s : State) (rd rs1 : Reg) (i : BitVec 12) (u : BitVec 20) (n : BitVec 6) (m : BitVec 5),
    s.fullAll [.x rs1, .x rd] →
      (let a := s.thread.getX rs1
       let w := a.extractLsb' 0 32
       let k := i.signExtend 64
       let put := fun (v : Word) => (Host.Outcome.next ((s.setX rd v).retire) : Out)
       exec (.lui rd u) s = put ((u ++ 0#12).signExtend 64)
       ∧ exec (.auipc rd u) s = put (s.thread.pc + (u ++ 0#12).signExtend 64)
       ∧ exec (.addi rd rs1 i) s = put (a + k)
       ∧ exec (.slti rd rs1 i) s = put (if a.toInt < k.toInt then 1 else 0)
       ∧ exec (.sltiu rd rs1 i) s = put (if a.toNat < k.toNat then 1 else 0)
       ∧ exec (.xori rd rs1 i) s = put (a ^^^ k)
       ∧ exec (.ori rd rs1 i) s = put (a ||| k)
       ∧ exec (.andi rd rs1 i) s = put (a &&& k)
       ∧ exec (.slli rd rs1 n) s = put (a <<< n.toNat)
       ∧ exec (.srli rd rs1 n) s = put (a >>> n.toNat)
       ∧ exec (.srai rd rs1 n) s = put (a.sshiftRight n.toNat)
       ∧ exec (.addiw rd rs1 i) s = put ((w + i.signExtend 32).signExtend 64)
       ∧ exec (.slliw rd rs1 m) s = put ((w <<< m.toNat).signExtend 64)
       ∧ exec (.srliw rd rs1 m) s = put ((w >>> m.toNat).signExtend 64)
       ∧ exec (.sraiw rd rs1 m) s = put ((w.sshiftRight m.toNat).signExtend 64)
       ∧ exec (.slliUw rd rs1 n) s = put (w.setWidth 64 <<< n.toNat)
       ∧ exec (.rori rd rs1 n) s = put (a.rotateRight n.toNat)
       ∧ exec (.roriw rd rs1 m) s = put ((w.rotateRight m.toNat).signExtend 64))

/-- Two-register forms of RV64I and Zba: with the sources and the destination full the instruction completes, and rd holds the
result (R191). -/
def Piece.RegisterResults : Prop :=
  ∀ (s : State) (rd rs1 rs2 : Reg), s.fullAll [.x rs1, .x rs2, .x rd] →
    (let a := s.thread.getX rs1
     let b := s.thread.getX rs2
     let v := a.extractLsb' 0 32
     let w := b.extractLsb' 0 32
     let put := fun (x : Word) => (Host.Outcome.next ((s.setX rd x).retire) : Out)
     exec (.add rd rs1 rs2) s = put (a + b)
     ∧ exec (.sub rd rs1 rs2) s = put (a - b)
     ∧ exec (.sll rd rs1 rs2) s = put (a <<< (b.toNat % 64))
     ∧ exec (.slt rd rs1 rs2) s = put (if a.toInt < b.toInt then 1 else 0)
     ∧ exec (.sltu rd rs1 rs2) s = put (if a.toNat < b.toNat then 1 else 0)
     ∧ exec (.xor rd rs1 rs2) s = put (a ^^^ b)
     ∧ exec (.srl rd rs1 rs2) s = put (a >>> (b.toNat % 64))
     ∧ exec (.sra rd rs1 rs2) s = put (a.sshiftRight (b.toNat % 64))
     ∧ exec (.or rd rs1 rs2) s = put (a ||| b)
     ∧ exec (.and rd rs1 rs2) s = put (a &&& b)
     ∧ exec (.addw rd rs1 rs2) s = put ((v + w).signExtend 64)
     ∧ exec (.subw rd rs1 rs2) s = put ((v - w).signExtend 64)
     ∧ exec (.sllw rd rs1 rs2) s = put ((v <<< (b.toNat % 32)).signExtend 64)
     ∧ exec (.srlw rd rs1 rs2) s = put ((v >>> (b.toNat % 32)).signExtend 64)
     ∧ exec (.sraw rd rs1 rs2) s = put ((v.sshiftRight (b.toNat % 32)).signExtend 64)
     ∧ exec (.addUw rd rs1 rs2) s = put (v.setWidth 64 + b)
     ∧ exec (.sh1add rd rs1 rs2) s = put (2 * a + b)
     ∧ exec (.sh2add rd rs1 rs2) s = put (4 * a + b)
     ∧ exec (.sh3add rd rs1 rs2) s = put (8 * a + b)
     ∧ exec (.sh1addUw rd rs1 rs2) s = put (2 * v.setWidth 64 + b)
     ∧ exec (.sh2addUw rd rs1 rs2) s = put (4 * v.setWidth 64 + b)
     ∧ exec (.sh3addUw rd rs1 rs2) s = put (8 * v.setWidth 64 + b))

/-- Multiplication: the low half, and the high halves of the exact signed, mixed and unsigned products (R191). -/
def Piece.MultiplyResults : Prop :=
  ∀ (s : State) (rd rs1 rs2 : Reg), s.fullAll [.x rs1, .x rs2, .x rd] →
    (let a := s.thread.getX rs1
     let b := s.thread.getX rs2
     let put := fun (x : Word) => (Host.Outcome.next ((s.setX rd x).retire) : Out)
     exec (.mul rd rs1 rs2) s = put (BitVec.ofInt 64 (a.toInt * b.toInt))
     ∧ exec (.mulh rd rs1 rs2) s = put (BitVec.ofInt 64 (a.toInt * b.toInt / 2 ^ 64))
     ∧ exec (.mulhsu rd rs1 rs2) s = put (BitVec.ofInt 64 (a.toInt * b.toNat / 2 ^ 64))
     ∧ exec (.mulhu rd rs1 rs2) s = put (BitVec.ofNat 64 (a.toNat * b.toNat / 2 ^ 64))
     ∧ exec (.mulw rd rs1 rs2) s = put ((a.extractLsb' 0 32 * b.extractLsb' 0 32).signExtend 64))

/-- Division (R196): a zero divisor gives all ones and leaves the dividend as remainder; the overflow of the signed forms gives
the dividend and 0; every other quotient is truncated. None traps. -/
def Piece.DivideResults : Prop :=
  ∀ (s : State) (rd rs1 rs2 : Reg), s.fullAll [.x rs1, .x rs2, .x rd] →
    (let a := s.thread.getX rs1
     let b := s.thread.getX rs2
     let v := a.extractLsb' 0 32
     let w := b.extractLsb' 0 32
     let put := fun (x : Word) => (Host.Outcome.next ((s.setX rd x).retire) : Out)
     exec (.div rd rs1 rs2) s = put (if b = 0 then BitVec.allOnes 64 else BitVec.ofInt 64 (a.toInt.tdiv b.toInt))
     ∧ exec (.divu rd rs1 rs2) s = put (if b = 0 then BitVec.allOnes 64 else BitVec.ofNat 64 (a.toNat / b.toNat))
     ∧ exec (.rem rd rs1 rs2) s = put (if b = 0 then a else BitVec.ofInt 64 (a.toInt.tmod b.toInt))
     ∧ exec (.remu rd rs1 rs2) s = put (if b = 0 then a else BitVec.ofNat 64 (a.toNat % b.toNat))
     ∧ exec (.divw rd rs1 rs2) s
        = put ((if w = 0 then BitVec.allOnes 32 else BitVec.ofInt 32 (v.toInt.tdiv w.toInt)).signExtend 64)
     ∧ exec (.divuw rd rs1 rs2) s
        = put ((if w = 0 then BitVec.allOnes 32 else BitVec.ofNat 32 (v.toNat / w.toNat)).signExtend 64)
     ∧ exec (.remw rd rs1 rs2) s = put ((if w = 0 then v else BitVec.ofInt 32 (v.toInt.tmod w.toInt)).signExtend 64)
     ∧ exec (.remuw rd rs1 rs2) s = put ((if w = 0 then v else BitVec.ofNat 32 (v.toNat % w.toNat)).signExtend 64))

/-- Zbb (R191): logic with complement, minimum and maximum, rotations, extensions, and the counts, which are said by what they
count: no bit above (below) the counted zeros is set, and the next one is. -/
def Piece.BitManipulationResults : Prop :=
  ∀ (s : State) (rd rs1 rs2 : Reg), s.fullAll [.x rs1, .x rs2, .x rd] →
    (let a := s.thread.getX rs1
     let b := s.thread.getX rs2
     let v := a.extractLsb' 0 32
     let put := fun (x : Word) => (Host.Outcome.next ((s.setX rd x).retire) : Out)
     exec (.andn rd rs1 rs2) s = put (a &&& ~~~b)
     ∧ exec (.orn rd rs1 rs2) s = put (a ||| ~~~b)
     ∧ exec (.xnor rd rs1 rs2) s = put (~~~(a ^^^ b))
     ∧ exec (.max rd rs1 rs2) s = put (if a.toInt < b.toInt then b else a)
     ∧ exec (.maxu rd rs1 rs2) s = put (if a.toNat < b.toNat then b else a)
     ∧ exec (.min rd rs1 rs2) s = put (if a.toInt < b.toInt then a else b)
     ∧ exec (.minu rd rs1 rs2) s = put (if a.toNat < b.toNat then a else b)
     ∧ exec (.rol rd rs1 rs2) s = put (a.rotateLeft (b.toNat % 64))
     ∧ exec (.ror rd rs1 rs2) s = put (a.rotateRight (b.toNat % 64))
     ∧ exec (.rolw rd rs1 rs2) s = put ((v.rotateLeft (b.toNat % 32)).signExtend 64)
     ∧ exec (.rorw rd rs1 rs2) s = put ((v.rotateRight (b.toNat % 32)).signExtend 64)
     ∧ exec (.sextB rd rs1) s = put ((a.extractLsb' 0 8).signExtend 64)
     ∧ exec (.sextH rd rs1) s = put ((a.extractLsb' 0 16).signExtend 64)
     ∧ exec (.zextH rd rs1) s = put (a &&& 0xFFFF#64)
     ∧ (∃ n ≤ 64, exec (.clz rd rs1) s = put (BitVec.ofNat 64 n) ∧ (∀ k, 64 - n ≤ k → a.getLsbD k = false)
         ∧ (n < 64 → a.getLsbD (63 - n) = true))
     ∧ (∃ n ≤ 64, exec (.ctz rd rs1) s = put (BitVec.ofNat 64 n) ∧ (∀ k, k < n → a.getLsbD k = false)
         ∧ (n < 64 → a.getLsbD n = true))
     ∧ (∃ n ≤ 32, exec (.clzw rd rs1) s = put (BitVec.ofNat 64 n) ∧ (∀ k, 32 - n ≤ k → v.getLsbD k = false)
         ∧ (n < 32 → v.getLsbD (31 - n) = true))
     ∧ (∃ n ≤ 32, exec (.ctzw rd rs1) s = put (BitVec.ofNat 64 n) ∧ (∀ k, k < n → v.getLsbD k = false)
         ∧ (n < 32 → v.getLsbD n = true))
     ∧ exec (.cpop rd rs1) s = put (BitVec.ofNat 64 (((List.range 64).filter fun k => a.getLsbD k).length))
     ∧ exec (.cpopw rd rs1) s = put (BitVec.ofNat 64 (((List.range 32).filter fun k => a.getLsbD k).length))
     ∧ (∃ x, exec (.orcB rd rs1) s = put x ∧ ∀ k < 8, x.extractLsb' (8 * k) 8 = if a.extractLsb' (8 * k) 8 = 0#8 then 0#8 else 0xFF#8)
     ∧ (∃ x, exec (.rev8 rd rs1) s = put x ∧ ∀ k < 8, x.extractLsb' (8 * k) 8 = a.extractLsb' (8 * (7 - k)) 8))

/-- Scalar arithmetic (R191, R196): immediate forms, two-register forms, products, quotients and bit manipulation. -/
def Obligations.ScalarResults : Prop :=
  Piece.ImmediateResults ∧ Piece.RegisterResults ∧ Piece.MultiplyResults ∧ Piece.DivideResults ∧ Piece.BitManipulationResults

/-! ## Control transfer and traps (R55, R193, R195, R308 to R311, R315) -/

/-- A jump to a multiple of 4 writes the link and goes there (R191, R55). -/
def Piece.JumpResults : Prop :=
  ∀ (s : State) (rd rs1 : Reg) (j : BitVec 20) (i : BitVec 12), s.fullAll [.x rs1, .x rd] →
    (let go := fun (t : Word) => (Host.Outcome.next ((s.setX rd (s.thread.pc + 4)).onThread fun c => { c with pc := t }) : Out)
     let t1 := s.thread.pc + 2 * j.signExtend 64
     let t2 := (s.thread.getX rs1 + i.signExtend 64) &&& ~~~1#64
     (t1.toNat % 4 = 0 → exec (.jal rd j) s = go t1) ∧ (t2.toNat % 4 = 0 → exec (.jalr rd rs1 i) s = go t2))

/-- The conditional branches (R191): a taken one whose target is a multiple of 4 goes there, one that is not taken goes on to
the next word; neither writes a register. -/
def Piece.BranchResults : Prop :=
  ∀ (s : State) (rs1 rs2 : Reg) (i : BitVec 12), s.fullAll [.x rs1, .x rs2] →
    (let a := s.thread.getX rs1
     let b := s.thread.getX rs2
     let t := s.thread.pc + 2 * i.signExtend 64
     let gives := fun (p : Word) => (Host.Outcome.next (s.onThread fun c => { c with pc := p }) : Out)
     let go := fun (cond : Bool) => gives (if cond then t else s.thread.pc + 4)
     t.toNat % 4 = 0 →
       exec (.beq rs1 rs2 i) s = go (decide (a = b)) ∧ exec (.bne rs1 rs2 i) s = go (decide (a ≠ b))
       ∧ exec (.blt rs1 rs2 i) s = go (decide (a.toInt < b.toInt)) ∧ exec (.bge rs1 rs2 i) s = go (decide (b.toInt ≤ a.toInt))
       ∧ exec (.bltu rs1 rs2 i) s = go (decide (a.toNat < b.toNat)) ∧ exec (.bgeu rs1 rs2 i) s = go (decide (b.toNat ≤ a.toNat)))

/-- A jump, or a taken branch, to an address that is not a multiple of 4 traps MISALIGN with the target in tval and writes no
register; a branch that is not taken does not look at its target (R55, R193). -/
def Piece.MisalignedTargets : Prop :=
  ∀ (s : State) (rd rs1 rs2 : Reg) (j : BitVec 20) (i : BitVec 12), s.fullAll [.x rs1, .x rs2, .x rd] →
    (let trap := fun (t : Word) => (Host.Outcome.next (s.trap { cause := 0x02, tval := t }) : Out)
     let t1 := s.thread.pc + 2 * j.signExtend 64
     let t2 := (s.thread.getX rs1 + i.signExtend 64) &&& ~~~1#64
     let t3 := s.thread.pc + 2 * i.signExtend 64
     (t1.toNat % 4 ≠ 0 → exec (.jal rd j) s = trap t1) ∧ (t2.toNat % 4 ≠ 0 → exec (.jalr rd rs1 i) s = trap t2)
     ∧ (t3.toNat % 4 ≠ 0 →
         (let a := s.thread.getX rs1
          let b := s.thread.getX rs2
          let looks := fun (taken : Bool) => if taken then trap t3 else .next s.retire
          exec (.beq rs1 rs2 i) s = looks (decide (a = b)) ∧ exec (.bne rs1 rs2 i) s = looks (decide (a ≠ b))
          ∧ exec (.blt rs1 rs2 i) s = looks (decide (a.toInt < b.toInt)) ∧ exec (.bge rs1 rs2 i) s = looks (decide (b.toInt ≤ a.toInt))
          ∧ exec (.bltu rs1 rs2 i) s = looks (decide (a.toNat < b.toNat))
          ∧ exec (.bgeu rs1 rs2 i) s = looks (decide (b.toNat ≤ a.toNat)))))

/-- Taking a trap (R309, R310): the cause, tval, the pc of the instruction and the status go to the trap CSRs, the level becomes
supervisor and the pc becomes tvec; every register, every other context CSR, every other context, every core, every device and
memory stay as they were, and the position runs. -/
def Obligations.TrapEntry : Prop :=
  ∀ (s : State) (t : TrapInfo),
    (let c := s.thread
     let d := (s.trap t).thread
     d.tcause = BitVec.ofNat 64 t.cause ∧ d.tval = t.tval ∧ d.tepc = c.pc ∧ d.pc = s.here.tvec ∧ d.sup = true
     ∧ d.tstat.getLsbD 63 = c.sup ∧ d.tstat.getLsbD 62 = t.async ∧ d.tstat.getLsbD 61 = t.nrst
     ∧ d.tstat.extractLsb' 48 13 = 0#13 ∧ d.tstat.extractLsb' 40 8 = t.vahi
     ∧ d.tstat.extractLsb' 32 8 = BitVec.ofNat 8 t.fcode ∧ d.tstat.extractLsb' 8 24 = 0#24
     ∧ d.tstat.extractLsb' 0 8 = BitVec.ofNat 8 t.sub
     ∧ SameRegs (fun _ => false) c d ∧ SameCtxCsrs c d ∧ SameMemory s (s.trap t) ∧ SameElsewhere s (s.trap t)
     ∧ (s.trap t).pos s.cur.dev s.cur.vcn s.cur.pos = ⟨.running, s.cur.cid⟩ ∧ (s.trap t).issuer.sup = true)

/-- ECALL takes cause 0x0B and EBREAK cause 0x0C (R195); a word that is no instruction takes ILLEGAL with the word in tval
(R57, R58); and a context at task level with pending asynchronous traps takes the oldest at an instruction boundary, and it is then
pending no longer (R311): that of a refused posted store is a POSTREFUSE with the journal entry in tval (R99), and that of a
refused word of a split load a NACK trap, which is not restartable, with the VA of the word in tval and its window byte in
tstat (R217). -/
def Obligations.SynchronousTraps : Prop :=
  ∀ (s : State) (w : BitVec 32),
    exec .ecall s = .next (s.trap { cause := 0x0B, tval := 0 })
    ∧ exec .ebreak s = .next (s.trap { cause := 0x0C, tval := 0 })
    ∧ exec (.unassignedEncoding w) s = .next (s.trap { cause := 0x00, tval := w.setWidth 64 })
    ∧ ∀ x l, s.thread.pend = x :: l → s.thread.sup = false → s.thread.wait = none →
        (s.pos s.cur.dev s.cur.vcn s.cur.pos).st = .running →
        ∃ t, exec .asynchronousTrap s = .next t ∧ t.thread.pend = l ∧ t.thread.tepc = s.thread.pc ∧ t.thread.sup = true
          ∧ t.thread.tstat.getLsbD 62 = true
          ∧ (match x with
            | .postrefuse _ i n => t.thread.tcause = 0x06 ∧ t.thread.tval = BitVec.ofNat 64 i ∧ t.thread.tstat.getLsbD 61 = false
                ∧ t.thread.tstat.extractLsb' 0 8 = BitVec.ofNat 8 n
            | .splitNack va n => t.thread.tcause = 0x05 ∧ t.thread.tval = va.extractLsb' 0 64 ∧ t.thread.tstat.getLsbD 61 = true
                ∧ t.thread.tstat.extractLsb' 0 8 = BitVec.ofNat 8 n ∧ t.thread.tstat.extractLsb' 40 8 = va.extractLsb' 64 8)

/-- TRAPRET at supervisor level (R315): the level comes back from tstat.PL and the pc from tepc; registers, memory and the other
contexts stay. At task level it traps ILLEGAL. -/
def Piece.TrapReturn : Prop :=
  ∀ (s : State),
    (s.thread.sup = true → s.thread.tepc.toNat % 4 = 0 →
      ∃ t, exec .trapret s = .next t ∧ t.thread.pc = s.thread.tepc ∧ t.thread.sup = s.thread.tstat.getLsbD 63
        ∧ SameRegs (fun _ => false) s.thread t.thread ∧ SameCtxCsrs s.thread t.thread ∧ t.thread.tstat = s.thread.tstat
        ∧ SameMemory s t ∧ SameElsewhere s t)
    ∧ (s.thread.sup = true → s.thread.tepc.toNat % 4 ≠ 0 →
        exec .trapret s = .next (s.trap { cause := 0x02, tval := s.thread.tepc }))
    ∧ (s.thread.sup = false → exec .trapret s = .next s.illegal)

/-- The instructions that only the supervisor may execute trap ILLEGAL, with the instruction word in tval, at task level, before
any other effect or check (R57, R318, R321, R322, R326, R39). -/
def Piece.SupervisorOnly : Prop :=
  ∀ (s : State) (i : Instr), s.thread.sup = false →
    (match i with
      | .ctxsave _ _ _ | .jread _ _ _ | .jretire _ _ _ | .ctxload _ _ | .migrc _ _ _ | .tlbi _ _ _ _ | .scrub _ _ | .trapret => True
      | _ => False) →
    exec i s = .next (s.trap { cause := 0x00, tval := s.word })

/-! ## Control and status registers (R51 to R54, R76, R230, R253, R255, R262) -/

/-- The six CSR forms on a writable CSR without a row of its own (R51, R52): rd receives the old value, and the new one is
stored; with a zero mask RS and RC write nothing and may read a read-only CSR. -/
def Piece.CsrReadWrite : Prop :=
  ∀ (s : State) (rd rs1 : Reg) (m : BitVec 5) (n : BitVec 12), s.fullAll [.x rs1, .x rd] → n ∈ [0x800#12, 0x801#12, 0x802#12, 0x803#12] →
    (let k : Nat := n.toNat - 0x800
     let old := s.csrRead n
     let a := s.thread.getX rs1
     let z : Word := m.setWidth 64
     let put := fun (w : Word) => (Host.Outcome.next
       (((s.onThread fun c => { c with aw := c.aw.setIfInBounds k (w.extractLsb' 0 8) }).setX rd old).retire) : Out)
     exec (.csrrw rd rs1 n) s = put a ∧ exec (.csrrs rd rs1 n) s = put (old ||| a) ∧ exec (.csrrc rd rs1 n) s = put (old &&& ~~~a)
     ∧ exec (.csrrwi rd m n) s = put z ∧ exec (.csrrsi rd m n) s = put (old ||| z) ∧ exec (.csrrci rd m n) s = put (old &&& ~~~z))

/-- A CSR number that is not in the map, at either level; one that the level does not have (every supervisor CSR at task level);
and every form that writes a CSR that is read-only at the level (fmt, sclp and ebudget at task level, cycle and the identity
registers at any level), whatever its registers hold: all trap ILLEGAL with the instruction word in tval (R51, R52). -/
def Piece.CsrPrivilege : Prop :=
  ∀ (s : State) (rd rs1 : Reg) (m : BitVec 5) (n : BitVec 12),
    (let k := n.toNat
     let bad := fun (i : Instr) => exec i s = .next (s.trap { cause := 0x00, tval := s.word })
     let any := 0x800 ≤ k ∧ k ≤ 0x80C ∨ k = 0xC00 ∨ 0xCC0 ≤ k ∧ k ≤ 0xCC7
     let super := 0x5C0 ≤ k ∧ k ≤ 0x5D1
     let readOnly := k = 0xC00 ∨ 0xCC0 ≤ k ∧ k ≤ 0xCC7 ∨ s.thread.sup = false ∧ 0x804 ≤ k ∧ k ≤ 0x806
     (¬ any → (super → s.thread.sup = false) →
       bad (.csrrw rd rs1 n) ∧ bad (.csrrs rd rs1 n) ∧ bad (.csrrc rd rs1 n) ∧ bad (.csrrwi rd m n) ∧ bad (.csrrsi rd m n)
       ∧ bad (.csrrci rd m n))
     ∧ (readOnly → bad (.csrrw rd rs1 n) ∧ bad (.csrrwi rd m n)
       ∧ (rs1 ≠ 0 → bad (.csrrs rd rs1 n) ∧ bad (.csrrc rd rs1 n)) ∧ (m ≠ 0 → bad (.csrrsi rd m n) ∧ bad (.csrrci rd m n))))

/-- The set and clear forms with x0 or a zero immediate write no CSR, so they also complete on one that is read-only at the level:
rd receives the value read, which is 0 for xempty and vempty, and nothing else changes (R51, R54). vflags and mcnt wait for the
thread's queued work (R202, R243). -/
def Piece.CsrZeroMask : Prop :=
  ∀ (s : State) (rd : Reg) (n : BitVec 12), s.fullAll [.x rd] → s.busy s.cur.dev s.cur.vcn s.cur.cid = false →
    (let k := n.toNat
     0x800 ≤ k ∧ k ≤ 0x80C ∨ k = 0xC00 ∨ 0xCC0 ≤ k ∧ k ≤ 0xCC7 ∨ s.thread.sup = true ∧ 0x5C0 ≤ k ∧ k ≤ 0x5D1) →
    (let reads := (Host.Outcome.next ((s.setX rd (s.csrRead n)).retire) : Out)
     exec (.csrrs rd 0 n) s = reads ∧ exec (.csrrc rd 0 n) s = reads ∧ exec (.csrrsi rd 0 n) s = reads ∧ exec (.csrrci rd 0 n) s = reads)

/-- The read-only registers read what they name (R52): cycle, gvt (the time of the device's GVT key), vtime, vcn, bpos, devid, tenant,
chan and prio; xempty and vempty read 0. -/
def Piece.CsrIdentity : Prop :=
  ∀ (s : State), s.csrRead 0xC00 = BitVec.ofNat 64 s.device.cycle ∧ s.csrRead 0xCC2 = BitVec.ofNat 64 s.cur.vcn
    ∧ s.csrRead 0xCC0 = BitVec.ofNat 64 (s.device.gvtKey / 2 ^ 64) ∧ s.csrRead 0xCC1 = s.thread.vtime
    ∧ s.csrRead 0xCC3 = BitVec.ofNat 64 s.cur.pos ∧ s.csrRead 0xCC4 = BitVec.ofNat 64 s.cur.dev
    ∧ s.csrRead 0xCC5 = s.thread.tenant.setWidth 64 ∧ s.csrRead 0xCC6 = s.thread.chan.setWidth 64
    ∧ s.csrRead 0xCC7 = s.thread.prio.setWidth 64 ∧ s.csrRead 0x80B = 0 ∧ s.csrRead 0x80C = 0

/-- The CSR writes that have rows of their own: a kmcfg write stores the register and empties the key map, and one that would
enable a map that does not fit traps ILLEGAL and changes nothing (R76); ctxbase, gvtper, deqbase and inbase store their fields
and trap ILLEGAL out of range (R253, R262). -/
def Piece.CoreCsrWrites : Prop :=
  ∀ (s : State) (v : Word),
    (let illegal := (Host.Outcome.next (s.trap { cause := 0x00, tval := v }) : Out)
     let n := (v.extractLsb' 0 8).toNat + 1
     let z := 256 * ((v.extractLsb' 8 7).toNat + 1)
     let b := 256 * (v.extractLsb' 16 10).toNat
     let fits := 16 ≤ n ∧ n * z ≤ 196608 ∧ b + n * z ≤ 262144
     let cap := 1 ≤ (v.extractLsb' 0 9).toNat ∧ (v.extractLsb' 0 9).toNat ≤ 256
     let per := 2 ≤ (v.extractLsb' 0 7).toNat ∧ (v.extractLsb' 0 7).toNat ≤ 64
     (v.getLsbD 63 = false ∨ fits →
       exec (.kmcfgWrite v) s = .next (s.onCore fun c => { c with kmcfg := v &&& 0x8000000003FF7FFF#64, kmap := [] }))
     ∧ (v.getLsbD 63 = true ∧ ¬ fits → exec (.kmcfgWrite v) s = illegal)
     ∧ exec (.ctxbaseWrite v) s = .next (s.onCore fun c => { c with ctxbase := v &&& ~~~0xFFFF#64, noEvict := [] })
     ∧ (per → exec (.gvtperWrite v) s = .next (s.onCore fun c => { c with gvtper := v &&& 0x7F#64 }))
     ∧ (¬ per → exec (.gvtperWrite v) s = illegal)
     ∧ (cap → exec (.deqbaseWrite v) s = .next (s.onCore fun c => { c with deqbase := v &&& 0x1FF#64 })
         ∧ exec (.inbaseWrite v) s = .next (s.onCore fun c => { c with inbase := v &&& 0x1FF#64 }))
     ∧ (¬ cap → exec (.deqbaseWrite v) s = illegal ∧ exec (.inbaseWrite v) s = illegal))

/-- Writes of xempty and vempty (R54): with no fill held, the registers that the value names become empty, the others keep their
bits, and no value changes; x0 and m0 cannot be made empty. -/
def Piece.EmptyWrites : Prop :=
  ∀ (s : State) (v : Word), s.thread.held = [] → (∀ o, s.thread.full o = true) →
    (∃ t, exec (.xemptyWrite v) s = .next t ∧ (∀ r : Reg, t.thread.fullX r = (r == 0#5 || !v.getLsbD r.toNat))
      ∧ (∀ r, t.thread.getX r = s.thread.getX r) ∧ t.thread.vf = s.thread.vf ∧ t.thread.mf = s.thread.mf)
    ∧ (∃ t, exec (.vemptyWrite v) s = .next t ∧ (∀ r : VReg, t.thread.fullV r = !v.getLsbD r.toNat)
      ∧ (∀ r : MReg, t.thread.fullM r = (r == 0#2 || !v.getLsbD (16 + r.toNat)))
      ∧ (∀ r, t.thread.getV r = s.thread.getV r) ∧ (∀ r, t.thread.getM r = s.thread.getM r) ∧ t.thread.xf = s.thread.xf)

/-- CSRRW at supervisor level on each CSR that has no row of its own (R51, R52): rd receives the old value, reserved bits of the
new one are dropped, the value then reads back, and memory stays. vflags and mcnt wait for the thread's queued work (R202, R243). -/
def Piece.CsrMasks : Prop :=
  ∀ (s : State) (rd rs1 : Reg) (n : BitVec 12) (mask : Word), s.fullAll [.x rs1, .x rd] → s.thread.sup = true →
    s.busy s.cur.dev s.cur.vcn s.cur.cid = false →
    (n, mask) ∈ [(0x800#12, 0xFF#64), (0x801#12, 0xFF#64), (0x802#12, 0xFF#64), (0x803#12, 0xFF#64), (0x804#12, 0x0F1FFFFF#64),
      (0x805#12, 0x0003FFFF0003FFFF#64), (0x806#12, 0xFFFFFFFF#64), (0x807#12, 0x1F#64), (0x808#12, 1#64),
      (0x809#12, 0xFFFFFFFFFFFFFFFF#64), (0x80A#12, 0xFFFF#64), (0x5C0#12, 0xFFFFFFFFFC#64), (0x5C1#12, 0xFF#64),
      (0x5C2#12, 0xFFFFFFFFFFFFFFFF#64), (0x5C3#12, 0xFFFFFFFFFFFFFFFF#64), (0x5C4#12, 0xE000FFFF000000FF#64),
      (0x5C5#12, 0xFFFFFFFFFFFFFFFF#64), (0x5C9#12, 0xFFFFFFFF#64), (0x5CA#12, 0xFFFFFFFF#64), (0x5CB#12, 0x1F#64),
      (0x5CD#12, 0xFFFFFFFF#64), (0x5D1#12, 0xFF#64)] →
    ∃ t, exec (.csrrw rd rs1 n) s = .next t ∧ t.csrRead n = s.thread.getX rs1 &&& mask
      ∧ t.thread.getX rd = (if rd = 0#5 then 0 else s.csrRead n) ∧ t.thread.pc = s.thread.pc + 4 ∧ SameMemory s t
      ∧ SameRegs (fun o => o == .x rd) s.thread t.thread

/-- Jumps and branches (R55, R191, R193): where they go, what they write, and when they trap. -/
def Obligations.ControlTransfers : Prop :=
  Piece.JumpResults ∧ Piece.BranchResults ∧ Piece.MisalignedTargets

/-- The return from a trap, and what only the supervisor may execute (R57, R315, R318, R321, R322, R326, R39). -/
def Obligations.SupervisorLevel : Prop :=
  Piece.TrapReturn ∧ Piece.SupervisorOnly

/-- The six CSR instructions (R51, R52): values, identity registers, levels, and the bits that each register holds. -/
def Obligations.CsrInstructions : Prop :=
  Piece.CsrReadWrite ∧ Piece.CsrIdentity ∧ Piece.CsrPrivilege ∧ Piece.CsrZeroMask ∧ Piece.CsrMasks

/-! ## Memory (R95 to R109, R192 to R194) -/

/-- Loads of the own core's local storage (R95, R100, R102, R192): the bytes at the place, extended as the width says, go to rd,
and nothing else changes. The standard forms address {aw0, x[rs1] + imm}, the custom ones {awN, x[rs1]}. -/
def Obligations.LoadResults : Prop :=
  ∀ (s : State) (rd rs1 xp : Reg) (i : BitVec 12) (w : BitVec 2) (sc : Scope) (t : Target) (n : Nat), s.atRest → s.seated →
    (let c := s.thread
     let va0 : VA := c.aw[0] ++ (c.getX rs1 + i.signExtend 64)
     let vaw : VA := (c.aw[w.toNat]'w.isLt) ++ c.getX rs1
     let own := fun (va : VA) (n : Nat) => s.ownPlace va .read n t ∧ s.poisoned t.loc n = false
     let v := s.readMem t.loc n
     let gives := fun (i : Instr) (x : Word) => ∃ u, exec i s = .next u ∧ u.thread.getX rd = (if rd = 0#5 then 0 else x)
       ∧ u.thread.pc = c.pc + 4 ∧ SameRegs (fun o => o == .x rd) c u.thread ∧ SameCtxCsrs c u.thread
       ∧ SameTrapCsrs c u.thread ∧ SameMemory s u ∧ SameElsewhere s u
     (s.fullAll [.x rs1, .x rd] → own va0 n →
       (n = 1 → gives (.lb rd rs1 i) ((BitVec.ofNat 8 v).signExtend 64) ∧ gives (.lbu rd rs1 i) ((BitVec.ofNat 8 v).setWidth 64))
       ∧ (n = 2 → gives (.lh rd rs1 i) ((BitVec.ofNat 16 v).signExtend 64) ∧ gives (.lhu rd rs1 i) ((BitVec.ofNat 16 v).setWidth 64))
       ∧ (n = 4 → gives (.lw rd rs1 i) ((BitVec.ofNat 32 v).signExtend 64) ∧ gives (.lwu rd rs1 i) ((BitVec.ofNat 32 v).setWidth 64))
       ∧ (n = 8 → gives (.ld rd rs1 i) (BitVec.ofNat 64 v)))
     ∧ (s.fullAll [.x rs1, .x xp, .x rd] → (xp = 0#5 ∨ c.getX xp = BitVec.ofNat 64 s.cur.dev) → s.cur.dev < 2 ^ 12 → own vaw n →
       (n = 1 → gives (.xld .b w xp rs1 rd) ((BitVec.ofNat 8 v).signExtend 64) ∧ gives (.xld .bu w xp rs1 rd) ((BitVec.ofNat 8 v).setWidth 64))
       ∧ (n = 2 → gives (.xld .h w xp rs1 rd) ((BitVec.ofNat 16 v).signExtend 64)
           ∧ gives (.xld .hu w xp rs1 rd) ((BitVec.ofNat 16 v).setWidth 64))
       ∧ (n = 4 → gives (.xld .w w xp rs1 rd) ((BitVec.ofNat 32 v).signExtend 64)
           ∧ gives (.xld .wu w xp rs1 rd) ((BitVec.ofNat 32 v).setWidth 64))
       ∧ (n = 8 → gives (.xld .d w xp rs1 rd) (BitVec.ofNat 64 v) ∧ gives (.ldaq sc w xp rs1 rd) (BitVec.ofNat 64 v))))

/-- The state after a store of the low n bytes of v at a place, and the retirement of the instruction: those bytes change and no
other; no F/E bit changes; registers and CSRs stay. -/
def storedBytes (s u : State) (l n : Nat) (v : Word) : Prop :=
  (∀ k < n, u.byteAt (l + k) = v.extractLsb' (8 * k) 8) ∧ (∀ a, a < l ∨ l + n ≤ a → u.byteAt a = s.byteAt a)
  ∧ u.thread.pc = s.thread.pc + 4 ∧ SameRegs (fun _ => false) s.thread u.thread
  ∧ SameCtxCsrs s.thread u.thread ∧ SameTrapCsrs s.thread u.thread ∧ SameElsewhere s u

/-- Stores to the own core's local storage, by a context that is not a revocable ordered task (R95, R100, R102, R192): the low
bytes of the data, little-endian, are at the place that the VA names; every other byte, every F/E bit and every register stays. -/
def Obligations.StoreResults : Prop :=
  ∀ (s : State) (rd rs1 rs2 xp : Reg) (i : BitVec 12) (w : BitVec 2) (sc : Scope) (t : Target) (n : Nat),
    s.quiet → s.noWaiterAt t.loc →
    (let c := s.thread
     let va0 : VA := c.aw[0] ++ (c.getX rs1 + i.signExtend 64)
     let vaw : VA := (c.aw[w.toNat]'w.isLt) ++ c.getX rs1
     let gives := fun (i : Instr) (n : Nat) (v : Word) => ∃ u, exec i s = .next u ∧ storedBytes s u t.loc n v ∧ ∀ a, u.full a = s.full a
     (s.fullAll [.x rs1, .x rs2] → s.ownPlace va0 .write n t →
       (n = 1 → gives (.sb rs2 rs1 i) 1 (c.getX rs2)) ∧ (n = 2 → gives (.sh rs2 rs1 i) 2 (c.getX rs2))
       ∧ (n = 4 → gives (.sw rs2 rs1 i) 4 (c.getX rs2)) ∧ (n = 8 → gives (.sd rs2 rs1 i) 8 (c.getX rs2)))
     ∧ (s.fullAll [.x rs1, .x xp, .x rd] → xp = 0#5 → s.ownPlace vaw .write n t →
       (n = 1 → gives (.xst .b w xp rs1 rd) 1 (c.getX rd)) ∧ (n = 2 → gives (.xst .h w xp rs1 rd) 2 (c.getX rd))
       ∧ (n = 4 → gives (.xst .w w xp rs1 rd) 4 (c.getX rd)) ∧ (n = 8 → gives (.xst .d w xp rs1 rd) 8 (c.getX rd)
       ∧ gives (.strl sc w xp rs1 rd) 8 (c.getX rd))))

/-- The full/empty forms on the own core's local storage (R103, R105): LDFF and LDFE read a full word, LDFE empties it, STFF
fills it whatever its state, STEF fills an empty one, FEMARK sets the bit to x[rd][0] and FESTAT reads it. -/
def Piece.FullEmptyResults : Prop :=
  ∀ (s : State) (rd rs1 xp : Reg) (w : BitVec 2) (sc : Scope) (t : Target),
    s.quiet → s.noWaiterAt t.loc → s.fullAll [.x rs1, .x xp, .x rd] → xp = 0#5 → s.poisoned t.loc 8 = false →
    (let c := s.thread
     let va : VA := (c.aw[w.toNat]'w.isLt) ++ c.getX rs1
     let m := wordOf t.loc
     let put := fun (u : State) (x : Word) => u.thread.getX rd = (if rd = 0#5 then 0 else x) ∧ u.thread.pc = c.pc + 4
       ∧ SameRegs (fun o => o == .x rd) c u.thread ∧ ∀ a, u.byteAt a = s.byteAt a
     let bits := fun (u : State) (b : Bool) => ∀ a, u.full a = if wordOf a = m then b else s.full a
     (s.ownPlace va .ldff 8 t → s.full t.loc = true →
       ∃ u, exec (.ldff sc w xp rs1 rd) s = .next u ∧ put u (s.readWord t.loc) ∧ bits u true)
     ∧ (s.ownPlace va .ldfe 8 t → s.full t.loc = true →
       ∃ u, exec (.ldfe sc w xp rs1 rd) s = .next u ∧ put u (s.readWord t.loc) ∧ bits u false)
     ∧ (s.ownPlace va .sync 8 t →
       (∃ u, exec (.stff sc w xp rs1 rd) s = .next u ∧ storedBytes s u t.loc 8 (c.getX rd) ∧ bits u true)
       ∧ (s.full t.loc = false → ∃ u, exec (.stef sc w xp rs1 rd) s = .next u ∧ storedBytes s u t.loc 8 (c.getX rd) ∧ bits u true)
       ∧ (∃ u, exec (.femark sc w xp rs1 rd) s = .next u ∧ bits u ((c.getX rd).getLsbD 0) ∧ (∀ a, u.byteAt a = s.byteAt a)
           ∧ u.thread.pc = c.pc + 4 ∧ SameRegs (fun _ => false) c u.thread))
     ∧ (s.ownPlace va .readOnly 8 t → ∃ u, exec (.festat w xp rs1 rd) s = .next u
         ∧ put u (if t.feOk then (if s.full t.loc then 1 else 0) else 3) ∧ SameMemory s u))

/-- LDFF and LDFE of an empty word, and STEF of a full one, park the thread as the last of the word's list, and change no
register and no memory (R103, R104). -/
def Piece.FullEmptyParks : Prop :=
  ∀ (s : State) (rd rs1 xp : Reg) (w : BitVec 2) (sc : Scope) (t : Target),
    s.quiet → s.fullAll [.x rs1, .x xp, .x rd] → xp = 0#5 → s.poisoned t.loc 8 = false →
    (let c := s.thread
     let va : VA := (c.aw[w.toNat]'w.isLt) ++ c.getX rs1
     ∀ i ∈ [(Instr.ldff sc w xp rs1 rd, Perm.ldff, false), (.ldfe sc w xp rs1 rd, .ldfe, false), (.stef sc w xp rs1 rd, .sync, true)],
       s.ownPlace va i.2.1 8 t → s.full t.loc = i.2.2 → ∃ u x, exec i.1 s = .next u ∧ SameMemory s u
         ∧ u.pos s.cur.dev s.cur.vcn s.cur.pos = ⟨.parked, s.cur.cid⟩ ∧ u.thread.pc = c.pc ∧ SameRegs (fun _ => false) c u.thread
         ∧ u.waiters = s.waiters ++ [x] ∧ x.req.loc = some t.loc ∧ x.req.who.cid = s.cur.cid)

/-- The value that an atomic stores (R106). -/
def atomicValue (op : AmoOp) (w a b : Word) : Word :=
  match op with
  | .add => w + a
  | .and => w &&& a
  | .or => w ||| a
  | .xor => w ^^^ a
  | .min => if w.toInt ≤ a.toInt then w else a
  | .max => if w.toInt ≤ a.toInt then a else w
  | .minu => if w.toNat ≤ a.toNat then w else a
  | .maxu => if w.toNat ≤ a.toNat then a else w
  | .swap => a
  | .cas | .cas2 => if w = a then b else w

/-- AMOs on the own core's local storage (R106): rd receives the old value, and the word the new one; CAS stores x[rd + 1] when
the word equals x[rd]. CAS2 compares and writes two dwords and returns both in rd and rd + 1. -/
def Piece.AtomicResults : Prop :=
  ∀ (s : State) (rd rs1 xp : Reg) (w : BitVec 2) (ar : Bool) (t : Target),
    s.quiet → s.noWaiterAt t.loc → s.noWaiterAt (t.loc + 8) → (∀ o, s.thread.full o = true) → xp = 0#5 → s.poisoned t.loc 16 = false →
    (let c := s.thread
     let va : VA := (c.aw[w.toNat]'w.isLt) ++ c.getX rs1
     let old := s.readWord t.loc
     let gives := fun (i : Instr) (op : AmoOp) => ∃ u, exec i s = .next u ∧ u.readWord t.loc = atomicValue op old (c.getX rd) (c.getX (rd + 1))
       ∧ (∀ a, a < t.loc ∨ t.loc + 8 ≤ a → u.byteAt a = s.byteAt a) ∧ (∀ a, u.full a = s.full a)
       ∧ u.thread.getX rd = (if rd = 0#5 then 0 else old) ∧ u.thread.pc = c.pc + 4 ∧ SameRegs (fun o => o == .x rd) c u.thread
     (s.ownPlace va .amo 8 t →
       gives (.amoAdd ar w xp rs1 rd) .add ∧ gives (.amoAnd ar w xp rs1 rd) .and ∧ gives (.amoOr ar w xp rs1 rd) .or
       ∧ gives (.amoXor ar w xp rs1 rd) .xor ∧ gives (.amoMin ar w xp rs1 rd) .min ∧ gives (.amoMax ar w xp rs1 rd) .max
       ∧ gives (.amoMinU ar w xp rs1 rd) .minu ∧ gives (.amoMaxU ar w xp rs1 rd) .maxu ∧ gives (.amoSwap ar w xp rs1 rd) .swap
       ∧ (rd ≠ 0#5 → rd.toNat % 2 = 0 → gives (.amoCas ar w xp rs1 rd) .cas))
     ∧ (s.ownPlace va .amo 8 t → va.toNat % 16 = 0 → rd ≠ 0#5 → rd.toNat % 4 = 0 →
       ∃ u, exec (.amoCas2 ar w xp rs1 rd) s = .next u
         ∧ (let hit := old = c.getX rd ∧ s.readWord (t.loc + 8) = c.getX (rd + 1)
            u.readWord t.loc = (if hit then c.getX (rd + 2) else old)
            ∧ u.readWord (t.loc + 8) = (if hit then c.getX (rd + 3) else s.readWord (t.loc + 8)))
         ∧ (∀ a, a < t.loc ∨ t.loc + 16 ≤ a → u.byteAt a = s.byteAt a)
         ∧ u.thread.getX rd = old ∧ u.thread.getX (rd + 1) = s.readWord (t.loc + 8) ∧ u.thread.pc = c.pc + 4
         ∧ SameRegs (fun o => o == .x rd || o == .x (rd + 1)) c u.thread))

/-- The register group of CAS must be an even pair and that of CAS2 a quad, neither starting at x0: otherwise REGGROUP with the
instruction word in tval (R50, R106). -/
def Piece.AtomicGroups : Prop :=
  ∀ (s : State) (rd rs1 xp : Reg) (w : BitVec 2) (ar : Bool), s.thread.revocable = false →
    (rd = 0#5 ∨ rd.toNat % 2 ≠ 0 → exec (.amoCas ar w xp rs1 rd) s = .next (s.trap { cause := 0x01, tval := s.word }))
    ∧ (rd = 0#5 ∨ rd.toNat % 4 ≠ 0 → exec (.amoCas2 ar w xp rs1 rd) s = .next (s.trap { cause := 0x01, tval := s.word }))

/-- REDs on the own core's local storage (R107): the word receives the new value, and no register changes. -/
def Piece.ReductionResults : Prop :=
  ∀ (s : State) (rd rs1 xp : Reg) (w : BitVec 2) (t : Target),
    s.quiet → s.noWaiterAt t.loc → s.fullAll [.x rs1, .x xp, .x rd] → xp = 0#5 →
    (let c := s.thread
     let va : VA := (c.aw[w.toNat]'w.isLt) ++ c.getX rs1
     let gives := fun (i : Instr) (op : AmoOp) => ∃ u, exec i s = .next u ∧ u.readWord t.loc = atomicValue op (s.readWord t.loc) (c.getX rd) 0
       ∧ (∀ a, a < t.loc ∨ t.loc + 8 ≤ a → u.byteAt a = s.byteAt a) ∧ (∀ a, u.full a = s.full a)
       ∧ u.thread.pc = c.pc + 4 ∧ SameRegs (fun _ => false) c u.thread ∧ SameElsewhere s u
     s.ownPlace va .amo 8 t →
       gives (.redAdd w xp rs1 rd) .add ∧ gives (.redAnd w xp rs1 rd) .and ∧ gives (.redOr w xp rs1 rd) .or ∧ gives (.redXor w xp rs1 rd) .xor
       ∧ gives (.redMin w xp rs1 rd) .min ∧ gives (.redMax w xp rs1 rd) .max ∧ gives (.redMinU w xp rs1 rd) .minu
       ∧ gives (.redMaxU w xp rs1 rd) .maxu)

/-- A posted access whose home is not the own core (R97): an ordinary store of each width, STRL, STFF, FEMARK and each RED. It takes
the lowest free journal entry, which keeps KIND, OP, WIDTH, SCOPE and the data (R314), and leaves as one request that carries the
access with its data to the place that the VA names; the thread goes on, and no byte changes until the home performs it. With a
full journal the thread parks and changes nothing. -/
def Obligations.PostedStores : Prop :=
  ∀ (s : State) (rd rs1 xp : Reg) (w : BitVec 2) (sc : Scope) (t : Target),
    s.atRest → s.thread.revocable = false → s.fullAll [.x rs1, .x xp, .x rd] → xp = 0#5 →
    (let va : VA := (s.thread.aw[w.toNat]'w.isLt) ++ s.thread.getX rs1
     let d := s.thread.getX rd
     let code : Nat := match sc with | .th => 0 | .co => 1 | .cl => 2 | .dv => 3 | .dm => 4 | .sy => 5
     let posts := fun (i : Instr) (p : Perm) (n kind op width scope : Nat) (a : Acc) => s.farPlace va p n t →
       (∀ k, s.here.freeEntry = some k → ∃ u e r, exec i s = .next u ∧ Table.find u.here.journal k = some e ∧ e.kind = kind
           ∧ e.op = op ∧ e.width = width ∧ e.scope = scope ∧ e.data = d ∧ e.cid = s.cur.cid ∧ e.va = va ∧ e.ref = none
           ∧ u.net = s.net ++ [.req r] ∧ r.who = s.issuer ∧ r.va = va ∧ r.loc = some t.loc ∧ r.acc = a ∧ r.route = .journal k
           ∧ u.thread.pc = s.thread.pc + 4 ∧ SameRegs (fun _ => false) s.thread u.thread ∧ SameMemory s u)
       ∧ (s.here.freeEntry = none → exec i s = .next (s.park .journal))
     let red := fun (i : Instr) (op : AmoOp) (n : Nat) => posts i .amo 8 4 n 3 0 (.red op d)
     posts (.xst .b w xp rs1 rd) .write 1 0 0 0 0 (.store 1 d) ∧ posts (.xst .h w xp rs1 rd) .write 2 0 0 1 0 (.store 2 d)
     ∧ posts (.xst .w w xp rs1 rd) .write 4 0 0 2 0 (.store 4 d) ∧ posts (.xst .d w xp rs1 rd) .write 8 0 0 3 0 (.store 8 d)
     ∧ posts (.strl sc w xp rs1 rd) .write 8 1 0 3 code (.store 8 d) ∧ posts (.stff sc w xp rs1 rd) .sync 8 2 0 3 code (.stff d)
     ∧ posts (.femark sc w xp rs1 rd) .sync 8 3 0 3 code (.femark (d.getLsbD 0))
     ∧ red (.redAdd w xp rs1 rd) .add 0 ∧ red (.redAnd w xp rs1 rd) .and 1 ∧ red (.redOr w xp rs1 rd) .or 2
     ∧ red (.redXor w xp rs1 rd) .xor 3 ∧ red (.redMin w xp rs1 rd) .min 4 ∧ red (.redMax w xp rs1 rd) .max 5
     ∧ red (.redMinU w xp rs1 rd) .minu 6 ∧ red (.redMaxU w xp rs1 rd) .maxu 7)

/-- A fence completes when nothing that it waits for is outstanding (R109, R194), and waits while an in-scope posted store of the
thread is unacknowledged. FENCE acts as fence.dv, and FENCE.I does so and drops the words fetched ahead; the set stores lets
the thread go on and holds its later stores. -/
def Obligations.FenceResults : Prop :=
  ∀ (s : State) (sc : Scope) (fm p q : BitVec 4), s.thread.split = none →
    (s.unacked sc = false → exec (.fenceS sc) s = .next s.retire)
    ∧ (s.unacked sc = true → exec (.fenceS sc) s = .next (s.park (.acks sc)))
    ∧ (s.unacked .dv = false → exec (.fence fm p q) s = .next s.retire
        ∧ exec .fenceI s = .next (s.retire.onThread fun c => { c with ahead := [] }))
    ∧ exec (.fenceSLd sc) s = .next s.retire
    ∧ (s.thread.storeFence = none →
        exec (.fenceSSt sc) s = .next (s.onThread fun c => { c with storeFence := some sc }).retire)

/-- The full/empty forms (R103 to R105): their results, and the threads that they park. -/
def Obligations.FullEmptyForms : Prop :=
  Piece.FullEmptyResults ∧ Piece.FullEmptyParks

/-- Atomics and reductions (R50, R106, R107). -/
def Obligations.AtomicForms : Prop :=
  Piece.AtomicResults ∧ Piece.AtomicGroups ∧ Piece.ReductionResults

/-! ## The key-to-slot map (R75 to R91) -/

/-- A result word of a map operation (R80): MISS [63], STATE [62:61], CODE [55:48], PIN [15:8], SLOT [7:0]. -/
def mapWord (miss st code pin slot : Nat) : Word :=
  BitVec.ofNat 64 (miss * 2 ^ 63 + st * 2 ^ 61 + code * 2 ^ 48 + pin * 2 ^ 8 + slot)

/-- Lookups (R82): a bound key answers its state, pin count and slot, and KLOOKP raises the pin; an unbound key is a miss. KLOOKW
parks while the key is bound PENDING and otherwise does as KLOOK. With the map disabled each traps ILLEGAL, unless it passed that test
before a wait (R81). -/
def Piece.MapLookups : Prop :=
  ∀ (s : State) (rd rs1 : Reg), s.thread.revocable = false → s.fullAll [.x rs1, .x rd] →
    (let key := s.thread.getX rs1
     let put := fun (u : State) (x : Word) => (Host.Outcome.next ((u.setX rd x).retire) : Out)
     (s.here.kmcfg.getLsbD 63 = false → s.thread.enTested = false → ∀ i ∈ [Instr.klook rd rs1, .klookp rd rs1, .klookw rd rs1],
       exec i s = .next (s.trap { cause := 0x00, tval := s.word }))
     ∧ (s.here.kmcfg.getLsbD 63 = true ∨ s.thread.enTested = true → key ≠ BitVec.allOnes 64 →
       (s.here.kfind key = none →
         ∀ i ∈ [Instr.klook rd rs1, .klookp rd rs1, .klookw rd rs1], exec i s = put (s.onCore id) (mapWord 1 0 0 0 0))
       ∧ ∀ slot e, slot < 256 → s.here.kfind key = some (slot, e) → e.st ≠ .free →
         (let st := if e.st = .valid then 2 else 1
          exec (.klook rd rs1) s = put (s.onCore id) (mapWord 0 st 0 e.pin.toNat slot)
          ∧ (e.pin ≠ 255 → exec (.klookp rd rs1) s
              = put (s.onCore fun k => k.setKent slot { e with pin := e.pin + 1 }) (mapWord 0 st 0 (e.pin.toNat + 1) slot))
          ∧ (e.pin = 255 → exec (.klookp rd rs1) s = put (s.onCore id) (mapWord 0 st 6 255 slot))
          ∧ (e.st = .valid → exec (.klookw rd rs1) s = put (s.onCore id) (mapWord 0 2 0 e.pin.toNat slot))
          ∧ (e.st = .pending → exec (.klookw rd rs1) s = .next (s.park (.key key))))))

/-- Binds and slot operations (R83 to R88): a bind of an unbound key to a FREE slot makes it PENDING, with one pin for KBINDP;
KREADY makes a PENDING slot VALID; KPIN and KUNPIN count; KUNBIND frees a slot without pins; KINFO reads a slot. Each answers
code 0 with the entry after it. -/
def Piece.MapUpdates : Prop :=
  ∀ (s : State) (rd rs1 rs2 : Reg), s.quiet → s.fullAll [.x rs1, .x rs2, .x rd] →
    s.here.kmcfg.getLsbD 63 = true ∨ s.thread.enTested = true →
    (let key := s.thread.getX rs1
     let slot := (s.thread.getX rs2).toNat
     let e := s.here.kent slot
     let put := fun (u : State) (x : Word) => (Host.Outcome.next ((u.setX rd x).retire) : Out)
     let gives := fun (e' : KEntry) (st : Nat) => put (s.onCore fun k => k.setKent slot e') (mapWord 0 st 0 e'.pin.toNat slot)
     slot < (s.here.kmcfg.extractLsb' 0 8).toNat + 1 →
       (key ≠ BitVec.allOnes 64 → s.here.kfind key = none → e.st = .free →
         exec (.kbind rd rs1 rs2) s = gives ⟨key, .pending, 0⟩ 1 ∧ exec (.kbindp rd rs1 rs2) s = gives ⟨key, .pending, 1⟩ 1)
       ∧ (e.st = .pending → exec (.kready rd rs2) s = gives { e with st := .valid } 2)
       ∧ (∀ st, e.st ≠ .free → st = (if e.st = .valid then 2 else 1) →
           (e.pin ≠ 255 → exec (.kpin rd rs2) s = gives { e with pin := e.pin + 1 } st)
           ∧ (e.pin ≠ 0 → exec (.kunpin rd rs2) s = gives { e with pin := e.pin - 1 } st)
           ∧ (slot < 256 → exec (.kinfo rd rs2) s = put (s.onCore id) (mapWord 0 st 0 e.pin.toNat slot)))
       ∧ (e.st ≠ .free → e.pin = 0 → exec (.kunbind rd rs2) s = gives KEntry.free 0))

/-- The ring-window index (R89 to R91): a position below SINKS has a sink entry, and KVIX and KVIXA answer the offset after its
header place; for a ring entry KVIXA stores the header, and KVIX answers the offset when the header stored there is the
position's, else 0. -/
def Obligations.RingWindow : Prop :=
  ∀ (s : State) (rd rs1 rs2 : Reg), s.quiet → s.fullAll [.x rs1, .x rs2, .x rd] →
    s.here.kmcfg.getLsbD 63 = true ∨ s.thread.enTested = true →
    (let pos := (s.thread.getX rs1).toNat
     let d := s.thread.getX rs2
     let base := (d.extractLsb' 0 18).toNat
     let sinks := (d.extractLsb' 18 14).toNat
     let ring := (d.extractLsb' 32 16).toNat
     let size := 8 * (d.extractLsb' 48 8).toNat
     let at_ := if pos < sinks then base + size * pos else base + size * (sinks + (pos - sinks) % ring)
     let hdr : Word := BitVec.ofNat 64 (2 ^ 63 + (pos - sinks) / ring)
     let l := lsLoc s.cur.dev s.cur.vcn at_
     d.extractLsb' 56 8 = 0#8 → base % 8 = 0 → ring ≠ 0 → 16 ≤ size → pos < 2 ^ 63 → at_ + size ≤ 0x40000 →
       (pos < sinks → exec (.kvix rd rs1 rs2) s = .next (s.setX rd (BitVec.ofNat 64 (at_ + 8))).retire
         ∧ exec (.kvixa rd rs1 rs2) s = .next (s.setX rd (BitVec.ofNat 64 (at_ + 8))).retire)
       ∧ (sinks ≤ pos → s.poisoned l 8 = false →
         exec (.kvix rd rs1 rs2) s = .next (s.setX rd (if s.readWord l = hdr then BitVec.ofNat 64 (at_ + 8) else 0)).retire)
       ∧ (sinks ≤ pos → s.noWaiterAt l → s.cur.dev < 2 ^ 30 → s.cur.vcn < 8192 →
         ∃ u, exec (.kvixa rd rs1 rs2) s = .next u ∧ u.readWord l = hdr ∧ (∀ a, a < l ∨ l + 8 ≤ a → u.byteAt a = s.byteAt a)
           ∧ u.thread.getX rd = (if rd = 0#5 then 0 else BitVec.ofNat 64 (at_ + 8)) ∧ u.thread.pc = s.thread.pc + 4))

/-! ## Tasks (R263 to R278) -/

/-- The target word x[rs1] names a core of the own device or of a peer, or an idle core, and a channel (R264). -/
def wellTargeted (t : Word) : Prop :=
  t.extractLsb' 32 32 = 0#32 ∧ (t.getLsbD 31 = false → t.extractLsb' 19 12 = 0#12) ∧ t.extractLsb' 13 6 ≠ 63#6
    ∧ ((t.extractLsb' 0 13).toNat < 4608 ∨ t.extractLsb' 0 13 = 0x1FFF#13)

/-- The device that a target word names (R264). -/
def targetDevice (d : Nat) (t : Word) : Nat := if t.getLsbD 31 then (t.extractLsb' 19 12).toNat else d

/-- Sends (R264), to the own device or to a peer of the domain: the record at x[rs2] leaves for the core that x[rs1] names, with the
channel, the core's SEQ and the sender in its read-only fields; d3 is 0 but for the colour of an ordered record, and of a TCALL names
the continuation. TSEND and TCALL take a journal entry and an inbox place and go on: TSEND writes the handle, TCALL empties rd
for the answer and counts a continuation. TSENDS parks on the answer. A device that is down answers NACK 6 in the record's stead
(R335). -/
def Piece.SendResults : Prop :=
  ∀ (s : State) (rd rs1 rs2 : Reg) (k : Nat), s.quiet → s.thread.sending = none → s.fullAll [.x rs1, .x rs2, .x rd] →
    s.here.freeEntry = some k → s.here.inbox.length + s.here.resv < (s.here.inbase.extractLsb' 0 9).toNat →
    (let t := s.thread.getX rs1
     let off := (s.thread.getX rs2).toNat
     let l := lsLoc s.cur.dev s.cur.vcn off
     let r := s.readRec l
     let seq := s.here.seq
     let dst := targetDevice s.cur.dev t
     let down := dst ≠ s.cur.dev ∧ dst ∈ s.device.down
     let call : Word := 0#10 ++ BitVec.ofNat 12 s.cur.dev ++ rd ++ BitVec.ofNat 24 s.cur.cid ++ BitVec.ofNat 13 s.cur.vcn
     let sent := fun (u : State) (reply : Bool) (route : Route) =>
       (down → u.net = s.net ++ [.ans (coreKey s.cur.dev gatewayVcn) s.issuer route (.nack 6)])
       ∧ (¬ down → ∃ m, u.net = s.net ++ [.record m] ∧ m.dst = dst ∧ m.vcn = (t.extractLsb' 0 13).toNat ∧ m.who = s.issuer
         ∧ m.record.d0.extractLsb' 54 6 = t.extractLsb' 13 6 ∧ m.record.d0.getLsbD 62 = reply
         ∧ m.record.d0.extractLsb' 60 2 = 0#2 ∧ m.record.d0.getLsbD 63 = false
         ∧ m.record.d0.extractLsb' 0 54 = r.d0.extractLsb' 0 54 ∧ m.record.d1 = r.d1
         ∧ m.record.d2 = seq ++ BitVec.ofNat 12 s.cur.dev ++ BitVec.ofNat 13 s.cur.vcn
         ∧ m.record.d3 &&& ~~~0x40000000000000#64 = (if reply then call else 0)
         ∧ m.record.d4 = r.d4 ∧ m.record.d5 = r.d5 ∧ m.record.d6 = r.d6 ∧ m.record.d7 = r.d7)
     wellTargeted t → (t.getLsbD 31 = true → s.inDomain s.cur.dev dst = true) → off % 64 = 0 → off + 64 ≤ 0x40000 →
     s.poisoned l 64 = false →
       (∃ u, exec (.tsend rd rs1 rs2) s = .next u ∧ sent u false (.journal k) ∧ u.here.seq = seq + 1 ∧ u.here.resv = s.here.resv + 1
         ∧ u.thread.getX rd = (if rd = 0#5 then 0 else seq ++ BitVec.ofNat 12 dst ++ t.extractLsb' 0 13)
         ∧ u.thread.pc = s.thread.pc + 4)
       ∧ (∃ u, exec (.tcall rd rs1 rs2) s = .next u ∧ sent u true (.journal k) ∧ u.here.seq = seq + 1 ∧ u.here.resv = s.here.resv + 1
         ∧ u.thread.fullX rd = (rd == 0#5) ∧ u.thread.conts = s.thread.conts + 1 ∧ u.thread.pc = s.thread.pc + 4)
       ∧ (∃ u, exec (.tsends rd rs1 rs2) s = .next u ∧ sent u false .reply ∧ u.here.seq = seq + 1 ∧ u.here.resv = s.here.resv
         ∧ u.thread.wait = some (.reply (0#8 ++ t) (.reg rd)) ∧ u.thread.pc = s.thread.pc))

/-- TSEND and TCALL with no free place in the own inbox park for one, and with no free journal entry for that; no record leaves.
SEQ is taken by then, and TCALL has emptied rd and counted its continuation, the steps before the wait in R264's order; that a send
which is issued again keeps its SEQ is the model's reading (log entry 85). -/
def Piece.SendWaits : Prop :=
  ∀ (s : State) (rd rs1 rs2 : Reg), s.quiet → s.thread.sending = none → s.fullAll [.x rs1, .x rs2, .x rd] →
    (let t := s.thread.getX rs1
     let off := (s.thread.getX rs2).toNat
     let room := s.here.inbox.length + s.here.resv < (s.here.inbase.extractLsb' 0 9).toNat
     let parks := fun (u : State) (on : WaitOn) => u.thread.wait = some (.again on s.cur.words) ∧ u.here.seq = s.here.seq + 1
       ∧ u.pos s.cur.dev s.cur.vcn s.cur.pos = ⟨.parked, s.cur.cid⟩ ∧ u.thread.pc = s.thread.pc ∧ u.net = s.net
     let both := fun (on : WaitOn) => (∃ u, exec (.tsend rd rs1 rs2) s = .next u ∧ parks u on ∧ u.thread.fullX rd = true)
       ∧ (∃ u, exec (.tcall rd rs1 rs2) s = .next u ∧ parks u on ∧ u.thread.fullX rd = (rd == 0#5)
           ∧ u.thread.conts = s.thread.conts + 1)
     wellTargeted t → off % 64 = 0 → off + 64 ≤ 0x40000 → s.poisoned (lsLoc s.cur.dev s.cur.vcn off) 64 = false →
       (¬ room → both .inbox) ∧ (room → s.here.freeEntry = none → both .journal))

/-- A record offset that is not a multiple of 64 traps MISALIGN, and one whose 64 bytes leave local storage traps ILLEGAL, with
the offset in tval (R263): the offset of every send, of the deque's forms and of FORKR. A malformed target word traps ILLEGAL
with the word in tval, and TSENDS to a device outside the domain NACK 6 (R264); DQSTEAL of a victim above 4607 traps ILLEGAL with
it (R272). -/
def Piece.RecordOffsets : Prop :=
  ∀ (s : State) (rd rs1 rs2 : Reg), s.thread.revocable = false → s.fullAll [.x rs1, .x rs2, .x rd] →
    (let x := s.thread.getX rs1
     let y := s.thread.getX rs2
     let illegal := fun (v : Word) => (Host.Outcome.next (s.trap { cause := 0x00, tval := v }) : Out)
     let traps := fun (i : Instr) (v : Word) =>
       (v.toNat % 64 ≠ 0 → exec i s = .next (s.trap { cause := 0x02, tval := v }))
       ∧ (v.toNat % 64 = 0 → 0x40000 < v.toNat + 64 → exec i s = illegal v)
     let outside := x.getLsbD 31 = true ∧ s.inDomain s.cur.dev (x.extractLsb' 19 12).toNat = false
     (s.thread.fork = none → ∀ i ∈ [Instr.dqpush rd rs1, .dqpop rd rs1, .forkr rd rs1], traps i x)
     ∧ (wellTargeted x → traps (.tsend rd rs1 rs2) y ∧ traps (.tcall rd rs1 rs2) y)
     ∧ (wellTargeted x → ¬ outside → traps (.tsends rd rs1 rs2) y)
     ∧ (wellTargeted x → outside →
         exec (.tsends rd rs1 rs2) s = .next (s.trap { cause := 0x05, tval := x, sub := 6 }))
     ∧ (¬ wellTargeted x → ∀ i ∈ [Instr.tsend rd rs1 rs2, .tsends rd rs1 rs2, .tcall rd rs1 rs2], exec i s = illegal x)
     ∧ (x.toNat ≤ 4607 → traps (.dqsteal rd rs1 rs2) y)
     ∧ (4607 < x.toNat → exec (.dqsteal rd rs1 rs2) s = illegal x))

/-- The deque (R272): a push appends the record at the bottom and answers 0, or answers 1 when CAP records are there; a pop takes
the bottom record, whose bytes go to its offset (R263), and answers 0, or answers 2 when there is none; either takes the deque's
port in its tick (R273). A push or pop whose tick the port has served already stalls (the model's choice, log entry 86). A steal
leaves for its victim with rd empty. -/
def Piece.DequeResults : Prop :=
  ∀ (s : State) (rd rs1 rs2 : Reg), s.quiet → s.fullAll [.x rs1, .x rs2, .x rd] →
    (let x := s.thread.getX rs1
     let l := lsLoc s.cur.dev s.cur.vcn x.toNat
     let put := fun (q : List Rec) (v : Word) =>
       (Host.Outcome.next (((s.onCore fun k => { k with deque := q, dqTick := some s.now }).setX rd v).retire) : Out)
     (x.toNat % 64 = 0 → x.toNat + 64 ≤ 0x40000 →
       (s.here.dqTick = some s.now →
         (s.poisoned l 64 = false → exec (.dqpush rd rs1) s = .next s.stall) ∧ exec (.dqpop rd rs1) s = .next s.stall)
       ∧ (s.here.dqTick ≠ some s.now →
         (s.poisoned l 64 = false →
           (s.here.deque.length < (s.here.deqbase.extractLsb' 0 9).toNat →
             exec (.dqpush rd rs1) s = put (s.here.deque ++ [s.readRec l]) 0)
           ∧ ((s.here.deqbase.extractLsb' 0 9).toNat ≤ s.here.deque.length → exec (.dqpush rd rs1) s = put s.here.deque 1))
         ∧ (s.here.deque = [] → exec (.dqpop rd rs1) s = put [] 2)
         ∧ (∀ q r, s.here.deque = q ++ [r] → (∀ n < 8, s.noWaiterAt (l + 8 * n)) → s.cur.dev < 2 ^ 30 → s.cur.vcn < 8192 →
           ∃ u, exec (.dqpop rd rs1) s = .next u ∧ u.here.deque = q ∧ u.here.dqTick = some s.now
             ∧ (∀ n < 8, u.readWord (l + 8 * n) = r.words.getD n 0) ∧ (∀ a, a < l ∨ l + 64 ≤ a → u.byteAt a = s.byteAt a)
             ∧ u.thread.getX rd = 0 ∧ u.thread.pc = s.thread.pc + 4)))
     ∧ (x.toNat ≤ 4607 → (s.thread.getX rs2).toNat % 64 = 0 → (s.thread.getX rs2).toNat + 64 ≤ 0x40000 →
       ∃ u, exec (.dqsteal rd rs1 rs2) s = .next u ∧ u.net = s.net ++ [.steal s.issuer x.toNat] ∧ u.thread.fullX rd = (rd == 0#5)))

/-- CHBLK and CHUNBLK set and clear BLOCKED of channel x[rs1]; above 63 they trap ILLEGAL (R270). -/
def Piece.ChannelBlock : Prop :=
  ∀ (s : State) (rs1 : Reg), s.thread.revocable = false → s.fullAll [.x rs1] →
    (let c := (s.thread.getX rs1).toNat
     (c ≤ 63 →
       (∃ u, exec (.chblk rs1) s = .next u ∧ (u.here.chan c).blocked = true ∧ u.thread.pc = s.thread.pc + 4
         ∧ ∀ n, n ≠ c → u.here.chan n = s.here.chan n)
       ∧ (∃ u, exec (.chunblk rs1) s = .next u ∧ (u.here.chan c).blocked = false ∧ u.thread.pc = s.thread.pc + 4
         ∧ ∀ n, n ≠ c → u.here.chan n = s.here.chan n))
     ∧ (63 < c → exec (.chblk rs1) s = .next (s.trap { cause := 0x00, tval := s.thread.getX rs1 })
         ∧ exec (.chunblk rs1) s = .next (s.trap { cause := 0x00, tval := s.thread.getX rs1 })))

/-- The key-to-slot map (R80 to R88): lookups and updates. -/
def Obligations.MapOperations : Prop :=
  Piece.MapLookups ∧ Piece.MapUpdates

/-- Sends: their results, their waits, and the traps on target words and record offsets (R263, R264, R272, R335). -/
def Obligations.Sends : Prop :=
  Piece.SendResults ∧ Piece.SendWaits ∧ Piece.RecordOffsets

/-- The deque and the blocking of channels (R270, R272). -/
def Obligations.DequeAndChannels : Prop :=
  Piece.DequeResults ∧ Piece.ChannelBlock

/-- The end of a task (R251, R266, R267): the position empties, and the CID is free unless a continuation is outstanding. TRET of
a task whose record asks for a reply also sends x[rs1] as a fill to the caller's register; of any other it is TEND. -/
def Piece.TaskEnds : Prop :=
  ∀ (s : State) (rs1 : Reg), s.quiet → s.thread.place = .resident → s.thread.pend = [] → s.fullAll [.x rs1] →
    (let gone := fun (u : State) => u.pos s.cur.dev s.cur.vcn s.cur.pos = ⟨.empty, 0⟩
       ∧ (u.ctx s.cur.dev s.cur.cid).place = (if s.thread.conts = 0 then .free else .ended) ∧ SameMemory s u
     let r := s.thread.record
     (∃ u, exec .tend s = .next u ∧ gone u)
     ∧ (r.d0.getLsbD 62 = false → exec (.tret rs1) s = exec .tend s)
     ∧ (r.d0.getLsbD 62 = true → (r.d3.extractLsb' 42 12).toNat = s.cur.dev →
         ∃ u, exec (.tret rs1) s = .next u ∧ gone u ∧ u.net.getLast? = some (.fill s.cur.dev s.cur.dev (r.d3.extractLsb' 0 13).toNat
           (r.d3.extractLsb' 13 24).toNat false (r.d3.extractLsb' 37 5).toNat ((s.thread.getX rs1).setWidth 1024) true)))

/-- TYIELD without a candidate for its position goes on (R269). With one, and no vector or tile work of its own, it saves the context in
its record: once the save is done the position is EMPTY, and the context is the last of its core's run queue, with the pc after
TYIELD and every register as it was; while a home holds the save the thread waits (R318, R319). That a save which faults leaves the
thread running after TYIELD, and places a SAVEFAULT record with the fields of R319 on the supervisor channel if there is one, is the
model's choice (log entry 96); no rule says it. RECV takes a waiting record of its channel at once: the record
goes to its offset and rd receives 0; without one the context is bound to the channel and parks; a channel that another context
is bound to answers 1 (R268). -/
def Obligations.YieldAndReceive : Prop :=
  ∀ (s : State) (rd rs1 : Reg), s.quiet → s.fullAll [.x rs1, .x rd] →
    (let w := s.thread.getX rs1
     let c := (w.extractLsb' 0 6).toNat
     let off := (w &&& ~~~63#64).toNat
     let l := lsLoc s.cur.dev s.cur.vcn off
     ((s.candidates s.cur.dev s.cur.vcn (some s.cur.pos)) = [] → exec .tyield s = .next s.retire)
     ∧ ((s.candidates s.cur.dev s.cur.vcn (some s.cur.pos)) ≠ [] → s.busy s.cur.dev s.cur.vcn s.cur.cid = false → s.waiters = [] →
         s.thread.wait = none →
         (let area := s.recordVa s.cur.dev s.cur.vcn s.cur.cid
          let saved := s.retire.saveImage s.cur.dev s.cur.vcn area (s.retire.thread.image s.cur.cid true false 0) 48
          (∀ s1, saved = .done s1 → ∃ u, exec .tyield s = .next u
            ∧ u.pos s.cur.dev s.cur.vcn s.cur.pos = ⟨.empty, 0⟩ ∧ u.here.runq = s.here.runq ++ [s.cur.cid]
            ∧ (u.ctx s.cur.dev s.cur.cid).place = .runq s.now ∧ (u.ctx s.cur.dev s.cur.cid).area = area
            ∧ (u.ctx s.cur.dev s.cur.cid).pc = s.thread.pc + 4 ∧ (u.ctx s.cur.dev s.cur.cid).wait = none
            ∧ SameRegs (fun _ => false) s.thread (u.ctx s.cur.dev s.cur.cid) ∧ SameCtxCsrs s.thread (u.ctx s.cur.dev s.cur.cid)
            ∧ SameTrapCsrs s.thread (u.ctx s.cur.dev s.cur.cid))
          ∧ (∀ s1 sub n, saved = .fail s1 sub n → ∃ u, exec .tyield s = .next u ∧ u.thread.pc = s.thread.pc + 4
            ∧ u.thread.place = s.thread.place ∧ u.here.runq = s.here.runq ∧ SameRegs (fun _ => false) s.thread u.thread
            ∧ u.pos s.cur.dev s.cur.vcn s.cur.pos = s.pos s.cur.dev s.cur.vcn s.cur.pos
            ∧ ∀ ch, s.here.supChan = some ch → ∃ q, u.here.inbox = s.here.inbox ++ [q] ∧ q.ch = ch ∧ q.trap = true
                ∧ q.record.d4 = 0x12 ∧ q.record.d5 = BitVec.ofNat 64 n ∧ q.record.d6.extractLsb' 0 8 = BitVec.ofNat 8 sub
                ∧ q.record.d7 = BitVec.ofNat 64 (s.cur.cid % 2 ^ 24))
          ∧ (saved = .wait → exec .tyield s = .next (s.parkHeld area))))
     ∧ (c ≠ 63 → (s.here.chan c).isOrd = false → off + 64 ≤ 0x40000 →
       (∀ i r, indexOf (fun (q : InRec) => q.waits c) s.here.inbox = some i → s.here.inbox[i]? = some r →
         (∀ n < 8, s.noWaiterAt (l + 8 * n)) → s.cur.dev < 2 ^ 30 → s.cur.vcn < 8192 →
         ∃ u, exec (.recv rd rs1) s = .next u ∧ u.here.inbox = s.here.inbox.eraseIdx i
           ∧ (∀ n < 8, u.readWord (l + 8 * n) = r.record.words.getD n 0) ∧ u.thread.getX rd = 0 ∧ u.thread.pc = s.thread.pc + 4)
       ∧ (indexOf (fun (q : InRec) => q.waits c) s.here.inbox = none →
         ((s.here.chan c).bound = none ∨ (s.here.chan c).bound = some s.cur.cid →
           ∃ u, exec (.recv rd rs1) s = .next u ∧ (u.here.chan c).bound = some s.cur.cid
             ∧ u.thread.wait = some (.recv (BitVec.ofNat 6 c) off rd) ∧ u.thread.pc = s.thread.pc)
         ∧ ((s.here.chan c).bound ≠ none → (s.here.chan c).bound ≠ some s.cur.cid →
           exec (.recv rd rs1) s = .next (s.setX rd 1).retire))))

/-- IRREV (R294): outside an ordered task it traps ILLEGAL; in one that is already irrevocable it goes on; in a revocable one it
parks until the GVT key has reached the task's key and the lower tasks of the core are committed, and with no deferred effect
left it then makes the task irrevocable. -/
def Piece.IrrevocableTask : Prop :=
  ∀ (s : State),
    (s.thread.ordered = false → exec .irrev s = .next s.illegal)
    ∧ (s.thread.ordered = true → s.thread.revocable = false → exec .irrev s = .next s.retire)
    ∧ (s.thread.ordered = true → s.thread.revocable = true →
        (¬ (s.thread.record.key ≤ s.device.gvtKey ∧ s.here.jubilee = false ∧ s.here.tasksBelow s.thread.record.key = []) →
          exec .irrev s = .next (s.park .gvt))
        ∧ (s.thread.record.key ≤ s.device.gvtKey → s.here.jubilee = false → s.here.tasksBelow s.thread.record.key = [] →
          ∀ t, (s.here.chan s.thread.chan.toNat).taskOf s.cur.cid = some t → t.nDef ≤ t.done →
            ∃ u, exec .irrev s = .next u ∧ u.thread.revocable = false ∧ u.thread.pc = s.thread.pc + 4))

/-- FORKR (R274): with no work it recruits nobody, stores 1 to the join cell as a release, and its result is M = 1 with an empty
part; when every record has been answered rd receives the result and the instruction retires. -/
def Piece.ForkResults : Prop :=
  ∀ (s : State) (rd rs1 : Reg) (t : Target), s.fullAll [.x rs1, .x rd] →
    (let off := (s.thread.getX rs1).toNat
     let l := lsLoc s.cur.dev s.cur.vcn off
     let w := fun (n : Nat) => s.readWord (l + 8 * n)
     let cell : VA := 0#8 ++ w 3
     (s.quiet → s.thread.fork = none → off % 64 = 0 → off + 64 ≤ 0x40000 → s.poisoned l 64 = false → (w 0).extractLsb' 60 4 = 0#4 →
       (w 0).extractLsb' 54 6 ≠ 63#6 → w 1 = 0 → (w 2).extractLsb' 0 32 ≠ 0#32 → (w 2).extractLsb' 32 3 = 2#3 →
       (w 2).extractLsb' 35 29 = 0#29 → w 6 = 0 → w 7 = 0 → s.farPlace cell .write 8 t → ∀ k, s.here.freeEntry = some k →
       ∃ u e, exec (.forkr rd rs1) s = .next u ∧ u.thread.fork = some ⟨[], 0, 0x0000010000000000#64⟩
         ∧ Table.find u.here.journal k = some e ∧ e.kind = 1 ∧ e.va = cell ∧ e.data = 1)
     ∧ (∀ x, s.thread.fork = some ⟨[], 0, x⟩ → s.unacked .dv = false →
       exec (.forkr rd rs1) s = .next (((s.onThread fun c => { c with fork := none }).setX rd x).retire))
     ∧ (∀ x n, s.thread.fork = some ⟨[], n + 1, x⟩ → s.unacked .dv = false → exec (.forkr rd rs1) s = .next (s.park .fork)))

/-- JOIN on a cell in the own core's local storage (R275): a zero cell stays and answers all ones; otherwise the cell counts down
and rd receives the new value; the thread goes on when that is 0, and ends when it is not. -/
def Piece.JoinResults : Prop :=
  ∀ (s : State) (rd rs1 : Reg) (t : Target), s.quiet → s.noWaiterAt t.loc → s.fullAll [.x rs1, .x rd] →
    s.thread.place = .resident → s.thread.pend = [] → s.poisoned t.loc 8 = false →
    (let va : VA := s.thread.aw[0] ++ s.thread.getX rs1
     let old := s.readWord t.loc
     let on := fun (u : State) (x : Word) => u.thread.getX rd = (if rd = 0#5 then 0 else x) ∧ u.thread.pc = s.thread.pc + 4
     s.ownPlace va .amo 8 t →
       (old = 0 → ∃ u, exec (.join rd rs1) s = .next u ∧ on u (BitVec.allOnes 64) ∧ SameMemory s u)
       ∧ (old = 1 → ∃ u, exec (.join rd rs1) s = .next u ∧ on u 0 ∧ u.readWord t.loc = 0)
       ∧ (1 < old.toNat → ∃ u, exec (.join rd rs1) s = .next u ∧ u.readWord t.loc = old - 1
           ∧ u.pos s.cur.dev s.cur.vcn s.cur.pos = ⟨.empty, 0⟩ ∧ (u.ctx s.cur.dev s.cur.cid).alive = false))

/-- The barrier instructions on a barrier word in the own core's local storage (R276 to R278): BARREG binds a combiner and stores
COUNT; BARARV counts an arrival, and completes the phase with the last; BARWAIT answers the default flag of the completed
phase, or parks while its phase is open; BARDROP takes a party off. Each but BARREG traps ILLEGAL with the VA when no combiner of
the core binds it. -/
def Piece.BarrierResults : Prop :=
  ∀ (s : State) (rd rs1 rs2 : Reg) (t : Target) (i : Nat) (sc : BitVec 3), s.quiet → s.noWaiterAt t.loc →
    s.fullAll [.x rs1, .x rs2, .x rd] → s.poisoned t.loc 8 = false →
    (let va : VA := s.thread.aw[0] ++ s.thread.getX rs1
     let b := BarWord.of (s.readWord t.loc)
     let cell := fun (u : State) => BarWord.of (u.readWord t.loc)
     let n := (s.thread.getX rs2).extractLsb' 0 23
     (s.here.combiner va = none →
       ∀ q ∈ [Instr.bararv rs1, .barwait rd rs1, .bardrop rs1], exec q s = .next (s.trap { cause := 0x00, tval := va.extractLsb' 0 64 }))
     ∧ (s.ownPlace va .amo 8 t → s.here.combiner va = none → s.here.freeComb = some i → (s.thread.getX rs2).extractLsb' 23 41 = 0x6#41 →
       n ≠ 0#23 → ∃ u, exec (.barreg rd rs1 rs2) s = .next u ∧ Table.find u.here.comb i = some (va, 3#3)
         ∧ cell u = { b with scope := 3#3, count := n, arr := 0, cflt := false }
         ∧ u.thread.getX rd = (if rd = 0#5 then 0 else BitVec.ofNat 64 i))
     ∧ (s.ownPlace va .amo 8 t → s.here.combiner va = some (i, sc) →
       (s.thread.arrival = none →
         ((b.arr + 1).toNat < b.count.toNat → ∃ u, exec (.bararv rs1) s = .next u ∧ cell u = { b with arr := b.arr + 1 }
           ∧ u.thread.arrival = some ⟨va, b.phase⟩ ∧ u.thread.pc = s.thread.pc + 4)
         ∧ (b.count.toNat ≤ (b.arr + 1).toNat → ∃ u, exec (.bararv rs1) s = .next u
           ∧ cell u = { b with phase := b.phase + 1, dflt := b.cflt, arr := 0, cflt := false }
           ∧ u.thread.arrival = some ⟨va, b.phase⟩ ∧ u.thread.pc = s.thread.pc + 4))
       ∧ (∀ ph, s.thread.arrival = some ⟨va, ph⟩ →
         (b.phase = ph + 1 → ∃ u, exec (.barwait rd rs1) s = .next u ∧ u.thread.arrival = none ∧ u.thread.pc = s.thread.pc + 4
           ∧ u.thread.getX rd = (if rd = 0#5 then 0 else if b.dflt then 1 else 0) ∧ SameMemory s u)
         ∧ (b.phase = ph → ∃ u, exec (.barwait rd rs1) s = .next u ∧ u.thread.pc = s.thread.pc
           ∧ (u.pos s.cur.dev s.cur.vcn s.cur.pos).st = .parked ∧ SameMemory s u))
       ∧ (b.arr.toNat + 1 < b.count.toNat → ∃ u, exec (.bardrop rs1) s = .next u ∧ cell u = { b with count := b.count - 1 }
           ∧ u.thread.pc = s.thread.pc + 4)))

/-- A neighbour put (R197, R198, R200): the value leaves over the link to the core one mesh step away, where it is due in the third tick, and the
thread goes on; with eight fills on the link it parks. -/
def Piece.NeighbourPuts : Prop :=
  ∀ (s : State) (rt rs : Reg) (vt vs : VReg) (dir : Dir) (pos : BitVec 3), s.quiet → s.cur.vcn < 4608 → s.fullAll [.x rs, .v vs] →
    (let c := s.cur.vcn / 192
     let i := s.cur.vcn % 192
     let x := 12 * (c % 6) + i % 12
     let y := 16 * (c / 6) + i / 12
     let p : Nat × Nat := match dir with
       | .n => (x, if y = 0 then 63 else y - 1)
       | .e => (if x = 71 then 0 else x + 1, y)
       | .s => (x, if y = 63 then 0 else y + 1)
       | .w => (if x = 0 then 71 else x - 1, y)
     let gives := 192 * (6 * (p.2 / 16) + p.1 / 12) + (12 * (p.2 % 16) + p.1 % 12)
     let fill := fun (vec : Bool) (r : Nat) (v : VWord) => Msg.nfill s.cur.dev gives dir pos.toNat vec r v s.thread.tenant.toNat
       ((s.device.cycle + 3) % 2 ^ 64)
     (s.linkLoad s.cur.dev gives dir < 8 →
       exec (.nput rt dir rs pos) s = .next (s.send (fill false rt.toNat ((s.thread.getX rs).setWidth 1024))).retire
       ∧ exec (.vnput dir pos vt vs) s = .next (s.send (fill true vt.toNat (s.thread.getV vs))).retire)
     ∧ (8 ≤ s.linkLoad s.cur.dev gives dir →
       exec (.nput rt dir rs pos) s = .next (s.park (.link dir)) ∧ exec (.vnput dir pos vt vs) s = .next (s.park (.link dir))))

/-- SLEEPT goes on when cycle has reached x[rs1] and else parks for that tick (R316); WAITP of a promise that has passed asks its
copy hart and parks on the answer, and else parks for the promise, and traps ILLEGAL for a hart above 95 (R129). -/
def Piece.TimedWaits : Prop :=
  ∀ (s : State) (rs1 : Reg), s.fullAll [.x rs1] → s.thread.split = none →
    (let t := s.thread.getX rs1
     let passed := (s.device.cycle + 2 ^ 48 - t.toNat % 2 ^ 48) % 2 ^ 48 < 2 ^ 47
     (t.toNat ≤ s.device.cycle → exec (.sleept rs1) s = .next s.retire)
     ∧ (s.device.cycle < t.toNat → exec (.sleept rs1) s = .next (s.park (.tick t)))
     ∧ (95 < (t.extractLsb' 57 7).toNat → exec (.waitp rs1) s = .next (s.trap { cause := 0x00, tval := t }))
     ∧ ((t.extractLsb' 57 7).toNat ≤ 95 →
       (passed → ∃ u, exec (.waitp rs1) s = .next u ∧ u.net = s.net ++ [.eng s.issuer (.waitp t)]
         ∧ u.thread.wait = some (.reply 0 .none))
       ∧ (¬ passed → exec (.waitp rs1) s = .next (s.park (.promise (t &&& 0xFFFFFFFFFFFF#64))))))

/-- The wakings (R82, R129, R316): a thread parked on a tick that has come retires its SLEEPT, one parked on a key that is no
longer PENDING retires its KLOOKW with the lookup's result, and one parked on a promise that has passed asks its copy hart. -/
def Piece.Wakings : Prop :=
  ∀ (s : State) (w : BitVec 32) (ws : List (BitVec 32)),
    (let rs1 : Reg := w.extractLsb' 15 5
     let rd : Reg := w.extractLsb' 7 5
     let x := s.thread.getX rs1
     let awake := fun (u : State) => u.thread.wait = none ∧ u.pos s.cur.dev s.cur.vcn s.cur.pos = ⟨.running, s.cur.cid⟩
       ∧ u.thread.pc = s.thread.pc + 4
     s.pos s.cur.dev s.cur.vcn s.cur.pos = ⟨.parked, s.cur.cid⟩ → s.thread.fullX rs1 = true → s.thread.split = none →
       (∀ t, s.thread.wait = some (.again (.tick t) (w :: ws)) → x.toNat ≤ s.device.cycle →
         ∃ u, exec .sleeptExpiry s = .next u ∧ awake u)
       ∧ (∀ k, s.thread.wait = some (.again (.key k) (w :: ws)) → s.thread.fullX rd = true →
         s.here.kmcfg.getLsbD 63 = true ∨ s.thread.enTested = true → s.here.kfind x = none → x ≠ BitVec.allOnes 64 →
         ∃ u, exec .klookwWake s = .next u ∧ awake u ∧ u.thread.getX rd = (if rd = 0#5 then 0 else mapWord 1 0 0 0 0))
       ∧ (∀ t, s.thread.wait = some (.again (.promise t) (w :: ws)) → (x.extractLsb' 57 7).toNat ≤ 95 →
         (s.device.cycle + 2 ^ 48 - x.toNat % 2 ^ 48) % 2 ^ 48 < 2 ^ 47 →
         ∃ u, exec .waitpPromiseExpiry s = .next u ∧ u.net = s.net ++ [.eng s.issuer (.waitp x)]
           ∧ u.thread.wait = some (.reply 0 .none)))

/-- The requests to views and copy harts (R111, R113 to R115): VCOMMIT, VRECLAIM and CPYQ leave for their engine with the place of
the descriptor or block and park on the answer. LDV of a header in the own core's local storage that is FRESH (1) or BUILDING (2) (R110) and whose version is
reached answers the header word; it parks under POL WAIT while the version is older, and a POISONED header (3) traps VIEWFAULT 5 with
its code. -/
def Obligations.ViewRequests : Prop :=
  ∀ (s : State) (rd rs1 xv : Reg) (w : BitVec 2) (sc : Scope) (t : Target), s.quiet → s.fullAll [.x rs1, .x xv, .x rd] →
    (let c := s.thread
     let va : VA := (c.aw[w.toNat]'w.isLt) ++ c.getX rs1
     let h := s.readWord t.loc
     let st := (h.extractLsb' 44 4).toNat
     let need := ((c.getX xv).extractLsb' 0 40).toNat
     let asked := fun (i : Instr) (op : EngOp) => ∃ u, exec i s = .next u ∧ u.net = s.net ++ [.eng s.issuer op]
       ∧ (u.pos s.cur.dev s.cur.vcn s.cur.pos).st = .parked ∧ u.thread.pc = c.pc ∧ SameMemory s u
     (va.toNat % 8 = 0 → s.resolveAt s.cur.dev s.issuer va .readOnly 8 false = .ok t →
       asked (.vcommit w xv rs1) (.vcommit t.loc (c.getX xv)) ∧ asked (.vreclaim w xv rs1) (.vreclaim t.loc (c.getX xv))
       ∧ (va.toNat % 64 = 0 → xv ≠ 0#5 →
           asked (.cpyq w xv rs1 rd) (.cpyq (c.getX xv) t.loc va)))
     ∧ (s.ownPlace va .readOnly 8 t → s.poisoned t.loc 8 = false → h.extractLsb' 41 2 ≠ 3#2 →
       ((st = 1 ∨ st = 2) → need ≤ (h.extractLsb' 0 40).toNat → ∃ u, exec (.ldv sc w xv rs1 rd) s = .next u
         ∧ u.thread.getX rd = (if rd = 0#5 then 0 else h) ∧ u.thread.pc = c.pc + 4 ∧ u.thread.vstale = c.vstale ∧ SameMemory s u)
       ∧ ((st = 1 ∨ st = 2) → (h.extractLsb' 0 40).toNat < need → h.extractLsb' 41 2 = 0#2 → ∃ u, exec (.ldv sc w xv rs1 rd) s = .next u
         ∧ (u.pos s.cur.dev s.cur.vcn s.cur.pos).st = .parked ∧ u.thread.pc = c.pc ∧ SameMemory s u)
       ∧ (st = 3 → ∃ u, exec (.ldv sc w xv rs1 rd) s = .next u ∧ u.thread.tcause = 0x08 ∧ u.thread.tval = va.extractLsb' 0 64
         ∧ u.thread.tstat.extractLsb' 0 8 = 5#8 ∧ u.thread.tstat.extractLsb' 32 8 = h.extractLsb' 48 8 ∧ SameMemory s u)))

/-- The end of a task and IRREV (R251, R266, R267, R294). -/
def Obligations.TaskCompletions : Prop :=
  Piece.TaskEnds ∧ Piece.IrrevocableTask

/-- FORKR and JOIN (R274, R275). -/
def Obligations.ForkAndJoin : Prop :=
  Piece.ForkResults ∧ Piece.JoinResults

/-- Barriers and neighbour puts. -/
def Obligations.BarriersAndPuts : Prop :=
  Piece.BarrierResults ∧ Piece.NeighbourPuts

/-- Timed waits, and the events that end a wait. -/
def Obligations.WaitsAndWakings : Prop :=
  Piece.TimedWaits ∧ Piece.Wakings

/-! ## Vectors (R46, R154 to R157, R201 to R216) -/

/-- Every enabled lane of v is what f says, and every other lane that of `old` (R201). -/
def lanesAre (w : Nat) (on : Nat → Bool) (old v : VWord) (f : Nat → BitVec w) : Prop :=
  ∀ i, w * (i + 1) ≤ 1024 → v.extractLsb' (w * i) w = if on i then f i else old.extractLsb' (w * i) w

/-- Integer lanes (R204, R205, R207): modulo 2^w, signed or unsigned as the name says, a shift by its count modulo w. Each form
completes in its rotation with no flag, but VDIV, which enters the unit's queue with its result and leaves vd empty (R202); a
quotient truncates, and a division by zero gives all ones. -/
def Obligations.VectorIntegerResults : Prop :=
  ∀ (s : State) (ty : VTy) (vd vs1 vs2 : VReg) (m : MReg), ty.isFloat = false → s.here.vqFull = false →
    s.fullAll [.v vs1, .v vs2, .m m, .v vd] →
    (let c := s.thread
     let w := ty.width
     let on := fun (i : Nat) => (c.getM m).getLsbD i
     let a := fun (i : Nat) => (c.getV vs1).extractLsb' (w * i) w
     let b := fun (i : Nat) => (c.getV vs2).extractLsb' (w * i) w
     let d := fun (i : Nat) => (c.getV vd).extractLsb' (w * i) w
     let gives := fun (i : Instr) (f : Nat → BitVec w) => ∃ v, lanesAre w on (c.getV vd) v f
       ∧ exec i s = .next ((s.onThread fun c => c.setV vd v).retire)
     gives (.vadd ty vd vs1 vs2 m) (fun i => a i + b i) ∧ gives (.vsub ty vd vs1 vs2 m) (fun i => a i - b i)
     ∧ gives (.vmul ty vd vs1 vs2 m) (fun i => a i * b i) ∧ gives (.vfma ty vd vs1 vs2 m) (fun i => a i * b i + d i)
     ∧ gives (.vmin ty vd vs1 vs2 m) (fun i => if (a i).toInt ≤ (b i).toInt then a i else b i)
     ∧ gives (.vmax ty vd vs1 vs2 m) (fun i => if (a i).toInt ≤ (b i).toInt then b i else a i)
     ∧ gives (.vminu ty vd vs1 vs2 m) (fun i => if (a i).toNat ≤ (b i).toNat then a i else b i)
     ∧ gives (.vmaxu ty vd vs1 vs2 m) (fun i => if (a i).toNat ≤ (b i).toNat then b i else a i)
     ∧ gives (.vand ty vd vs1 vs2 m) (fun i => a i &&& b i) ∧ gives (.vor ty vd vs1 vs2 m) (fun i => a i ||| b i)
     ∧ gives (.vxor ty vd vs1 vs2 m) (fun i => a i ^^^ b i) ∧ gives (.vshl ty vd vs1 vs2 m) (fun i => a i <<< ((b i).toNat % w))
     ∧ gives (.vshr ty vd vs1 vs2 m) (fun i => (a i).sshiftRight ((b i).toNat % w))
     ∧ gives (.vshrl ty vd vs1 vs2 m) (fun i => a i >>> ((b i).toNat % w))
     ∧ gives (.vabs ty vd vs1 m) (fun i => if (a i).toInt < 0 then - a i else a i) ∧ gives (.vneg ty vd vs1 m) (fun i => - a i)
     ∧ ∃ v, lanesAre w on (c.getV vd) v
           (fun i => if b i = 0 then BitVec.allOnes w else BitVec.ofInt w ((a i).toInt.tdiv (b i).toInt))
         ∧ exec (.vdiv ty vd vs1 vs2 m) s = .next (((s.onCore fun k =>
             { k with vq := k.vq ++ [.result s.cur.cid vd v 0 Counts.zero] }).onThread fun c => c.awaitV vd).retire))

/-- Float lanes (R154, R155, R204 to R208): each enabled lane is the operation on the decoded lanes, rounded once, the flags of
the enabled lanes are ORed into vflags, and the instruction completes in its rotation; VDIV, VSQRT, VRSQRT, VEXP2 and VLOG2 enter
the unit's queue with the same (R202). -/
def Obligations.VectorFloatResults : Prop :=
  ∀ (s : State) (ty : VTy) (vd vs1 vs2 : VReg) (m : MReg), ty.isFloat = true → s.here.vqFull = false →
    s.fullAll [.v vs1, .v vs2, .m m, .v vd] →
    (let c := s.thread
     let w := ty.width
     let f := VTy.fmt ty
     let on := fun (i : Nat) => (c.getM m).getLsbD i
     let raw := fun (r : VReg) (i : Nat) => ((c.getV r).extractLsb' (w * i) w)
     let a := fun (i : Nat) => f.decode (raw vs1 i).toNat
     let b := fun (i : Nat) => f.decode (raw vs2 i).toNat
     let d := fun (i : Nat) => f.decode (raw vd i).toNat
     let is := fun (g : Nat → FRes) (v : VWord) (fl : VFlags) => lanesAre w on (c.getV vd) v (fun i => BitVec.ofNat w (g i).1)
       ∧ ∀ k, fl.getLsbD k = (List.range ty.lanes).any fun i => on i && (g i).2.getLsbD k
     let gives := fun (i : Instr) (g : Nat → FRes) => ∃ v fl, is g v fl
       ∧ exec i s = .next ((s.onThread fun c => (c.setV vd v).raise fl).retire)
     let slow := fun (i : Instr) (g : Nat → FRes) => ∃ v fl, is g v fl
       ∧ exec i s = .next (((s.onCore fun k => { k with vq := k.vq ++ [.result s.cur.cid vd v fl Counts.zero] }).onThread
           fun c => c.awaitV vd).retire)
     gives (.vadd ty vd vs1 vs2 m) (fun i => f.add (a i) (b i)) ∧ gives (.vsub ty vd vs1 vs2 m) (fun i => f.add (a i) (b i).negate)
     ∧ gives (.vmul ty vd vs1 vs2 m) (fun i => f.mul (a i) (b i)) ∧ gives (.vfma ty vd vs1 vs2 m) (fun i => f.fma (a i) (b i) (d i))
     ∧ gives (.vmin ty vd vs1 vs2 m) (fun i => f.minmax false (raw vs1 i).toNat (raw vs2 i).toNat)
     ∧ gives (.vmax ty vd vs1 vs2 m) (fun i => f.minmax true (raw vs1 i).toNat (raw vs2 i).toNat)
     ∧ gives (.vscale ty vd vs1 m) (fun i => f.scale (a i) (raw vd i).toInt)
     ∧ gives (.vneg ty vd vs1 m) (fun i => ((raw vs1 i ^^^ BitVec.ofNat w (2 ^ (w - 1))).toNat, 0))
     ∧ gives (.vabs ty vd vs1 m) (fun i => ((raw vs1 i &&& ~~~ BitVec.ofNat w (2 ^ (w - 1))).toNat, 0))
     ∧ slow (.vdiv ty vd vs1 vs2 m) (fun i => f.div (a i) (b i)) ∧ slow (.vsqrt ty vd vs1 m) (fun i => f.sqrt (a i))
     ∧ slow (.vrsqrt ty vd vs1 m) (fun i => f.rsqrt (a i)) ∧ slow (.vexp2 ty vd vs1 m) (fun i => f.exp2 (a i))
     ∧ slow (.vlog2 ty vd vs1 m) (fun i => f.log2 (a i)))

/-- Special cases of the float operations (R154, R155, R156): the invalid operations give the canonical NaN with NV, a finite
number over zero gives an infinity with DZ, −0 orders below +0, and a quiet NaN operand gives the canonical NaN without a flag. -/
def Piece.FloatSpecialCases : Prop :=
  ∀ f ∈ [fp32, bf16, fp16], ∀ (x : Ex), 0 < x.n →
    (let zero := fun (n : Bool) => FVal.fin ⟨n, 0, f.qmin⟩
     let bad := (f.nan, flagNV)
     (∀ p q : Bool, f.add (.inf p) (.inf !p) = bad ∧ f.mul (.inf p) (zero q) = bad ∧ f.mul (zero p) (.inf q) = bad
       ∧ f.div (zero p) (zero q) = bad ∧ f.div (.inf p) (.inf q) = bad ∧ (∀ v, f.fma (.inf p) (zero q) v = bad ∧ f.fma (zero p) (.inf q) v = bad)
       ∧ f.div (.fin { x with neg := p }) (zero q) = (f.signed (p != q) f.inf, flagDZ)
       ∧ f.add (zero p) (zero q) = (f.signed (p && q) 0, 0) ∧ f.sqrt (zero p) = (f.signed p 0, 0)
       ∧ f.rsqrt (zero p) = (f.signed p f.inf, flagDZ) ∧ f.log2 (zero p) = (f.signed true f.inf, flagDZ)
       ∧ f.minmax false (f.signed true 0) (f.signed false 0) = (f.signed true 0, 0)
       ∧ f.minmax true (f.signed true 0) (f.signed false 0) = (f.signed false 0, 0))
     ∧ f.sqrt (.fin { x with neg := true }) = bad ∧ f.rsqrt (.fin { x with neg := true }) = bad
     ∧ f.log2 (.fin { x with neg := true }) = bad ∧ f.sqrt (.inf true) = bad
     ∧ (∀ v, v.snan = false → f.add (.nan false) v = (f.nan, 0) ∧ f.mul (.nan false) v = (f.nan, 0)
         ∧ f.div (.nan false) v = (f.nan, 0))
     ∧ (∀ v, f.add (.nan true) v = bad ∧ f.mul (.nan true) v = bad ∧ f.div (.nan true) v = bad ∧ f.sqrt (.nan true) = bad))

/-- Rounding gives back every number that a format has, with no flag, and the sign is that of the number (R153, R154). -/
def Piece.RoundingKeepsNumbers : Prop :=
  ∀ f ∈ [fp32, bf16, fp16], ∀ c, c < 2 ^ (f.signBit + 1) → ∀ x, f.decode c = .fin x →
    f.roundEx .ne x = (c, 0) ∧ f.roundEx .tz x = (c, 0)

/-- Comparison, selection and moves of lanes (R201, R209, R210, R213, R214): VCMP writes the enabled lanes' answers and zero in
every other bit, VSEL takes vs2 where the mask is 0, VPERM indexes modulo the lane count, VBCAST copies a scalar, VINS replaces one
lane, and VEXTR reads one, sign-extended for an integer type; a lane index out of range traps ILLEGAL with the index. -/
def Piece.LaneMoves : Prop :=
  ∀ (s : State) (ty : VTy) (cc : Cond) (vd vs1 vs2 : VReg) (m md : MReg) (rd rs1 rs2 : Reg), s.here.vqFull = false →
    s.fullAll [.v vs1, .v vs2, .m m, .m md, .v vd, .x rs1, .x rs2, .x rd] →
    (let c := s.thread
     let w := ty.width
     let on := fun (i : Nat) => (c.getM m).getLsbD i
     let a := fun (i : Nat) => (c.getV vs1).extractLsb' (w * i) w
     let b := fun (i : Nat) => (c.getV vs2).extractLsb' (w * i) w
     let put := fun (v : VWord) => (Host.Outcome.next ((s.onThread fun c => c.setV vd v).retire) : Out)
     (ty.isFloat = false → md ≠ 0#2 → ∃ v : MWord, exec (.vcmp cc ty md vs1 vs2 m) s = .next ((s.onThread fun c => c.setM md v).retire)
       ∧ ∀ i, v.getLsbD i = (decide (i < ty.lanes) && on i && match cc with
          | .eq => a i == b i
          | .ne => a i != b i
          | .lt => decide ((a i).toInt < (b i).toInt)
          | .le => decide ((a i).toInt ≤ (b i).toInt)
          | .ltu => decide ((a i).toNat < (b i).toNat)
          | .leu => decide ((a i).toNat ≤ (b i).toNat)))
     ∧ (ty.isFloat = true → md ≠ 0#2 → ∃ (v : MWord) (fl : VFlags), exec (.vcmp cc ty md vs1 vs2 m) s
           = .next ((s.onThread fun c => (c.setM md v).raise fl).retire)
         ∧ ∀ i, v.getLsbD i = (decide (i < ty.lanes) && on i && (floatCond (VTy.fmt ty) cc (a i).toNat (b i).toNat).1))
     ∧ (∃ v, exec (.vsel ty vd vs1 vs2 m) s = put v ∧ lanesAre w on (c.getV vs2) v a)
     ∧ (∃ v, exec (.vperm ty vd vs1 vs2 m) s = put v ∧ lanesAre w on (c.getV vd) v fun i => a ((b i).toNat % ty.lanes))
     ∧ (∃ v, exec (.vbcast ty vd rs1 m) s = put v ∧ lanesAre w on (c.getV vd) v fun _ => (c.getX rs1).extractLsb' 0 w)
     ∧ ((c.getX rs2).toNat < ty.lanes →
         (∃ v, exec (.vins ty vd rs1 rs2) s = put v
           ∧ lanesAre w (fun i => decide (i = (c.getX rs2).toNat)) (c.getV vd) v fun _ => (c.getX rs1).extractLsb' 0 w)
         ∧ exec (.vextr ty rd vs1 rs2) s = .next ((s.setX rd
             (if ty.isFloat then (a (c.getX rs2).toNat).setWidth 64 else (a (c.getX rs2).toNat).signExtend 64)).retire))
     ∧ (ty.lanes ≤ (c.getX rs2).toNat →
         exec (.vins ty vd rs1 rs2) s = .next (s.trap { cause := 0x00, tval := c.getX rs2 })
         ∧ exec (.vextr ty rd vs1 rs2) s = .next (s.trap { cause := 0x00, tval := c.getX rs2 })))

/-- Integer reductions (R158, R212): lane 0 of the result is the sum modulo 2^w, or the greatest, of the enabled lanes, and every
other lane is zero; the instruction enters the unit's queue. A float reduction is the tree of R158,
where a lane that is not enabled enters as −0, or as −infinity for the maximum. -/
def Piece.ReductionTrees : Prop :=
  ∀ (s : State) (ty : VTy) (vd vs1 : VReg) (m : MReg), s.here.vqFull = false → s.fullAll [.v vs1, .m m, .v vd] →
    (let c := s.thread
     let w := ty.width
     let on := fun (i : Nat) => (c.getM m).getLsbD i
     let a := fun (i : Nat) => (c.getV vs1).extractLsb' (w * i) w
     let gives := fun (i : Instr) (v : VWord) (fl : VFlags) => exec i s = .next (((s.onCore fun k =>
       { k with vq := k.vq ++ [.result s.cur.cid vd v fl Counts.zero] }).onThread fun c => c.awaitV vd).retire)
     let g := VTy.fmt ty
     let tree := fun (f : Nat → Nat → FRes) (e : Nat) =>
       reduceTree f (Nat.log2 ty.lanes) ((List.range ty.lanes).map fun i => if on i then (a i).toNat else e)
     let is := fun (i : Instr) (r : Nat × VFlags) => gives i ((BitVec.ofNat w r.1).setWidth 1024) r.2
     (ty.isFloat = false →
       (∃ v, gives (.vredsum ty vd vs1 m) v 0
         ∧ v = ((List.range ty.lanes).foldl (fun (x : BitVec w) i => if on i then x + a i else x) 0).setWidth 1024)
       ∧ ∃ v, gives (.vredmax ty vd vs1 m) v 0 ∧ v = (v.extractLsb' 0 w).setWidth 1024
         ∧ (∀ i < ty.lanes, on i = true → (a i).toInt ≤ (v.extractLsb' 0 w).toInt)
         ∧ ((∃ i < ty.lanes, on i = true ∧ v.extractLsb' 0 w = a i) ∨ v.extractLsb' 0 w = BitVec.intMin w))
     ∧ (ty.isFloat = true → is (.vredsum ty vd vs1 m) (tree (fun x y => g.add (g.decode x) (g.decode y)) (2 ^ (w - 1)))
         ∧ is (.vredmax ty vd vs1 m) (tree (g.minmax true) (g.inf + 2 ^ (w - 1)))))

/-- Conversions (R157, R211): with an even register pair on the wider side the instruction completes: every enabled lane is the
conversion of its lane, vflags is its old value ORed with the flags of the enabled lanes, and every other CSR, register, core and
byte stays; an odd register where a pair is needed traps REGGROUP. An integer to an integer type truncates or sign-extends. -/
def Obligations.Conversions : Prop :=
  ∀ (s : State) (dst src : VTy) (rtz : Bool) (vd vs1 : VReg) (m : MReg), vcvtOk dst src = true → s.here.vqFull = false →
    (∀ o, s.thread.full o = true) →
    (let c := s.thread
     let even := (src.width ≤ dst.width ∨ vs1.toNat % 2 = 0) ∧ (dst.width ≤ src.width ∨ vd.toNat % 2 = 0)
     let both := fun (c : Ctx) (r : VReg) => c.getV (r + 1) ++ c.getV r
     let on := fun (i : Nat) => (c.getM m).getLsbD i
     (¬ even → exec (.vcvt dst src rtz vd vs1 m) s = .next (s.trap { cause := 0x01, tval := s.word }))
     ∧ (even → ∃ u, exec (.vcvt dst src rtz vd vs1 m) s = .next u ∧ u.thread.pc = c.pc + 4
         ∧ SameRegs (fun o => o == .v vd || decide (src.width < dst.width) && o == .v (vd + 1)) c u.thread ∧ SameMemory s u
         ∧ SameCtxCsrs { c with vflags := u.thread.vflags } u.thread ∧ SameTrapCsrs c u.thread ∧ SameElsewhere s u
         ∧ (∃ fl : VFlags, u.thread.vflags = c.vflags ||| fl.setWidth 64 ∧ ∀ k, fl.getLsbD k
             = (List.range (1024 / min dst.width src.width)).any fun i => on i
               && (cvtLane dst src (if rtz then .tz else .ne) ((both c vs1).extractLsb' (src.width * i) src.width).toNat).2.getLsbD k)
         ∧ ∀ i < 1024 / min dst.width src.width,
            (both u.thread vd).extractLsb' (dst.width * i) dst.width
              = (if on i then BitVec.ofNat dst.width
                    (cvtLane dst src (if rtz then .tz else .ne) ((both c vs1).extractLsb' (src.width * i) src.width).toNat).1
                 else (both c vd).extractLsb' (dst.width * i) dst.width)
            ∧ (dst.isFloat = false → src.isFloat = false → on i = true →
                (both u.thread vd).extractLsb' (dst.width * i) dst.width
                  = ((both c vs1).extractLsb' (src.width * i) src.width).signExtend dst.width)))

/-- Vector loads and stores of the own core's local storage (R215, R216): VLD and VST move the dwords that the mask enables
from and to 16 consecutive dwords; VLDX and VSTX move the enabled lanes at x[rs1] plus their signed offsets. Lanes that are not
enabled access nothing. -/
def Obligations.VectorMemory : Prop :=
  ∀ (s : State) (aw : BitVec 2) (dw : Bool) (vd vs2 : VReg) (rs1 : Reg) (m : MReg), s.quiet → s.thread.sent = 0 →
    s.here.vqFull = false → s.fullAll [.x rs1, .m m, .v vs2, .v vd] →
    (let c := s.thread
     let va : VA := (c.aw[aw.toNat]'aw.isLt) ++ c.getX rs1
     let on := fun (i : Nat) => (c.getM m).getLsbD i
     let n := if dw then 8 else 4
     let lvl := fun (i : Nat) => (c.aw[aw.toNat]'aw.isLt) ++ (c.getX rs1 + ((c.getV vs2).extractLsb' (8 * n * i) (8 * n)).signExtend 64)
     let loaded := fun (u : State) (k : Nat) (f : Nat → BitVec (8 * k)) => lanesAre (8 * k) on (c.getV vd) (u.thread.getV vd) f
       ∧ u.thread.pc = c.pc + 4 ∧ SameRegs (fun o => o == .v vd) c u.thread ∧ SameMemory s u
     let stored := fun (u : State) (k : Nat) (l : Nat → Nat) (cnt : Nat) =>
       (∀ i < cnt, on i = true → ∀ b < k, u.byteAt (l i + b) = (c.getV vd).extractLsb' (8 * (k * i + b)) 8)
       ∧ (∀ a, (∀ i < cnt, on i = true → a < l i ∨ l i + k ≤ a) → u.byteAt a = s.byteAt a) ∧ (∀ a, u.full a = s.full a)
       ∧ u.thread.pc = c.pc + 4 ∧ SameRegs (fun _ => false) c u.thread
     (∀ t, va.toNat % 8 = 0 → va.toNat % 2 ^ 16 + 128 ≤ 2 ^ 16 →
       (∀ i < 16, isOwn s.cur.dev s.cur.vcn (t.loc + 8 * i) = true) →
       (s.resolveAt s.cur.dev s.issuer va .readOnly 8 false = .ok t → (∀ i < 16, s.poisoned (t.loc + 8 * i) 8 = false) →
         ∃ u, exec (.vld aw vd rs1 m) s = .next u ∧ loaded u 8 fun i => s.readWord (t.loc + 8 * i))
       ∧ (s.resolveAt s.cur.dev s.issuer va .writeOnly 8 false = .ok t → (∀ i < 16, s.noWaiterAt (t.loc + 8 * i)) →
         ∃ u, exec (.vst aw vd rs1 m) s = .next u ∧ stored u 8 (fun i => t.loc + 8 * i) 16))
     ∧ (va.toNat % 8 ≠ 0 ∨ 2 ^ 16 < va.toNat % 2 ^ 16 + 128 →
         ∀ i ∈ [Instr.vld aw vd rs1 m, .vst aw vd rs1 m], exec i s
           = .next (s.trap { cause := 0x02, tval := va.extractLsb' 0 64, vahi := va.extractLsb' 64 8 }))
     ∧ (∀ T : Nat → Target,
         ((∀ i < 128 / n, on i = true → s.ownPlace (lvl i) .readOnly n (T i) ∧ s.poisoned (T i).loc n = false) →
           ∃ u, exec (.vldx dw aw vd rs1 vs2 m) s = .next u
             ∧ loaded u n fun i => BitVec.ofNat (8 * n) (s.readMem (T i).loc n))
         ∧ ((∀ i < 128 / n, on i = true → s.ownPlace (lvl i) .writeOnly n (T i) ∧ s.noWaiterAt (T i).loc) →
             (∀ i < 128 / n, ∀ j < 128 / n, on i = true → on j = true → i ≠ j → (T i).loc + n ≤ (T j).loc ∨ (T j).loc + n ≤ (T i).loc) →
             ∃ u, exec (.vstx dw aw vd rs1 vs2 m) s = .next u ∧ stored u n (fun i => (T i).loc) (128 / n))))

/-- Slots of a Q4X block before slot k that an escape there still takes as its payload (R162). -/
def payloadAt (slot : Nat → Nat) : Nat → Nat
  | 0 => 0
  | k + 1 => if payloadAt slot k ≠ 0 then payloadAt slot k - 1 else if slot k = 8 ∧ k < 30 then 2 else 0

/-- The value of slot k of a Q4X block before the scale (R162): 0 in a payload slot and in an escape without room for its payload, the
E4M3 byte of an escape, else the signed nibble. -/
def slotValue (slot : Nat → Nat) (k : Nat) : FVal :=
  if payloadAt slot k ≠ 0 then FVal.zero
  else if slot k ≠ 8 then elemValue 9 (slot k)
  else if 30 ≤ k then FVal.zero
  else elemValue 3 (16 * slot (k + 1) + slot (k + 2))

/-- Block formats (R160 to R163, R218 to R220, R222): VDEQ takes each enabled lane from its element, by R162 for Q4X, scaled by the
block's byte and rounded once, with the flags of the enabled lanes, one NAN for each that is NaN, and one FORMAT for each escape
without room. VQUANT stores the codes and the scale byte of each block and 0 in every other byte, with no flag and the blocks' counts.
VQAPP enters the queue and the thread waits for it. A format code outside the forms traps ILLEGAL with fmt. -/
def Obligations.BlockFormats : Prop :=
  ∀ (s : State) (ty : VTy) (vd vs1 : VReg) (rs1 : Reg) (m : MReg), ty.isFloat = true → s.here.vqFull = false →
    s.fullAll [.v vs1, .m m, .v vd, .x rs1] →
    (let c := s.thread
     let f := (c.fmt.extractLsb' 24 4).toNat
     let g := VTy.fmt ty
     let w := ty.width
     let half := f = 7 ∨ f = 9 ∨ f = 10
     let on := fun (i : Nat) => (c.getM m).getLsbD i
     let code := fun (v : VWord) (i : Nat) => if half then (v.extractLsb' (4 * i) 4).toNat else (v.extractLsb' (8 * i) 8).toNat
     let scale := fun (v : VWord) (b : Nat) => (v.extractLsb' (8 * (64 + b)) 8).toNat
     let queued := fun (i : Instr) (v : VWord) (fl : VFlags) (n : Counts) => exec i s = .next (((s.onCore fun k =>
       { k with vq := k.vq ++ [.result s.cur.cid vd v fl n] }).onThread fun c => c.awaitV vd).retire)
     let o := (c.getX rs1).toNat
     let slots := fun (i : Nat) (k : Nat) => code (c.getV vs1) (32 * (i / 32) + k)
     let elem := fun (i : Nat) => (if f = 10 then slotValue (slots i) (i % 32) else elemValue f (code (c.getV vs1) i)).scaled
       (scale (c.getV vs1) (i / 32))
     let noRoom := fun (i : Nat) => f == 10 && slots i (i % 32) == 8 && payloadAt (slots i) (i % 32) == 0 && decide (30 ≤ i % 32)
     let res : Nat → FRes := fun i => match elem i with
       | .nan _ => (g.nan, 0)
       | .inf n => (g.signed n g.inf, 0)
       | .fin x => g.roundEx .ne x
     let count := fun (p : Nat → Bool) => ((List.range ty.lanes).filter fun i => on i && p i).length
     let block := fun (b : Nat) => (List.range 32).map fun k => if on (32 * b + k) then
       g.decode ((c.getV vs1).extractLsb' (w * (32 * b + k)) w).toNat else FVal.zero
     (f < 3 ∨ 10 < f → ∀ i ∈ [Instr.vquant ty vd vs1 m, .vdeq ty vd vs1 m],
       exec i s = .next (s.trap { cause := 0x00, tval := c.fmt }))
     ∧ (3 ≤ f → f ≤ 10 → ∃ v fl, lanesAre w on (c.getV vd) v (fun i => BitVec.ofNat w (res i).1)
         ∧ (∀ k, fl.getLsbD k = (List.range ty.lanes).any fun i => on i && (res i).2.getLsbD k)
         ∧ queued (.vdeq ty vd vs1 m) v fl ⟨0, count fun i => (elem i).isNaN, 0, count noRoom, 0⟩)
     ∧ (3 ≤ f → f ≤ 10 → ∃ v, queued (.vquant ty vd vs1 m) v 0
           (((List.range (ty.lanes / 32)).map fun b => (quantBlock f (block b)).2.2).foldl Counts.add Counts.zero)
         ∧ (∀ b < ty.lanes / 32, (∀ k < 32, code v (32 * b + k) = (quantBlock f (block b)).1.getD k 0)
             ∧ scale v b = (quantBlock f (block b)).2.1)
         ∧ (∀ j < 64, (if half then ty.lanes / 2 else ty.lanes) ≤ j → v.extractLsb' (8 * j) 8 = 0#8)
         ∧ ∀ j, 64 + ty.lanes / 32 ≤ j → j < 128 → v.extractLsb' (8 * j) 8 = 0#8)
     ∧ (f < 3 ∨ 9 < f → exec (.vqapp vs1 rs1 m) s = .next (s.trap { cause := 0x00, tval := c.fmt }))
     ∧ (3 ≤ f → f ≤ 9 → o % 64 ≠ 0 ∨ 0x40000 < o + 64 + 128 * (if half then 4 else 8) →
         exec (.vqapp vs1 rs1 m) s = .next (s.trap { cause := 0x00, tval := c.getX rs1 }))
     ∧ (3 ≤ f → f ≤ 9 → o % 64 = 0 → o + 64 + 128 * (if half then 4 else 8) ≤ 0x40000 →
         ∃ v, (∀ i < 32, v.extractLsb' (32 * i) 32 = if on i then (c.getV vs1).extractLsb' (32 * i) 32 else 0#32)
           ∧ exec (.vqapp vs1 rs1 m) s = .next ((s.onCore fun k =>
               { k with vq := k.vq ++ [.vqapp s.cur.cid v o (BitVec.ofNat 4 f)] }).onThread fun c =>
               { c with wait := some (.reply 0 .none) })))

/-- The largest floor(log2 |v|) of the finite values that are not 0 (R161). -/
def topLog (l : List FVal) (k : Int) : Prop :=
  (∃ y : Ex, FVal.fin y ∈ l ∧ y.n ≠ 0 ∧ y.e + Nat.log2 y.n = k) ∧ ∀ y : Ex, FVal.fin y ∈ l → y.n ≠ 0 → y.e + Nat.log2 y.n ≤ k

/-- The scale exponent X of a block and whether its bound was met, from the greatest exponent among its values, if any (R161). -/
def scaleOf (emax : Int) (l : List FVal) (x : Int) (ovf : Bool) : Prop :=
  ((∀ k, ¬ topLog l k) → x = -127 ∧ ovf = false)
  ∧ ∀ k, topLog l k → x = max (-127) (min 127 (k - emax)) ∧ ovf = decide (127 < k - emax)

/-- A value as a multiple of 2^q, for a q that is not above its exponent. -/
def multiple (q : Int) (y : Ex) : Int := (if y.neg then -1 else 1) * (y.n * 2 ^ (y.e - q).toNat : Nat)

/-- A code of a format stands for the nearest to y·2^(-x) among the values not above the largest finite magnitude, and for the even one of
two that are as near (R161, step 5). -/
def nearestCode (f : Nat) (x : Int) (y : Ex) (c : Nat) : Prop :=
  let bits := if f = 7 ∨ f = 9 ∨ f = 10 then 4 else if f = 5 ∨ f = 6 then 6 else 8
  let q := min (y.e - x) (-32)
  let away := fun (z : Ex) => (multiple q { y with e := y.e - x } - multiple q z).natAbs
  let dec := fun (c : Nat) => elemValue (if f = 10 then 9 else f) c
  let least := (f = 8 ∧ c = 128) ∨ ((f = 9 ∨ f = 10) ∧ c = 8)
  c < 2 ^ bits ∧ ¬ least ∧ ∃ z, dec c = .fin z ∧ (f ≤ 7 → z.neg = y.neg)
    ∧ ∀ c' < 2 ^ bits, ¬ ((f = 8 ∧ c' = 128) ∨ ((f = 9 ∨ f = 10) ∧ c' = 8)) → ∀ z', dec c' = .fin z' →
        away z ≤ away z' ∧ (away z = away z' → multiple q z ≠ multiple q z' → c % 2 = 0)

/-- A value n·2^e is at or beyond the point m·2^g from which it rounds beyond the largest finite magnitude; for E4M3, whose largest code
is even, it must be beyond. -/
def overLargest (f : Nat) (n : Nat) (e : Int) : Prop :=
  let p : Nat × Int := match f with
    | 3 => (29, 4) | 4 => (15, 12) | 5 => (15, 1) | 6 => (31, -2) | 7 => (7, 0) | 8 => (255, -7) | _ => (15, -1)
  let q := min e p.2
  let a := n * 2 ^ (e - q).toNat
  let b := p.1 * 2 ^ (p.2 - q).toNat
  if f = 3 then b < a else b ≤ a

/-- Quantisation of a block of 32 (R160, R161, R163, R170). For an MX format or INT4: X from the largest finite magnitude, the scale
byte X + 127, each code the nearest of its value over 2^X, an infinity the largest finite code and a NaN the format's NaN or 0; one
SAT for each infinity and each value that rounds beyond the largest magnitude, one NAN for each NaN, one SCALEOVF when X met its
bound. For Q4X: X from the others than the lowest largest element, which is escaped when it has room and does not fit. A token
appended at a scale that holds it takes its nearest code there, and the scale that it needs is taken, with REQUANT, where that is
greater. (The code of a negative value that rounds to zero, that of -0 where the format has one, is the model's choice, log entry 39.) -/
def Obligations.QuantisedBlocks : Prop :=
  (∀ (l : List FVal) (f : Nat) (x : Int) (ovf : Bool), l.length = 32 → 3 ≤ f → f ≤ 9 →
    scaleOf (match f with | 3 => 8 | 4 => 15 | 5 => 4 | 6 => 2 | 7 => 2 | 8 => 0 | _ => 2) l x ovf →
    (let r := quantBlock f l
     r.2.1 = (x + 127).toNat ∧ r.2.2.ovf = (if ovf then 1 else 0) ∧ r.2.2.fmt = 0 ∧ r.2.2.req = 0
     ∧ r.2.2.nan = (l.filter FVal.isNaN).length
     ∧ (∀ isBig : FVal → Bool, (∀ v, isBig v = true ↔ match v with
          | .inf _ => True
          | .nan _ => False
          | .fin y => overLargest f y.n (y.e - x)) → r.2.2.sat = (l.filter isBig).length)
     ∧ ∀ k v, l[k]? = some v → (let c := r.1.getD k 0
         match v with
         | .nan _ => c = (if f = 3 then 0x7F else if f = 4 then 0x7E else 0)
         | .inf n => c = (match f with
             | 3 => 0x7E | 4 => 0x7B | 5 => 0x1F | 6 => 0x1F | 7 => 7 | 8 => if n then 0x81 else 0x7F | _ => if n then 9 else 7)
               + if n then (match f with | 3 => 128 | 4 => 128 | 5 => 32 | 6 => 32 | 7 => 8 | _ => 0) else 0
         | .fin y => nearestCode f x y c)))
  ∧ (∀ (l : List FVal) (i : Nat) (y : Ex) (x : Int) (ovf : Bool), l.length = 32 → l[i]? = some (.fin y) →
      (∀ k z, l[k]? = some (.fin z) → (k < i → FVal.absLess (.fin z) (.fin y) = true) ∧ FVal.absLess (.fin y) (.fin z) = false) →
      scaleOf 2 (if (l.eraseIdx i).any fun v => v.log?.isSome then l.eraseIdx i else l) x ovf →
      (let r := quantBlock 10 l
       let escaped := i ≤ 29 ∧ overLargest 10 y.n (y.e - x)
       r.2.1 = (x + 127).toNat ∧ r.2.2.ovf = (if ovf then 1 else 0) ∧ r.2.2.nan = (l.filter FVal.isNaN).length
       ∧ (escaped → r.1.getD i 0 = 8 ∧ nearestCode 3 x y (16 * r.1.getD (i + 1) 0 + r.1.getD (i + 2) 0))
       ∧ ∀ k v, l[k]? = some v → ¬ (escaped ∧ (k = i ∨ k = i + 1 ∨ k = i + 2)) → (let c := r.1.getD k 0
           match v with
           | .nan _ => c = 0
           | .inf n => c = if n then 9 else 7
           | .fin z => nearestCode 10 x z c)))
  ∧ (∀ (f free s : Nat) (old : List Nat) (w : FVal) (x : Int) (ovf raised : Bool), 3 ≤ f → f ≤ 9 → s < 255 →
      (raised = true ↔ old = [] ∨ (∃ y, w = .fin y ∧ y.n ≠ 0) ∧ (s : Int) - 127 < x) →
      scaleOf (match f with | 3 => 8 | 4 => 15 | 5 => 4 | 6 => 2 | 7 => 2 | 8 => 0 | _ => 2) [w] x ovf →
      (let r := appendToken f free old s w
       let x' := if raised then x else (s : Int) - 127
       r.2.1 = (x' + 127).toNat ∧ r.1.length = old.length + 1 ∧ r.2.2.req = (if raised ∧ old ≠ [] then 1 else 0)
       ∧ (∀ y, w = .fin y → nearestCode f x' y (r.1.getD old.length 0))
       ∧ (raised = false → r.1.take old.length = old)
       ∧ (raised = true → ∀ k c y, old[k]? = some c → elemValue f c = .fin y →
           nearestCode f x' { y with e := y.e + ((s : Int) - 127) } (r.1.getD k 0))))

/-- The completion of a vector instruction (R202): the oldest entry leaves the queue, fills its destination, ORs its flags into
vflags and adds its counts to mcnt. -/
def Piece.VectorCompletions : Prop :=
  ∀ (s : State) (cid : Nat) (vd : VReg) (v : VWord) (fl : VFlags) (n : Counts) (l : List VJob), cid ≠ noCid →
    s.here.vq = .result cid vd v fl n :: l →
    ∃ u, exec .vectorCompletion s = .next u ∧ u.here.vq = l
      ∧ (let a := s.ctx s.cur.dev cid
         let b := u.ctx s.cur.dev cid
         b.getV vd = v ∧ b.fullV vd = true ∧ b.vflags = a.vflags ||| fl.setWidth 64 ∧ b.mcnt = addCounts a.mcnt n
         ∧ SameRegs (fun o => o == .v vd) a b ∧ b.pc = a.pc ∧ SameMemory s u)

/-- Special cases of float operations, and the rounding of numbers that a format has (R153 to R156, R206). -/
def Obligations.FloatRounding : Prop :=
  Piece.FloatSpecialCases ∧ Piece.RoundingKeepsNumbers

/-- Moves, comparisons and reductions of lanes (R158, R201, R209 to R214). -/
def Obligations.LanesAndTrees : Prop :=
  Piece.LaneMoves ∧ Piece.ReductionTrees

/-! ## The matrix unit (R223 to R245) -/

/-- The push of a tile command (R229 to R232, R235, R242): on a visible compute core, with its registers full, no earlier counting
command or pending count trap, operands that are aligned and inside local storage, energy, and a free queue place, the command
enters the matrix queue behind what its thread has outstanding on the device (R140), a split load and open stores, those in the
journals of cores it has left among them (R322); xd is emptied, the energy is charged and the pc advances by
the eight words. An unaligned or too long
operand, the first that fails deciding, traps MISALIGN or ILLEGAL with its offset. -/
def Obligations.TilePushes : Prop :=
  ∀ (s : State) (c : TileCmd), s.cur.vcn < 4608 → s.fullAll [.x c.base, .x c.xd] → s.here.counting s.cur.cid = false →
    s.thread.mcp = none →
    (let x := s.thread
     let refill := (s.here.erefill.extractLsb' 0 32).toNat
     let budget := (x.ebudget.extractLsb' 0 32).toNat
     ∀ i ∈ [(Instr.mma c, TileOp.mma), (.mmaz c, .mmaz), (.maccst c, .maccst), (.maccld c, .maccld), (.mpack c, .mpack),
            (.mxpose c, .mxpose), (.mzero c, .mzero)],
       (c.shadow = false ∨ x.shadowOk i.2 c = true) →
       (let j := x.resolveTile s.cur.cid i.2 c
        let cost := 2 ^ c.ec.toNat * j.occ
        let ok := fun (p : Nat × Nat × Nat) => p.1 % p.2.1 = 0 ∧ p.1 + p.2.2 ≤ 0x40000
        ((∀ p ∈ j.operands, ok p) → (refill = 0 ∨ cost ≤ refill ∧ cost ≤ budget ∨ refill < cost ∧ budget = refill) → s.here.mq.length < 2 →
          exec i.1 s = .next ((s.onCore fun k => { k with mq := k.mq ++ [.tile { j with
            stores := (s.cores.filter fun p => p.1 / 8192 == s.cur.dev).flatMap fun p =>
              (p.2.journal.filter fun q => q.2.isOpen s.cur.cid && decide (q.2.kind < 5)).map fun q => (p.1 % 8192, q.1)
            split := x.split.isSome }] }).onThread fun y =>
            { y.awaitX c.xd with
              pc := y.pc + 32
              ebudget := BitVec.ofNat 64 (if refill = 0 then budget else if cost ≤ refill then budget - cost else 0) }))
        ∧ (∀ l p l', j.operands = l ++ p :: l' → (∀ q ∈ l, ok q) →
            (p.1 % p.2.1 ≠ 0 → exec i.1 s = .next (s.trap { cause := 0x02, tval := BitVec.ofNat 64 p.1 }))
            ∧ (p.1 % p.2.1 = 0 → 0x40000 < p.1 + p.2.2 → exec i.1 s = .next (s.trap { cause := 0x00, tval := BitVec.ofNat 64 p.1 })))
        ∧ (c.shadow = false → j.pa = c.pm1.toNat + 1 ∧ j.pb = c.pm2.toNat + 1 ∧ j.o1 = (x.getX c.base).toNat + c.off1.toNat
            ∧ j.o2 = (x.getX c.base).toNat + c.off2.toNat ∧ j.ofmt = c.ofmt ∧ j.ifmt = c.ifmt ∧ j.kb = c.kb.toNat ∧ j.tile = c.tile)))

/-- What a tile command computes when it reaches the head of the queue and no input is poisoned (R233, R236 to R241): MZERO clears
its tile; MACCLD loads 1,024 values of 14 bytes; MMAZ over one block pair gives every element the rounded product of its rows, whose
planes weigh 2^b and the last −2^(p−1), with their exponents, and MMA adds that to the element; a raw MACCST stores the 14 bytes of
each element; MXPOSE of natural elements stores element (c, r) at (r, c); MPACK stores the planes and the exponent of each row. The
command moves to the completions with status 0, once nothing of its thread is outstanding (R140). -/
def Piece.TileExecutions : Prop :=
  ∀ (s : State) (j : TileJob) (q : List MJob), s.here.mq = .tile j :: q → s.here.accBad = [] → s.poison = [] →
    rising (s.here.acc.map (·.1)) = true →
    s.cur.part = [] → j.stores = [] → j.split = false → j.got = [] → j.out = none → s.waiters = [] → s.canonical = true →
    (∀ p ∈ j.operands, p.1 % p.2.1 = 0 ∧ p.1 + p.2.2 ≤ 0x40000) →
    (let l := lsLoc s.cur.dev s.cur.vcn 0
     let row := fun (o p r k : Nat) => (List.range p).foldl (fun (z : Int) b =>
       z + (if b + 1 = p then -1 else 1) * 2 ^ b * (s.readMem (l + o + 128 * b + 4 * r) 4 / 2 ^ k % 2 : Nat)) 0
     let ex := fun (o r : Nat) => (BitVec.ofNat 8 (s.readMem (l + o + r) 1)).toInt
     let product := fun (i c : Nat) => (List.range 32).foldl (fun z k => z + row j.o1 j.pa i k * row j.o2 j.pb c k) 0
     let completes := fun (u : State) => ∃ n, exec .tileCommandExecution s = .next u ∧ u.here.mq = q
       ∧ u.here.mdone = s.here.mdone ++ [⟨j.cid, j.ctrap, j.xd, j.op, 0, n⟩]
     let stores := fun (u : State) (n : Nat) => completes u ∧ u.here.acc = s.here.acc
       ∧ ∀ a, a < l + j.o1 ∨ l + j.o1 + n ≤ a → u.byteAt a = s.byteAt a
     let done := fun (f : Nat → Nat → A96) => ∃ u, completes u
       ∧ (∀ i < 32, ∀ c < 32, u.here.elem j.tile i c = f i c) ∧ SameMemory s u
     (j.op = .mzero → done fun _ _ => A96.zero)
     ∧ (j.op = .maccld → done fun i c => (round96 (s.readA96 (l + j.o1 + 14 * (32 * i + c))).int (s.readA96 (l + j.o1 + 14 * (32 * i + c))).exp).1)
     ∧ (1 ≤ j.pa → 1 ≤ j.pb → j.kb = 1 →
         (j.op = .mmaz → done fun i c => (A96.zero.addScaled (product i c) (ex j.o3 i + ex j.o4 c)).1)
         ∧ (j.op = .mma → done fun i c => ((s.here.elem j.tile i c).addScaled (product i c) (ex j.o3 i + ex j.o4 c)).1))
     ∧ (j.op = .maccst → j.ofmt = 12#4 → ∃ u, stores u 14336 ∧ ∀ i < 32, ∀ c < 32,
         (∀ k < 12, u.byteAt (l + j.o1 + 14 * (32 * i + c) + k) = (s.here.elem j.tile i c).q.extractLsb' (8 * k) 8)
         ∧ ∀ k < 2, u.byteAt (l + j.o1 + 14 * (32 * i + c) + 12 + k) = (s.here.elem j.tile i c).x.extractLsb' (8 * k) 8)
     ∧ (∀ n, j.op = .mxpose → j.ifmt ≠ 11#4 → elemBits j.ifmt = 8 * n → ∃ u, stores u (1024 * n) ∧ ∀ r < 32, ∀ c < 32, ∀ k < n,
         u.byteAt (l + j.o1 + n * (32 * r + c) + k) = s.byteAt (l + j.o2 + n * (32 * c + r) + k))
     ∧ (j.op = .mpack → j.o1 + 128 * j.pa ≤ j.o3 →
         (let row := fun (i : Nat) => planeBlock j.pa ((decodeBlock j.ifmt.toNat (s.rowCodes (l + j.o2 + i * j.s2) j.ifmt)
            (if hasScale j.ifmt then s.readMem (l + j.o4 + i) 1 else 127)).map (·.1))
          ∃ u, completes u ∧ u.here.acc = s.here.acc ∧ ∀ i < 32,
            (∀ p < j.pa, ∀ k < 32, (u.readMem (l + j.o1 + 128 * p + 4 * i) 4).testBit k
              = decide (((row i).1.getD k 0 / 2 ^ p) % 2 = 1))
            ∧ u.byteAt (l + j.o3 + i) = BitVec.ofInt 8 (row i).2.1)))

/-- round96 (R167): 0 is the canonical zero, and an integer that 96 bits hold, at an exponent well inside the range, is kept
exactly, as a multiple 2^k of itself at an exponent lower by k, without an overflow. -/
def Piece.RoundExactly : Prop :=
  (∀ e : Int, round96 0 e = (A96.zero, false))
  ∧ (∀ z e : Int, z ≠ 0 → -(2 ^ 95) ≤ z → z < 2 ^ 95 → -32000 ≤ e → e ≤ 32000 →
      ∃ k : Nat, (round96 z e).1.int = z * 2 ^ k ∧ (round96 z e).1.exp = e - k ∧ (round96 z e).2 = false)

/-- Rows of the accumulator (R223 to R225): VMOVA empties vd and enters the matrix queue, VMOVAW enters it with its row; a row
index above 31 traps ILLEGAL with the index, and a full queue stalls the position. That a core above VCN 4607, which has no matrix
unit, traps ILLEGAL is the model's choice (log entry 24); no rule says it. -/
def Obligations.AccumulatorRows : Prop :=
  ∀ (s : State) (ty : VTy) (vd : VReg) (acc : Tile) (rs1 : Reg), s.fullAll [.x rs1, .v vd] →
    (let i := s.thread.getX rs1
     (4608 ≤ s.cur.vcn → ∀ q ∈ [Instr.vmova ty vd acc rs1, .vmovaw ty acc rs1 vd], exec q s = .next s.illegal)
     ∧ (s.cur.vcn < 4608 → 31 < i.toNat → ∀ q ∈ [Instr.vmova ty vd acc rs1, .vmovaw ty acc rs1 vd],
         exec q s = .next (s.trap { cause := 0x00, tval := i }))
     ∧ (s.cur.vcn < 4608 → i.toNat ≤ 31 → s.here.mq.length < 2 →
         exec (.vmova ty vd acc rs1) s = .next (((s.onCore fun k => { k with mq := k.mq ++ [.mova s.cur.cid ty vd acc i.toNat] }).onThread
           fun c => c.awaitV vd).retire)
         ∧ exec (.vmovaw ty acc rs1 vd) s = .next ((s.onCore fun k =>
             { k with mq := k.mq ++ [.movaw s.cur.cid ty acc i.toNat (s.thread.getV vd)] }).retire))
     ∧ (s.cur.vcn < 4608 → i.toNat ≤ 31 → 2 ≤ s.here.mq.length →
         ∀ q ∈ [Instr.vmova ty vd acc rs1, .vmovaw ty acc rs1 vd], exec q s = .next s.stall))

/-- The completion of a VQAPP (R170, R222): a header of 32 or more traps ILLEGAL with it, and the record stays; else each column takes
its token behind those it had, with its scale, the header counts it, no other byte changes, the counts go to mcnt and the thread goes
on. Two clauses are the model's choice, and no rule says them: a record with an uncorrectable error traps NACK 5 and stays (log entry
44); and in a column whose scale byte is 0xFF, to which R170 gives no exponent, a finite token takes a free code of its format, the
scale and the codes that are there stay, and nothing is counted (log entry 23). -/
def Piece.AppendCompletions : Prop :=
  ∀ (s : State) (cid o : Nat) (w : VWord) (f : BitVec 4) (l : List VJob), cid ≠ noCid → s.here.vq = .vqapp cid w o f :: l →
    s.waiters = [] → s.canonical = true → 3 ≤ f.toNat → f.toNat ≤ 9 →
    o % 64 = 0 → o + 64 + 128 * (if f = 7#4 ∨ f = 9#4 then 4 else 8) ≤ 0x40000 →
    (let rec_ := lsLoc s.cur.dev s.cur.vcn o
     let bits := if f = 7#4 ∨ f = 9#4 then 4 else 8
     let h := s.readWord rec_
     let a := s.ctx s.cur.dev cid
     let traps := fun (cause : Nat) (v : Word) (sub : Nat) => ∃ u, exec .vectorCompletion s = .next u ∧ u.here.vq = l
       ∧ (u.ctx s.cur.dev cid).tcause = BitVec.ofNat 64 cause ∧ (u.ctx s.cur.dev cid).tval = v
       ∧ (u.ctx s.cur.dev cid).tstat.extractLsb' 0 8 = BitVec.ofNat 8 sub ∧ SameMemory s u
     let code := fun (s : State) (j t : Nat) => if bits = 4 then (s.byteAt (rec_ + 64 + 16 * j + t / 2)).toNat / 16 ^ (t % 2) % 16
       else (s.byteAt (rec_ + 64 + 32 * j + t)).toNat
     (s.poisoned rec_ (64 + 128 * bits) = true → traps 0x05 (BitVec.ofNat 64 o) 5)
     ∧ (s.poisoned rec_ (64 + 128 * bits) = false → 32 ≤ h.toNat → traps 0x00 h 0)
     ∧ (s.poisoned rec_ (64 + 128 * bits) = false → h.toNat < 32 →
         (let col := fun (j : Nat) => appendToken f.toNat (freeCode f.toNat (Config.unscaled f.toNat (w.extractLsb' (32 * j) 32).toNat))
            ((List.range h.toNat).map (code s j)) (s.byteAt (rec_ + 8 + j)).toNat (fp32.decode (w.extractLsb' (32 * j) 32).toNat)
          ∃ u, exec .vectorCompletion s = .next u ∧ u.here.vq = l ∧ u.readWord rec_ = h + 1
            ∧ (∀ j < 32, (∀ t ≤ h.toNat, code u j t = (col j).1.getD t 0) ∧ u.byteAt (rec_ + 8 + j) = BitVec.ofNat 8 (col j).2.1)
            ∧ (∀ x, x < rec_ ∨ rec_ + 64 + 128 * bits ≤ x → u.byteAt x = s.byteAt x)
            ∧ (u.ctx s.cur.dev cid).mcnt = addCounts a.mcnt (((List.range 32).map fun j => (col j).2.2).foldr Counts.add Counts.zero)
            ∧ (a.wait = some (.reply 0 .none) → a.place = .resident → (u.ctx s.cur.dev cid).pc = a.pc + 4
                ∧ (u.ctx s.cur.dev cid).wait = none))))

/-- The completion of a tile command (R234, R243, R244): in one step xd is filled with the status word, the counts are added to
mcnt, and a crossing of the threshold is marked for a command that counts. -/
def Piece.TileCompletions : Prop :=
  ∀ (s : State) (t : TileDone) (l : List TileDone), s.here.mdone = t :: l → t.cid ≠ noCid →
    ∃ u, exec .tileCommandCompletion s = .next u ∧ u.here.mdone = l
      ∧ (let a := s.ctx s.cur.dev t.cid
         let b := u.ctx s.cur.dev t.cid
         b.getX t.xd = (if t.xd = 0#5 then 0 else t.word) ∧ b.fullX t.xd = true ∧ b.mcnt = addCounts a.mcnt t.counts
         ∧ (t.ctrap = false → b.mcp = a.mcp)
         ∧ (t.ctrap = true → ∀ n, crossing a.mcnt a.mthr t.counts = some n → b.mcp = some (BitVec.ofNat 8 n))
         ∧ SameRegs (fun o => o == .x t.xd) a b ∧ b.pc = a.pc ∧ SameMemory s u)

/-- Completions of the vector and of the matrix unit (R170, R202, R222, R234, R243, R244). -/
def Obligations.UnitCompletions : Prop :=
  Piece.VectorCompletions ∧ Piece.AppendCompletions ∧ Piece.TileCompletions

/-- What tile commands compute, and round96 (R167, R233, R236 to R241). -/
def Obligations.MatrixArithmetic : Prop :=
  Piece.TileExecutions ∧ Piece.RoundExactly

/-! ## Contexts, translation caches and withdrawals (R37 to R39, R271, R317 to R327) -/

/-- CTXSAVE (R318 to R320), whose descriptor names the operation; JREAD and JRETIRE are the same words. Every operation needs an area
that is a multiple of 64 (else MISALIGN) in global space (else ILLEGAL). SAVE of an EMPTY position answers 1; while the position has
vector or tile work it is paused and the instruction waits; of an occupied one whose image can be written it empties the position,
leaves the context SAVED at the area and answers 0. JREAD of a free entry answers 3, and of another posts stores of its eight dwords to the area and answers 0. JRETIRE answers 3 for a free
entry and 2 for one that waits for its acknowledgement, and frees a refused one with answer 0. A malformed descriptor traps ILLEGAL. -/
def Obligations.ContextSaves : Prop :=
  ∀ (s : State) (rd rs1 rs2 : Reg) (i : Nat), s.thread.sup = true → s.quiet → s.thread.sent = 0 → s.fullAll [.x rs1, .x rs2, .x rd] → i < 64 →
    ∀ q ∈ [Instr.ctxsave rd rs1 rs2, .jread rd rs1 rs2, .jretire rd rs1 rs2],
    (let d := s.thread.getX rs1
     let area : VA := s.thread.aw[0] ++ s.thread.getX rs2
     let code := fun (u : State) (n : Word) => (Host.Outcome.next ((u.setX rd n).retire) : Out)
     let entry := Table.find s.here.journal i
     (d.extractLsb' 22 42 ≠ 0#42 ∨ d.extractLsb' 6 4 ≠ 0#4 ∨ d.extractLsb' 4 2 = 3#2 ∨ (d.toNat = s.cur.pos ∧ s.cur.pos < 8) →
       exec q s = .next (s.trap { cause := 0x00, tval := d }))
     ∧ ((d = BitVec.ofNat 64 (32 + 1024 * i) ∨ d = BitVec.ofNat 64 (16 + 1024 * i) ∨ (d.toNat < 8 ∧ d.toNat ≠ s.cur.pos)) →
         (area.toNat % 64 ≠ 0 → exec q s
           = .next (s.trap { cause := 0x02, tval := area.extractLsb' 0 64, vahi := area.extractLsb' 64 8 }))
         ∧ (area.toNat % 64 = 0 → area.getLsbD 71 = true → exec q s = .next (s.trap { cause := 0x00, tval := s.word })))
     ∧ (d = BitVec.ofNat 64 (32 + 1024 * i) → area.toNat % 64 = 0 → area.getLsbD 71 = false →
         (entry = none → exec q s = code s 3)
         ∧ (∀ e, entry = some e → e.ref = none → exec q s = code s 2)
         ∧ (∀ e, entry = some e → e.ref ≠ none →
             exec q s = code (s.onCore fun k => { k with journal := Table.erase k.journal i }) 0))
     ∧ (d = BitVec.ofNat 64 (16 + 1024 * i) → area.toNat % 64 = 0 → area.getLsbD 71 = false →
         (entry = none → exec q s = code s 3)
         ∧ (∀ e t, entry = some e → e.kind < 5 → s.resolveAt s.cur.dev s.issuer area .write 8 false = .ok t →
             (∀ k < 8, isOwn s.cur.dev s.cur.vcn (t.loc + 8 * k) = false) →
             8 ≤ ((List.range 64).filter fun k => (Table.find s.here.journal k).isNone).length →
             ∃ (u : State) (l : List Req), exec q s = .next u ∧ u.thread.getX rd = 0 ∧ u.thread.pc = s.thread.pc + 4 ∧ SameMemory s u
               ∧ u.net = s.net ++ l.map Msg.req ∧ l.map (·.loc) = (List.range 8).map (fun k => some (t.loc + 8 * k))
               ∧ ∃ w1 w3 : Word, l.map (·.acc) = [e.va.extractLsb' 0 64, w1, e.data, w3, 0, 0, 0, 0].map (Acc.store 8)
                 ∧ w1.getLsbD 63 = e.ref.isSome ∧ w3.extractLsb' 0 24 = BitVec.ofNat 24 e.cid))
     ∧ (∀ p < 8, p ≠ s.cur.pos → d = BitVec.ofNat 64 p → area.toNat % 64 = 0 → area.getLsbD 71 = false →
         (let pauses := fun (b : Bool) => s.onCore fun k =>
            { k with paused := if b then p :: k.paused.filter (· ≠ p) else k.paused.filter (· ≠ p) }
          ((s.pos s.cur.dev s.cur.vcn p).st = .empty → exec q s = code (pauses false) 1)
          ∧ ∀ cid, (s.pos s.cur.dev s.cur.vcn p = ⟨.running, cid⟩ ∨ s.pos s.cur.dev s.cur.vcn p = ⟨.parked, cid⟩) →
              s.busy s.cur.dev s.cur.vcn cid = true → exec q s = .next ((pauses true).park (.pos p)))
         ∧ (∀ cid u, (s.pos s.cur.dev s.cur.vcn p = ⟨.running, cid⟩ ∨ s.pos s.cur.dev s.cur.vcn p = ⟨.parked, cid⟩) →
             s.busy s.cur.dev s.cur.vcn cid = false →
             s.saveImage s.cur.dev s.cur.vcn area (s.imageOf s.cur.dev cid) 48 = .done u →
             ∃ t, exec q s = .next t ∧ t.thread.getX rd = 0 ∧ t.pos s.cur.dev s.cur.vcn p = ⟨.empty, 0⟩
               ∧ (t.ctx s.cur.dev cid).place = .saved ∧ (t.ctx s.cur.dev cid).area = area)))

/-- CTXLOAD and MIGRC (R321, R322). CTXLOAD of a header without V answers 1, of a context that is not SAVED there 2, and of one that
is, and whose other lines can be read, answers 0: the context is what its image says from then on, and it goes to the tail of the run
queue unless the image names a wait that is not over. MIGRC of an EMPTY position answers 1, to a target that refuses 2, with sixteen
forwarding entries 3, of a context that may not move 4, and the position goes on; while the position has vector or tile work it is
paused and the instruction waits; otherwise it moves the context to the target. That the lower of MIGRC's codes is answered where
several apply is the model's choice (log entry 57); R322 gives no order. -/
def Obligations.ContextMoves : Prop :=
  ∀ (s : State) (rd rs1 rs2 : Reg) (t : Target) (line : Nat → Target), s.thread.sup = true → s.quiet →
    s.fullAll [.x rs1, .x rs2, .x rd] →
    (let va : VA := s.thread.aw[0] ++ s.thread.getX rs1
     let reads := fun (a : VA) (t : Target) =>
       (let load := s.reqOf s.cur.dev a (some t) (.load 8 false)
        s.resolveAt s.cur.dev s.issuer a .readOnly 8 false = .ok t ∧ s.refusal load t.loc = none ∧ s.moveHolds load t.loc = none)
     let h := s.seen (s.reqOf s.cur.dev va (some t) (.load 8 false)) (s.atPort t.loc)
     let cid := (h.extractLsb' 0 24).toNat
     let img := s.fromImage s.cur.dev cid
     let code := fun (n : Word) => (Host.Outcome.next ((s.setX rd n).retire) : Out)
     let a := s.thread.getX rs1
     let b := s.thread.getX rs2
     let paused := fun (b : Bool) => s.onCore fun k =>
       { k with paused := if b then a.toNat :: k.paused.filter (· ≠ a.toNat) else k.paused.filter (· ≠ a.toNat) }
     let q := s.pos s.cur.dev s.cur.vcn a.toNat
     let c := s.ctx s.cur.dev q.cid
     let stays := fun (n : Word) =>
       (Host.Outcome.next (((s.unpause s.cur.dev s.cur.vcn a.toNat q.cid).setX rd n).retire) : Out)
     (va.toNat % 64 = 0 → reads va t →
       (h.getLsbD 63 = false → exec (.ctxload rd rs1) s = code 1)
       ∧ (h.getLsbD 63 = true → s.savedHere cid va = false → exec (.ctxload rd rs1) s = code 2)
       ∧ (h.getLsbD 63 = true → s.savedHere cid va = true → cid ≠ s.cur.cid →
           (∀ k < 47, reads (vaAdd va (64 * (k + 1))) (line k)) →
           (img.wait = none → ∃ u, exec (.ctxload rd rs1) s = .next u ∧ u.thread.getX rd = 0 ∧ u.here.runq = s.here.runq ++ [cid]
             ∧ u.ctx s.cur.dev cid = { img with place := .runq s.device.cycle })
           ∧ (∀ w l, img.wait = some (.again (.tick w) l) → s.device.cycle < w.toNat →
             ∃ u, exec (.ctxload rd rs1) s = .next u ∧ u.thread.getX rd = 0 ∧ u.here.runq = s.here.runq
               ∧ u.ctx s.cur.dev cid = { img with place := .evicted })))
     ∧ (a.toNat < 8 → b.toNat ≤ 4607 → b.toNat ≠ s.cur.vcn →
         (q.st = .empty → exec (.migrc rd rs1 rs2) s = .next (((paused false).setX rd 1).retire))
         ∧ ((q.st = .running ∨ q.st = .parked) →
             (s.migrRefused s.cur.dev b.toNat c = true → exec (.migrc rd rs1 rs2) s = stays 2)
             ∧ (s.migrRefused s.cur.dev b.toNat c = false →
                 (16 ≤ s.here.fwd.length → exec (.migrc rd rs1 rs2) s = stays 3)
                 ∧ (s.here.fwd.length < 16 → c.pinned = true → exec (.migrc rd rs1 rs2) s = stays 4)
                 ∧ (s.here.fwd.length < 16 → c.pinned = false → s.busy s.cur.dev s.cur.vcn q.cid = true →
                     exec (.migrc rd rs1 rs2) s = .next ((paused true).park (.pos a.toNat)))
                 ∧ (s.here.fwd.length < 16 → c.pinned = false → s.busy s.cur.dev s.cur.vcn q.cid = false → s.waiters = [] →
                     ∃ u, exec (.migrc rd rs1 rs2) s = .next u ∧ u.thread.getX rd = 0
                       ∧ u.pos s.cur.dev s.cur.vcn a.toNat = ⟨.empty, 0⟩ ∧ (u.ctx s.cur.dev q.cid).core = b.toNat))))
     ∧ (8 ≤ a.toNat → exec (.migrc rd rs1 rs2) s = .next (s.trap { cause := 0x00, tval := a }))
     ∧ (a.toNat < 8 → 4607 < b.toNat ∨ b.toNat = s.cur.vcn → exec (.migrc rd rs1 rs2) s = .next (s.trap { cause := 0x00, tval := b })))

/-- TLBI (R39): with a well-formed descriptor it drops the named entries, of the own cluster for the scopes up to cluster and of the
whole device for device scope. It answers 0 once no walk there that began before the drop is in progress, and until then the thread
is parked with the drop made. That such a walk goes on to its end, with its leaf not cached, and that a walk which still waits for a
walker has not begun, is the model's reading (log entry 12). SCRUB of 64 bytes of the own local storage leaves zeros with every word full (R326);
of a length 0 it does nothing. MARK without marks retires (R327), and with them counts one trace record. -/
def Obligations.CachesAndScrubs : Prop :=
  ∀ (s : State) (rd rs1 rs2 : Reg) (w : BitVec 2) (t : Target), s.quiet → s.fullAll [.x rs1, .x rs2, .x rd] →
    (let c := s.thread
     let va : VA := (c.aw[w.toNat]'w.isLt) ++ c.getX rs1
     let va0 : VA := c.aw[0] ++ c.getX rs1
     let d := c.getX rs2
     let scope := (d.extractLsb' 0 3).toNat
     let kind := d.extractLsb' 4 2
     let own := fun (cluster : Nat) => decide (3 ≤ scope) || cluster == clusterOf s.cur.vcn
     let hit := fun (e : TlbEntry) =>
       if kind = 0#2 then e.tenant == (d.extractLsb' 8 8).toNat && !va.getLsbD 71 && e.page == va.toNat % 2 ^ 71 / 2 ^ e.bits * 2 ^ e.bits
       else if kind = 1#2 then e.tenant == (d.extractLsb' 8 8).toNat else true
     let walking := fun (l : List Walk) => l.any fun x => x.stale && x.ended.isNone && own x.cluster
     let kept := s.device.tlb.filter fun e => !(hit e && own e.cluster)
     let began := s.device.walks.map fun x =>
       if own x.cluster ∧ x.ended = none ∧ x.table ≠ none then { x with stale := true } else x
     let answers := fun (u : State) => u.thread.getX rd = 0 ∧ u.thread.pc = c.pc + 4 ∧ u.thread.sent = 0
     (c.sup = true → d.extractLsb' 16 48 = 0#48 → d.extractLsb' 6 2 = 0#2 → d.getLsbD 3 = false → kind ≠ 3#2 → scope ≤ 3 →
       (kind = 2#2 → d.extractLsb' 8 8 = 0#8) → rising (s.devs.map (·.1)) = true →
       (c.sent = 0 → ∃ u, exec (.tlbi w rd rs1 rs2) s = .next u ∧ u.device.tlb = kept ∧ u.device.walks = began
         ∧ (walking began = false → answers u)
         ∧ (walking began = true → u.thread.wait = some (.again (.walks scope) s.cur.words) ∧ u.thread.pc = c.pc ∧ u.thread.sent = 1))
       ∧ (c.sent = 1 → walking s.device.walks = false → ∃ u, exec (.tlbi w rd rs1 rs2) s = .next u ∧ answers u ∧ u.devs = s.devs)
       ∧ (c.sent = 1 → walking s.device.walks = true → exec (.tlbi w rd rs1 rs2) s = .next (s.park (.walks scope))))
     ∧ (c.sup = true → va0.toNat % 64 = 0 → c.sent = 0 →
         (d = 0 → exec (.scrub rs1 rs2) s = .next s.retire)
         ∧ (d = 64 → (∀ k < 8, s.resolveAt s.cur.dev s.issuer (c.aw[0] ++ (c.getX rs1 + BitVec.ofNat 64 (8 * k))) .writeOnly 8 false = .ok ⟨t.loc + 8 * k, t.feOk⟩) →
             t.loc % 8 = 0 → (∀ k < 8, isOwn s.cur.dev s.cur.vcn (t.loc + 8 * k) = true ∧ s.noWaiterAt (t.loc + 8 * k)) →
             ∃ u, exec (.scrub rs1 rs2) s = .next u ∧ u.thread.pc = c.pc + 4
               ∧ (∀ k < 64, u.byteAt (t.loc + k) = 0#8 ∧ u.full (t.loc + k) = true)
               ∧ ∀ a, a < t.loc ∨ t.loc + 64 ≤ a → u.byteAt a = s.byteAt a ∧ u.full a = s.full a))
     ∧ (s.here.obs.marking = false → exec (.mark rs1) s = .next s.retire)
     ∧ (s.here.obs.marking = true → ∃ u, exec (.mark rs1) s = .next u ∧ u.here.obs.count = s.here.obs.count + 1))

/-- TCANCEL (R271): a handle of a core that is reached, with no send to that core unanswered, leaves as a request to withdraw the
record, rd waits for the answer, and the thread parks; a handle of an idle core traps ILLEGAL. The request at its target withdraws
a waiting record that asks for no reply and waits in an unordered channel and answers 0. That a handle of a device outside the domain
traps NACK 6, and that a request waits while the turn of this tick, which may dispatch the record, is still to come, is the model's
reading (log entry 62). -/
def Piece.Withdrawals : Prop :=
  ∀ (s : State) (rd rs1 : Reg), s.quiet → s.fullAll [.x rs1, .x rd] →
    (let h := s.thread.getX rs1
     let dev := (h.extractLsb' 13 12).toNat
     let vcn := (h.extractLsb' 0 13).toNat
     let seq := (h.extractLsb' 25 39).toNat
     (vcn = 0x1FFF → exec (.tcancel rd rs1) s = .next s.illegal)
     ∧ (vcn ≠ 0x1FFF → s.inDomain s.cur.dev dev = false → exec (.tcancel rd rs1) s = .next (s.trap { cause := 0x05, tval := h, sub := 6 }))
     ∧ (vcn ≠ 0x1FFF → s.inDomain s.cur.dev dev = true → s.reachable s.cur.dev dev = true →
         ∃ u, exec (.tcancel rd rs1) s = .next u ∧ u.net = s.net ++ [.cancel s.issuer h]
           ∧ u.pos s.cur.dev s.cur.vcn s.cur.pos = ⟨.parked, s.cur.cid⟩ ∧ u.thread.pc = s.thread.pc
           ∧ (rd ≠ 0#5 → u.thread.fullX rd = false) ∧ SameMemory s u)
     ∧ (∀ n who, s.net[n]? = some (.cancel who h) → s.turnDue dev vcn = true ∨ s.turnDue who.dev who.vcn = true →
         exec (.homeService n) s = .next s)
     ∧ (∀ n who i r, s.net[n]? = some (.cancel who h) → s.turnDue dev vcn = false → s.turnDue who.dev who.vcn = false →
         (s.core dev vcn).fenced = false → (s.core dev vcn).failed = false →
         (s.core dev vcn).inbox[i]? = some r → r.record.seq = seq → r.record.sdev = who.dev → r.record.svcn = who.vcn → r.mark = none →
         r.trap = false → r.record.anti = false → r.record.reply = false → r.ch < 63 → ((s.core dev vcn).chan r.ch).isOrd = false →
         (∀ j q, j < i → (s.core dev vcn).inbox[j]? = some q → q.record.seq ≠ seq) →
         ∃ u, exec (.homeService n) s = .next u ∧ (u.core dev vcn).inbox = (s.core dev vcn).inbox.eraseIdx i
           ∧ u.net = s.net.eraseIdx n ++ [.ans (coreKey dev vcn) who .reply (.vals [0])]))

/-! ## Messages in flight (R48, R96 to R99, R104, R131, R134, R199, R266, R272, R324, R336) -/

/-- Message n is an access that its home may take up: translated, not refused (R24, R336, R354, R356) and not held by a page move (R41); no
access waits for its words. -/
def takenUp (s : State) (n : Nat) (r : Req) (l : Nat) : Prop :=
  s.canonical = true ∧ s.net[n]? = some (.req r) ∧ r.loc = some l ∧ r.route ≠ .nowhere ∧ s.refusal r l = none
    ∧ s.moveHolds r l = none ∧ s.noWaiterAt l ∧ s.noWaiterAt (l + 8)

/-- The home has served message n: it has left the network, and its answer is on its way from the home to where it goes. -/
def servedWith (s : State) (n : Nat) (r : Req) (l : Nat) (u : State) (a : Ans) : Prop :=
  exec (.homeService n) s = .next u ∧ u.waiters = s.waiters
    ∧ u.net = s.net.eraseIdx n ++ [.ans (coreKey r.dst (homePart l)) r.who r.route a]

/-- A home refuses an access with NACK (R24, R336, R354, R356), keeps one that a moving page or a full checkpoint log holds back (R41,
R358), and lets one wait whose word is not in the state that it needs (R104): nothing changes in memory. -/
def Piece.HomeTurnsAway : Prop :=
  ∀ (s : State) (n : Nat) (r : Req) (l : Nat), s.net[n]? = some (.req r) → r.loc = some l →
    (let p := s.atPort l
     let keeps := ∃ u, exec (.homeService n) s = .next u ∧ u.net = s.net.eraseIdx n ∧ u.waiters = s.waiters ∧ SameMemory s u
     let waits := ∃ u, exec (.homeService n) s = .next u ∧ u.net = s.net.eraseIdx n ∧ u.waiters = s.waiters ++ [⟨r, false⟩]
       ∧ SameMemory s u
     (∀ k, s.refusal r l = some k → r.route ≠ .nowhere → ∃ u, servedWith s n r l u (.nack k) ∧ SameMemory s u)
     ∧ (s.refusal r l = none →
         (s.moveHolds r l ≠ none → keeps)
         ∧ (s.moveHolds r l = none →
             (s.ckpt l = none → r.acc.writes = true → keeps)
             ∧ (s.full p = false → r.acc = .ldff → waits)
             ∧ (s.ckpt l ≠ none → s.full p = false → r.acc = .ldfe → waits)
             ∧ (s.ckpt l ≠ none → s.full p = true → ∀ d, r.acc = .stef d → waits))))

/-- A home performs a read that it takes up (R100, R103, R105, R131), at a place of local storage, HBM, low-power DRAM or the CXL tier:
a load of each width, LDFF of a full word and FESTAT answer what they read, and nothing changes. An engine register answers its
doubleword (R25, R279). -/
def Piece.HomeReads : Prop :=
  ∀ (s : State) (n : Nat) (r : Req) (l : Nat), takenUp s n r l →
    (let p := s.atPort l
     let answers := fun (w : Word) => ∃ u, servedWith s n r l u (.vals [w]) ∧ SameMemory s u
     (regionOf l ≠ .eng → s.isHeader 1 p = false →
       (∀ m ∈ [1, 2, 4, 8], ∀ sgn, r.acc = .load m sgn →
         answers (if sgn then (BitVec.ofNat (8 * m) (s.readMem p m)).signExtend 64 else BitVec.ofNat 64 (s.readMem p m)))
       ∧ (r.acc = .festat → answers (if r.feOk then (if s.full p then 1 else 0) else 3))
       ∧ (r.acc = .ldff → s.full p = true → answers (s.readWord p)))
     ∧ (regionOf l = .eng → ∀ sgn, r.acc = .load 8 sgn → answers (BitVec.ofNat 64 (s.readData l 8))))

/-- A home performs a write that it takes up (R131), at a place of local storage, HBM, low-power DRAM or the CXL tier: stores of each
width, REDs and atomics write their bytes and no other; LDFE of a full word, STFF, STEF of an empty one and FEMARK set the word's
bit; each answers what its form returns (R100 to R107). `s1` is s with the line that the channel core's log keeps, if its interval is to
keep one (R357). An engine register takes a doubleword (R25). -/
def Piece.HomeWrites : Prop :=
  ∀ (s s1 : State) (n : Nat) (r : Req) (l : Nat), takenUp s n r l → s.ckpt l = some s1 → s1.canonical = true →
    (let p := s.atPort l
     let served := servedWith s n r l
     let old := s1.readWord p
     let old2 := s1.readWord (p + 8)
     let outside := fun (u : State) (k : Nat) => ∀ a, a < p ∨ p + k ≤ a → u.byteAt a = s1.byteAt a
     let sameBits := fun (u : State) => ∀ a, u.full a = s1.full a
     let bit := fun (u : State) (b : Bool) => ∀ a, u.full a = if wordOf a = wordOf p then b else s1.full a
     (regionOf l ≠ .eng → (∀ k < 2, s1.isHeader k p = false ∧ s1.isHeader k (p + 8) = false) →
       (∀ m ∈ [1, 2, 4, 8], ∀ d, r.acc = .store m d →
         ∃ u, served u (.vals []) ∧ (∀ k < m, u.byteAt (p + k) = d.extractLsb' (8 * k) 8) ∧ outside u m ∧ sameBits u)
       ∧ (∀ op d, op ≠ .cas → op ≠ .cas2 → r.acc = .red op d →
         ∃ u, served u (.vals []) ∧ u.readWord p = atomicValue op old d 0 ∧ outside u 8 ∧ sameBits u)
       ∧ (∀ op a b c d, op ≠ .cas2 → r.acc = .amo op a b c d →
         ∃ u, served u (.vals [old]) ∧ u.readWord p = atomicValue op old a b ∧ outside u 8 ∧ sameBits u)
       ∧ (∀ a b c d, r.acc = .amo .cas2 a b c d →
         ∃ u, served u (.vals [old, old2]) ∧ outside u 16 ∧ sameBits u
           ∧ u.readWord p = (if old = a ∧ old2 = b then c else old) ∧ u.readWord (p + 8) = (if old = a ∧ old2 = b then d else old2))
       ∧ (r.acc = .ldfe → s1.full p = true → ∃ u, served u (.vals [old]) ∧ outside u 0 ∧ bit u false)
       ∧ (∀ d, r.acc = .stff d ∨ (r.acc = .stef d ∧ s1.full p = false) →
         ∃ u, served u (.vals []) ∧ u.readWord p = d ∧ outside u 8 ∧ bit u true)
       ∧ (∀ b, r.acc = .femark b → ∃ u, served u (.vals []) ∧ outside u 0 ∧ bit u b))
     ∧ (regionOf l = .eng → ∀ d, r.acc = .store 8 d → ∃ u, served u (.vals []) ∧ u.mem = (s.writeEngine l d r.who).mem
           ∧ u.devs = (s.writeEngine l d r.who).devs))

/-- Homes (R131): what they turn away, and what they perform. -/
def Obligations.HomeServices : Prop :=
  Piece.HomeTurnsAway ∧ Piece.HomeReads ∧ Piece.HomeWrites

/-- The port of a victim (R272, R273): a steal waits for the owner's turn of the tick and for the one operation of the tick; then one by its tenant takes the top record of the deque, or answers 2 when the deque is
empty; another tenant is answered 3, and a fenced core refuses with NACK 3. -/
def Piece.Steals : Prop :=
  ∀ (s : State) (n v : Nat) (who : Issuer), s.net[n]? = some (.steal who v) →
    (s.turnDue who.dev v = true ∨ (s.core who.dev v).dqTick = some (s.dev who.dev).cycle → exec (.stealService n) s = .next s)
    ∧ (s.turnDue who.dev v = false → (s.core who.dev v).dqTick ≠ some (s.dev who.dev).cycle →
    (let k := s.core who.dev v
     let rest := s.net.eraseIdx n
     let gives := fun (a : Ans) => ∃ u, exec (.stealService n) s = .next u ∧ u.net = rest ++ [.ans (coreKey who.dev v) who .reply a]
       ∧ SameMemory s u
     (k.fenced = true → gives (.nack 3))
     ∧ (k.fenced = false → k.failed = false →
         (who.sup = false → k.tenant ≠ some who.tenant → gives (.vals [3]))
         ∧ ((who.sup = true ∨ k.tenant = some who.tenant) →
             (k.deque = [] → gives (.vals [2]))
             ∧ ∀ r t, k.deque = r :: t → gives (.vals (0 :: r.words)) ∧ ∀ u, exec (.stealService n) s = .next u → (u.core who.dev v).deque = t))))

/-- The answer of a reply-bearing access lands (R96, R313). For a resident context a value fills the destination and the instruction
retires, and a NACK traps at the instruction with the VA and the subcode. For one that is evicted, SAVED or on the run queue (R324) a
value goes into its image, and a NACK waits for its resumption. While a save or a move of the context is in progress the answer waits
(R325). -/
def Piece.RepliesLand : Prop :=
  ∀ (s : State) (n k src : Nat) (who : Issuer) (va : VA) (rd : Reg) (w : Word),
    (let c := s.ctx who.dev who.cid
     let held := s.heldBack who.dev who.cid
     let answer := fun (a : Ans) => s.net[n]? = some (.ans src who .reply a)
     (∀ a, answer a → held = true → exec (.replyLands n) s = .next s)
     ∧ (held = false → (s.core who.dev who.vcn).fwd = [] → c.wait = some (.reply va (.reg rd)) →
       (c.place = .resident →
         (answer (.vals [w]) →
           ∃ u, exec (.replyLands n) s = .next u ∧ u.net = s.net.eraseIdx n ∧ SameMemory s u
             ∧ u.pos who.dev c.core c.pos = ⟨.running, who.cid⟩
             ∧ (let b := u.ctx who.dev who.cid
                b.getX rd = (if rd = 0#5 then 0 else w) ∧ b.fullX rd = true ∧ b.pc = c.pc + 4 ∧ b.wait = none
                ∧ SameRegs (fun o => o == .x rd) c b ∧ SameCtxCsrs c b ∧ SameTrapCsrs c b))
         ∧ (answer (.nack k) → k < 256 →
           ∃ u, exec (.replyLands n) s = .next u ∧ SameMemory s u
             ∧ (let b := u.ctx who.dev who.cid
                b.tcause = 0x05 ∧ b.tval = va.extractLsb' 0 64 ∧ b.tepc = c.pc ∧ b.sup = true ∧ b.pc = (s.core who.dev c.core).tvec
                ∧ b.tstat.extractLsb' 0 8 = BitVec.ofNat 8 k ∧ b.tstat.extractLsb' 40 8 = va.extractLsb' 64 8)))
       ∧ (c.place.outside = true →
         (answer (.vals [w]) →
           ∃ u, exec (.replyLands n) s = .next u ∧ u.net = s.net.eraseIdx n
             ∧ SameMemory ((s.unsend n).imageX who.dev who.cid rd.toNat w) u
             ∧ (let b := u.ctx who.dev who.cid
                b.getX rd = (if rd = 0#5 then 0 else w) ∧ b.landed = .written ∧ b.pc = c.pc ∧ b.place = c.place ∧ b.wait = c.wait
                ∧ SameRegs (fun o => o == .x rd) c b ∧ SameCtxCsrs c b ∧ SameTrapCsrs c b))
         ∧ (answer (.nack k) →
           ∃ u, exec (.replyLands n) s = .next u ∧ u.net = s.net.eraseIdx n ∧ SameMemory s u
             ∧ u.ctx who.dev who.cid = { c with landed := .ans (.nack k) }))))

/-- A posted access is answered (R97, R99): an acknowledgement frees its journal entry; a refusal keeps the entry with its
subcode and leaves a POSTREFUSE pending for the context, which the image of one that is not resident counts (R317, R324). No other entry
and no other memory changes. -/
def Piece.PostedAnswers : Prop :=
  ∀ (s : State) (n i k src : Nat) (who : Issuer) (e : JEntry) (l : List Word),
    (s.core who.dev who.vcn).fwd = [] → Table.find (s.core who.dev who.vcn).journal i = some e → e.ref = none → e.kind < 5 → e.fork = false →
    rising ((s.core who.dev who.vcn).journal.map (·.1)) = true →
    (let c := s.ctx who.dev e.cid
     let after := fun (u : State) (j : Nat) => Table.find (u.core who.dev who.vcn).journal j
     let before := fun (j : Nat) => Table.find (s.core who.dev who.vcn).journal j
     let pends := fun (x : Ctx) => ({ x with pend := x.pend ++ [.postrefuse who.vcn i k] } : Ctx)
     (s.net[n]? = some (.ans src who (.journal i) (.vals l)) →
       ∃ u, exec (.acknowledgementLands n) s = .next u ∧ u.net = s.net.eraseIdx n ∧ after u i = none ∧ (∀ j, j ≠ i → after u j = before j)
         ∧ SameMemory s u ∧ u.ctxs = s.ctxs)
     ∧ (s.net[n]? = some (.ans src who (.journal i) (.nack k)) → e.gone = false → e.jubilee = false → c.alive = true →
       ∃ u, exec (.postedStoreRefused n) s = .next u ∧ u.net = s.net.eraseIdx n ∧ after u i = some { e with ref := some k }
         ∧ (∀ j, j ≠ i → after u j = before j) ∧ u.ctx who.dev e.cid = pends c
         ∧ (c.place.outside = false → SameMemory s u)
         ∧ (c.place.outside = true → SameMemory ((s.modCtx who.dev e.cid pends).setImage who.dev e.cid 56 (pends c).pendImage) u)))

/-- Words of a split load (R134, R217): the last word fills the vector register, and an earlier one leaves it open; a refused word
reads as 0, and with the last word the refused one of the lowest address becomes a pending trap. -/
def Piece.SplitWordsLand : Prop :=
  ∀ (s : State) (n k at_ w src : Nat) (flit : Bool) (who : Issuer) (a : Word) (q : Split), (s.core who.dev who.vcn).fwd = [] →
    (let c := s.ctx who.dev who.cid
     let b := fun (u : State) => u.ctx who.dev who.cid
     let word := fun (x : Ans) => s.net[n]? = some (.ans src who (.split at_ w flit) x)
     let lands := fun (v : Nat) (bad : Option (VA × Nat)) =>
       (q.left = 1 → ∃ u, exec (.splitLoadWordLands n) s = .next u ∧ (b u).split = none ∧ (b u).getV q.vd = putBytes q.val at_ w v
         ∧ (b u).fullV q.vd = true ∧ (b u).pc = c.pc ∧ SameMemory s u
         ∧ (b u).pend = c.pend ++ (match bad with | some x => [.splitNack x.1 x.2] | none => []))
       ∧ (1 < q.left → ∃ u, exec (.splitLoadWordLands n) s = .next u ∧ SameMemory s u ∧ (b u).pend = c.pend
         ∧ (b u).split = some { q with left := q.left - 1, val := putBytes q.val at_ w v, bad := bad })
     c.split = some q →
       (word (.vals [a]) → lands a.toNat q.bad)
       ∧ (word (.nack k) → lands 0 (some (match q.bad with
           | some x => if q.vaAt at_ < x.1 then (q.vaAt at_, k) else x
           | none => (q.vaAt at_, k)))))

/-- Fills (R48, R199, R266, R324, R325): an external fill and a neighbour fill land in an empty register that is not reserved; the fill of a
TRET ends a continuation and lands in the register that is empty for it, or is held; a fill for a context that is not resident
lands in its image. While a save or a move of the context is in progress a fill waits, or is held until that ends. A neighbour
fill waits for its third tick and for those sent before it over its link, and one of an EMPTY position is discarded. -/
def Piece.FillsLand : Prop :=
  ∀ (s : State) (n d v cid p src due : Nat) (dir : Dir) (r : Reg) (val : VWord) (ten : Nat),
    (let c := s.ctx d cid
     let b := fun (u : State) => u.ctx d cid
     let x := val.extractLsb' 0 64
     let fill := fun (tret : Bool) => s.net[n]? = some (.fill src d v cid false r.toNat val tret)
     let lands := fun (i : Instr) (m : State) => ∃ u, exec i s = .next u ∧ (b u).getX r = x ∧ (b u).fullX r = true
       ∧ SameRegs (fun o => o == .x r) c (b u) ∧ SameMemory m u
     let keeps := fun (i : Instr) (m : State) (h : HeldFill) => ∃ u, exec i s = .next u ∧ (b u).held = c.held ++ [h]
       ∧ SameRegs (fun _ => false) c (b u) ∧ SameMemory m u
     let arrives := Instr.externalFillArrival n
     let mine := c.xr.getLsbD r.toNat = false ∨ c.xc.getLsbD r.toNat = true
     let ends := fun (m : State) => ∃ u, exec arrives s = .next u ∧ (b u).conts = c.conts - 1 ∧ SameMemory m u
     let counted := (s.unsend n).setImage d cid 56 ({ c with conts := c.conts - 1 } : Ctx).pendImage
     (∀ tret, fill tret → s.heldBack d cid = true → exec arrives s = .next s)
     ∧ (s.heldBack d cid = false → (s.core d v).fwd = [] → r ≠ 0#5 →
       (c.place = .resident →
         (fill false → c.fullX r = false → c.xr.getLsbD r.toNat = false → lands arrives s)
         ∧ (fill false → c.fullX r = true ∨ c.xr.getLsbD r.toNat = true → keeps arrives s ⟨false, r.toNat, val, none, false⟩)
         ∧ (fill true → ends s ∧ (c.fullX r = false → mine → lands arrives s)
             ∧ (¬ (c.fullX r = false ∧ mine) → keeps arrives s ⟨false, r.toNat, x.setWidth 1024, none, false⟩)))
       ∧ (c.place.outside = true →
         (fill false → s.imageEmpty d cid false r.toNat = true → c.xr.getLsbD r.toNat = false →
           lands arrives ((s.unsend n).imageX d cid r.toNat x))
         ∧ (fill false → s.imageEmpty d cid false r.toNat = false ∨ c.xr.getLsbD r.toNat = true →
           keeps arrives s ⟨false, r.toNat, val, none, false⟩)
         ∧ (fill true → counted.imageEmpty d cid false r.toNat = true → mine →
           ends (counted.imageX d cid r.toNat x) ∧ lands arrives (counted.imageX d cid r.toNat x))
         ∧ (fill true → ¬ (counted.imageEmpty d cid false r.toNat = true ∧ mine) →
           ends counted ∧ keeps arrives counted ⟨false, r.toNat, x.setWidth 1024, none, false⟩)))
     ∧ (s.net[n]? = some (.nfill d v dir p false r.toNat val ten due) →
       ((∃ m ∈ s.net.take n, Msg.onLink d v dir m = true) ∨ ((s.dev d).cycle < due ∧ due < 2 ^ 63) →
         exec (.neighbourFillArrival n) s = .next s)
       ∧ ((∀ m ∈ s.net.take n, Msg.onLink d v dir m = false) → due ≤ (s.dev d).cycle → (s.dev d).cycle < 2 ^ 63 →
         ((s.pos d v p).st = .empty → exec (.neighbourFillArrival n) s = .next (s.unsend n))
         ∧ ((s.pos d v p).st ≠ .empty → (s.pos d v p).cid = cid → c.place = .resident → c.tenant.toNat = ten → (s.core d v).fenced = false →
             r ≠ 0#5 →
             (s.heldBack d cid = false → c.fullX r = false → c.xr.getLsbD r.toNat = false → lands (.neighbourFillArrival n) s)
             ∧ (s.heldBack d cid = true → keeps (.neighbourFillArrival n) s ⟨false, r.toNat, val, some (v, dir), true⟩)))))

/-! ## Records, dispatch and virtual time (R242, R258 to R265, R283, R294 to R301) -/

/-- Arrival of records (R265, R297, R300): a record that nothing refuses joins the inbox of an unordered, unbound channel with
room, under the tenant it carries, and is acknowledged; an anti-message that meets its twin removes it; and a bounced record whose 256
ticks have passed is sent again. A rollback whose ticks have passed leaves ROLLBACK, and the straggler that caused it, if one did, goes to
the inbox (R295); that its undo steps have been made when it began, so that only the time is left, is the model's choice (log entry
56). -/
def Obligations.RecordArrivals : Prop :=
  ∀ (s : State) (n i j : Nat) (m : RecMsg) (t : Nat) (ch : BitVec 6),
    (let k := s.core m.dst m.vcn
     let c := k.chan m.record.chan
     (s.net[n]? = some (.record m) → s.arrivalFault m.dst m.vcn m = none →
       (m.record.anti = false → m.vcn ≠ 0x1FFF → m.kind = .tsend i → m.counted = false → c.bound = none → c.isOrd = false → k.inboxRoom = true →
         ∃ u, exec (.recordArrival n) s = .next u ∧ (u.core m.dst m.vcn).inbox = k.inbox ++ [s.asInbox m.dst m.vcn m]
           ∧ u.net = s.net.eraseIdx n ++ [.ans (coreKey m.dst m.vcn) m.who (.journal i) (.vals [0])] ∧ SameMemory s u)
       ∧ (m.record.anti = true → c.rollback = none → k.twin m.record.chan m.record = some j →
         ∃ u, exec (.antiMessageArrival n) s = .next u ∧ (u.core m.dst m.vcn).inbox = k.inbox.eraseIdx j
           ∧ u.net = s.net.eraseIdx n ∧ SameMemory s u))
     ∧ ((s.here.chan ch.toNat).rollback = some t → t ≤ s.device.cycle → s.device.cycle < 2 ^ 63 → (s.here.chan ch.toNat).waiting = [] →
         ∃ u, exec (.rollbackEnd ch) s = .next u ∧ (u.here.chan ch.toNat).rollback = none ∧ SameMemory s u
           ∧ u.here.inbox = s.here.inbox ++ (s.here.chan ch.toNat).straggler.toList)
     ∧ (s.here.bounced[n]? = some (m, t) → t ≤ s.device.cycle → s.device.cycle < 2 ^ 63 → s.reachable m.who.dev m.dst = true →
         ∃ u r, exec (.orderedResend n) s = .next u ∧ u.here.bounced = s.here.bounced.eraseIdx n ∧ u.net = s.net ++ [.record r]
           ∧ r.dst = m.dst ∧ r.vcn = m.vcn ∧ r.record.key = m.record.key ∧ SameMemory s u))

/-- The turn of an EMPTY position (R259, R260): the record chosen becomes a context, dispatching, for 16 ticks on a core without a tenant, with
its entry as pc (of which the two lowest bits are dropped, the model's choice, log entry 72), its arguments in x10 to x13 and every register full; with no candidate nothing changes. -/
def Piece.Dispatches : Prop :=
  ∀ (s : State), (s.pos s.cur.dev s.cur.vcn s.cur.pos).st = .empty →
    (let d := s.cur.dev
     let v := s.cur.vcn
     let choice := chooseFrom s.here.rr.toNat (s.candidates d v (some s.cur.pos))
     (choice = none → exec .dispatchChoice s = .next s)
     ∧ ∀ ch i r cid, choice = some (.record ch i) → s.here.inbox[i]? = some r → s.freeCid d v = some cid → r.trap = false →
         ∃ u t, exec .dispatchChoice s = .next u ∧ u.pos d v s.cur.pos = ⟨.dispatching t, cid⟩ ∧ (s.here.tenant = none → t = s.device.cycle + 16)
           ∧ (let c := u.ctx d cid
              c.place = .resident ∧ c.pc = (r.record.d0.extractLsb' 0 40).setWidth 64 &&& ~~~3#64 ∧ c.getX 10 = r.record.d4 ∧ c.getX 11 = r.record.d5
              ∧ c.getX 12 = r.record.d6 ∧ c.getX 13 = r.record.d7 ∧ (∀ o, c.full o = true) ∧ c.sup = (s.here.chan r.ch).isSup
              ∧ c.chan.toNat = r.record.d0.toNat / 2 ^ 54 % 64 ∧ c.prio.toNat = r.record.d0.toNat / 2 ^ 48 % 64
              ∧ c.tenant = (if (s.here.chan r.ch).isSup then 0 else BitVec.ofNat 8 r.tenant)))

/-- Eviction, the end of a wait and the budget (R242, R262): a victim whose image is saved leaves its position; an evicted context
whose wait is over joins the run queue; in a tick that is a multiple of 1,400 every resident context has its core's REFILL. -/
def Piece.Evictions : Prop :=
  ∀ (s : State) (p cid : Nat) (u : State),
    (let d := s.cur.dev
     let v := s.cur.vcn
     (s.victim d v = some p → (s.pos d v p).cid = cid → s.busy d v cid = false → (s.ctx d cid).onBudget = false →
       s.saveImage d v (s.recordVa d v cid) (s.imageOf d cid) 48 = .done u →
       ∃ t, exec .eviction s = .next t ∧ t.pos d v p = ⟨.empty, 0⟩ ∧ (t.ctx d cid).place = .evicted)
     ∧ ((s.ctx d cid).place = .evicted → s.waitOver d cid = true →
       ∃ t, exec (.waitEnd cid) s = .next t ∧ (t.ctx d cid).place = .runq s.device.cycle
         ∧ (t.core d (s.ctx d cid).core).runq = (s.core d (s.ctx d cid).core).runq ++ [cid])
     ∧ (s.device.cycle % 1400 = 0 → ∃ t, exec .ebudgetRefill s = .next t ∧ SameMemory s t
         ∧ ∀ c < 2 ^ 24, (t.ctx d c).ebudget =
             if (s.ctx d c).place = .resident then (s.core d (s.ctx d c).core).erefill &&& 0xFFFFFFFF#64 else (s.ctx d c).ebudget))

/-- The conditions of R283 on a device: on every core each position is EMPTY, or parked with a wait that is not over and that nothing outside
the core may still end, no open channel has a head, and the run queue is empty; no message of the device is in flight; its copy,
view and launch harts and its channel cores are idle, a view hart that waits for the reclaim floor among them (R188); no host wake is
armed; and no context waits for a tick, and none that is evicted has a wait that is over. What may still end a wait (`stuck`) is the
model's reading (log entry 32). -/
def atDeadlock (s : State) (d : Nat) : Prop :=
  (let v := s.dev d
   (∀ n < 8192, (∀ p < 8, (s.pos d n p).st = .empty
       ∨ ((s.pos d n p).st = .parked ∧ s.stuck d n (s.pos d n p).cid = true ∧ s.wakes d n p v.cycle = false))
     ∧ (∀ c < 64, ((s.core d n).chan c).open_ = true → (s.core d n).headOf c none = none) ∧ (s.core d n).runq = [])
   ∧ (∀ m ∈ s.net, m.touches d = false)
   ∧ (∀ q ∈ v.copy, q.2.queue = [] ∧ q.2.full = []) ∧ (∀ q ∈ v.view, s.viewIdle d q.1 q.2 = true)
   ∧ (∀ q ∈ v.launch, q.2.idle = true) ∧ (∀ q ∈ v.chcore, q.2.held = [])
   ∧ hwakeArm v.host.hwake = false
   ∧ ∀ q ∈ s.ctxs, keyDev q.1 = d → q.2.timed = false ∧ (q.2.place = .evicted → s.waitOver d (q.1 % 2 ^ 25) = false))

/-- Position p of core v is the lowest occupied position of the lowest VCN of a device (R283). -/
def lowestOccupied (s : State) (d v p : Nat) : Prop :=
  v < 8192 ∧ p < 8 ∧ (s.pos d v p).st ≠ .empty
    ∧ ∀ n < 8192, ∀ q < 8, n < v ∨ (n = v ∧ q < p) → (s.pos d n q).st = .empty

/-- A device that meets the conditions of R283 takes DEADLOCK: the context in the lowest occupied position of the lowest VCN traps with
cause 0x10, and MSI-X vector 1 is signalled: it is sent, or pending while its vector is masked. Otherwise nothing happens. When a wait
can still be ended is the model's reading (log entry 32). -/
def Obligations.Deadlocks : Prop :=
  ∀ (s : State) (v p : Nat), rising (s.poss.map (·.1)) = true →
    (let d := s.cur.dev
     let cid := (s.pos d v p).cid
     (¬ atDeadlock s d → exec .deadlock s = .next s)
     ∧ ((∀ n < 8192, ∀ q < 8, (s.pos d n q).st = .empty) → exec .deadlock s = .next s)
     ∧ (atDeadlock s d → lowestOccupied s d v p → ∃ u, exec .deadlock s = .next u ∧ (u.ctx d cid).tcause = 0x10
         ∧ (u.ctx d cid).sup = true ∧ (u.ctx d cid).wait = none ∧ (u.ctx d cid).tepc = (s.ctx d cid).pc
         ∧ SameMemory s u
         ∧ (if s.device.host.masked 1 then u.device.host.msix.getLsbD 1 = true else u.device.host.sent = s.device.host.sent ++ [1])))

/-- Rounds of global virtual time on a device that is its own round (R298, R299, R301): a round starts in a tick of its period and
flips the send colour; a pass with every record received closes it and publishes the least key when it has risen, which starts
every core's jubilee; a pass with a record missing goes on; and a jubilee without a task below the key ends. That a START, a pass
and a publication reach every core of the device in one step is the model's choice (log entry 15); that with no key reported a
pass publishes the key after the greatest of the ended, uncommitted tasks, and without such a task nothing, is its reading (log entry
51). -/
def Obligations.VirtualTime : Prop :=
  ∀ (s : State) (r : Round),
    (let d := s.cur.dev
     let ks := s.coresOf d
     let sum := fun (f : Core → Nat) => ks.foldl (fun a k => a + f k) 0
     let sent := if r.colour then sum (·.sent1) else sum (·.sent0)
     let recv := if r.colour then sum (·.recv1) else sum (·.recv0)
     let key := (ks.flatMap fun k => k.reported (!r.colour)).foldl min keyTop
     let ended := ks.flatMap fun k => k.chans.flatMap fun p => (p.2.tasks.filter fun t => t.cid.isNone).map (·.record.key)
     (s.roundOf d = [d] → s.device.round = none → s.device.cycle % max 1 (s.gvtPeriod d) = 0 →
       ∃ u, exec .gvtRoundStart s = .next u ∧ u.device.round = some ⟨s.device.colour, [d], 0⟩ ∧ u.device.colour = !s.device.colour ∧ SameMemory s u)
     ∧ (s.device.round = some r → r.members = [d] →
       (recv = sent → s.device.gvtKey < key → key ≠ keyTop → ∃ u, exec .gvtPass s = .next u ∧ u.device.round = none ∧ u.device.gvtKey = key
           ∧ (∀ k ∈ u.coresOf d, k.jubilee = true) ∧ SameMemory s u)
       ∧ (recv = sent → key = keyTop → ended ≠ [] → s.device.gvtKey < ended.foldl max 0 + 1 → ended.foldl max 0 + 1 < keyTop →
           ∃ u, exec .gvtPass s = .next u ∧ u.device.round = none ∧ u.device.gvtKey = ended.foldl max 0 + 1
             ∧ ∀ k ∈ u.coresOf d, k.jubilee = true)
       ∧ (recv = sent → (if key = keyTop then ended = [] else key ≤ s.device.gvtKey) → ∃ u, exec .gvtPass s = .next u ∧ u.device.round = none
           ∧ u.device.gvtKey = s.device.gvtKey)
       ∧ (recv ≠ sent → ∃ u, exec .gvtPass s = .next u ∧ u.device.round = some { r with passes := r.passes + 1 }))
     ∧ (s.here.jubilee = true →
       (s.here.lowestTask s.device.gvtKey = none → ∃ u, exec .jubilee s = .next u ∧ u.here.jubilee = false ∧ SameMemory s u)
       ∧ ∀ c t, s.here.lowestTask s.device.gvtKey = some (c, t) → t.nDef ≤ t.done → c < 64 → ∃ u, exec .jubilee s = .next u
           ∧ (u.here.chan c).tasks = (s.here.chan c).tasks.filter (fun x => x.record ≠ t.record) ∧ SameMemory s u))

/-- TCANCEL and DQSTEAL: the request, and what its target does (R271 to R273); NACK 6 for a handle outside the domain is the model's
reading (log entry 62). -/
def Obligations.WithdrawalsAndSteals : Prop :=
  Piece.Withdrawals ∧ Piece.Steals

/-- What an answer does when it lands: values, acknowledgements, refusals, words of split loads and fills (R48, R96, R97, R99, R199, R217,
R266, R313, R324, R325). -/
def Obligations.Answers : Prop :=
  Piece.RepliesLand ∧ Piece.PostedAnswers ∧ Piece.SplitWordsLand ∧ Piece.FillsLand

/-- Which context a position takes (R52, R258 to R260), which it gives up, the end of a wait (R262), and the refill of the budget (R242). -/
def Obligations.DispatchAndEviction : Prop :=
  Piece.Dispatches ∧ Piece.Evictions

/-! ## Engine harts (R112 to R129, R173 to R189) -/

/-- The command that a working copy hart runs, and its type. -/
def runs (s : State) (hart : Nat) (c : CopyCmd) (t : List CopyCmd) (ty : Nat) : Prop :=
  (s.device.copyHart hart).queue = c :: t ∧ hart < 96 ∧ (s.core s.cur.dev (4608 + hart)).failed = false ∧ blkType c.blk = ty

/-- The command is neither ending nor stopped. -/
def goesOn (s : State) (hart : Nat) : Prop :=
  (s.device.copyHart hart).ending = none ∧ (s.device.copyHart hart).bad = none

/-- The instruction serves a command of a type at a hart. -/
def serves (i : Instr) (ty hart : Nat) : Prop :=
  match i with
  | .copy h _ => h = hart ∧ ty = 0
  | .deal h _ => h = hart ∧ ty = 1
  | .gather h _ => h = hart ∧ ty = 2
  | .pool h => h = hart ∧ ty = 3
  | .migrate h => h = hart ∧ ty = 4
  | .fillreg h => h = hart ∧ ty = 5
  | .fill h _ => h = hart ∧ ty = 6
  | .viewreg h => h = hart ∧ ty = 7
  | _ => False

/-- The end of a command (R123 to R125, R128). A command that was stopped ends, once no write of it is unanswered, with the status,
the units moved and the detail of the lowest byte that stopped it. A completion then writes the detail word, the status word as an
STFF at .sy, and the arrival at the barrier, each after the one before has been answered; a mailbox or barrier that the command does
not have is passed over. Then the command leaves the queue, which completes its tag. (That an access whose translation faults is passed
over is the model's choice, log entry 25; that the completion goes on in steps of its own, between which others move, log entry 13.) -/
def Piece.CommandCompletion : Prop :=
  ∀ (s : State) (ev : Instr) (hart off side cause sub : Nat) (c : CopyCmd) (t : List CopyCmd) (ty : Nat) (e : Ending),
    serves ev ty hart → runs s hart c t ty →
    (let d := s.cur.dev
     let q := s.device.copyHart hart
     let who := c.issuer hart
     let is := fun (u : State) (f : CopyHart) => u.device.copyHart hart = f ∧ SameMemory s u ∧ u.ctxs = s.ctxs
     let sends := fun (va : VA) (a : Acc) (p : Perm) =>
       (∀ g, s.resolveAt d who va p a.width false = .ok g → ∃ u, exec ev s = .next u
         ∧ is u { q with out := [(0, va)], ending := some { e with stage := e.stage + 1 } }
         ∧ u.net = s.net ++ [.req ⟨who, d, va, some g.loc, g.feOk, a, .copy 0 true⟩])
       ∧ (∀ f, s.resolveAt d who va p a.width false = .error f → f ≠ walkHeld → ∃ u, exec ev s = .next u
         ∧ is u { q with ending := some { e with stage := e.stage + 1 } } ∧ u.net = s.net)
     let passes := ∃ u, exec ev s = .next u ∧ is u { q with ending := some { e with stage := e.stage + 1 } } ∧ u.net = s.net
     (q.out ≠ [] → q.ending.isSome = true ∨ q.bad.isSome = true → exec ev s = .next s)
     ∧ (q.out = [] → q.ending = none → q.bad = some (off, side, cause, sub) → ∃ u, exec ev s = .next u ∧ u.net = s.net
         ∧ is u { q with ending := some ⟨1 + side, c.movedAt off,
             if side ≤ 1 then BitVec.ofNat 8 cause ++ BitVec.ofNat 4 side ++ 0#4 ++ BitVec.ofNat 8 sub ++ 0#40 else 0#64, 0⟩ })
     ∧ (q.out = [] → q.ending = some e →
       (e.stage = 0 → (c.mb = 0 → passes) ∧ (c.mb ≠ 0 → sends (vaAdd c.mb 8) (.store 8 e.detail) .write))
       ∧ (e.stage = 1 → (c.mb = 0 → passes)
           ∧ (c.mb ≠ 0 → sends c.mb (.stff (c.tag ++ BitVec.ofNat 8 e.status ++ BitVec.ofNat 40 e.moved)) .sync))
       ∧ (e.stage = 2 → (c.bar = 0 → passes) ∧ (c.bar ≠ 0 → sends c.bar (.bararv (e.status != 0)) .amo))
       ∧ (3 ≤ e.stage → ∃ u, exec ev s = .next u ∧ u.net = s.net
           ∧ is u { CopyHart.reset with queue := t, full := q.full, accepted := q.accepted, completed := q.completed + 1 })))

/-- The hart has no write outstanding to a word of the n bytes at a VA (R98). -/
def mayAccess (s : State) (hart : Nat) (va : VA) (n : Nat) : Prop := (s.device.copyHart hart).awaits va n = false

/-- A hart has issued one store of n bytes, its byte m in unit order, as its issuer. -/
def issued (s u : State) (hart : Nat) (c : CopyCmd) (va : VA) (n v m : Nat) : Prop :=
  (let q := s.device.copyHart hart
   let r := u.device.copyHart hart
   ∃ g, s.resolveAt s.cur.dev (c.issuer hart) va .writeOnly n false = .ok g
     ∧ u.net = s.net ++ [.req ⟨c.issuer hart, s.cur.dev, va, some g.loc, g.feOk, .store n (BitVec.ofNat 64 (v % 2 ^ (8 * n))),
         .copy m (carries m n)⟩]
     ∧ r.out = q.out ++ [(m, va)] ∧ r.moved = m + n ∧ r.bad = none ∧ r.ending = none ∧ r.queue = q.queue ∧ SameMemory s u ∧ u.ctxs = s.ctxs)

/-- A sum that starts at acc and takes n products in order, one FMA each. -/
def sumInOrder (weight row : Nat → Nat) (acc : Nat) : Nat → Nat
  | 0 => acc
  | n + 1 => (fp32.fma (fp32.decode (weight n)) (fp32.decode (row n)) (fp32.decode (sumInOrder weight row acc n))).1

/-- The copy commands, a word at a time (R93, R94, R118, R119, R123): COPY, DEAL, GATHER and FILL read the word of the source at the
next byte in unit order and issue a store of it, without waiting for its answer, where the command puts that byte; POOL sums the entries
of a bag in order by one FMA each, for any K, and then stores 4 bytes. A hart that has a write outstanding to a word waits for it before
it reads or writes the word (R98). A read that faults stops the command there, an index that reaches the limit stops it with
8, overlapping spans end it with 9, a pattern that is invalid, or a row length of 0, with 3. Once every byte has been issued and
answered the command ends with status 0. (How many words an event takes up is the model's choice, log entry 13; so are the ends with
PATTERN-INVALID for a LEN of a GATHER that is no multiple of 8 and for a POOL's row length of 0, log entry 25.) -/
def Piece.CopyCommands : Prop :=
  ∀ (s : State) (hart k v j e i n cause sub : Nat) (x y : Nat → Nat) (c : CopyCmd) (t : List CopyCmd) (hdr : VA) (b : Bool)
    (hw ow acc : Nat) (g : Target),
    s.cur.part = [] → goesOn s hart → 1 ≤ k →
    (let d := s.cur.dev
     let who := c.issuer hart
     let q := s.device.copyHart hart
     let m := q.moved
     let len := blkLen c.blk
     let sets := fun (ev : Instr) (f : CopyHart) => ∃ u, exec ev s = .next u ∧ u.device.copyHart hart = f ∧ SameMemory s u ∧ u.net = s.net
     let moves := fun (ev : Instr) (src dst : VA) =>
       src.toNat % 8 = 0 → dst.toNat % 8 = 0 → mayAccess s hart src 8 → mayAccess s hart dst 8 →
         (s.engRead d who src 8 = .ok v → s.resolveAt d who dst .writeOnly 8 false = .ok g →
           ∃ u, exec ev s = .next u ∧ issued s u hart c dst 8 v m)
         ∧ (s.engRead d who src 8 = .fault cause sub → s.resolveAt d who dst .writeOnly 8 false = .ok g →
           sets ev { q with bad := some (m, 0, cause, sub) })
     (∀ ev ty, serves ev ty hart → ty = 0 ∨ ty = 1 ∨ ty = 6 ∨ ty = 2 ∧ len % 8 = 0 → runs s hart c t ty → m = c.total → q.out = [] →
       (ty = 0 → m = 0 → len * blkRows c.blk = 0) → sets ev { q with ending := some ⟨0, c.movedAt c.total, 0, 0⟩ })
     ∧ (runs s hart c t 0 → m < len * blkRows c.blk →
       (m = 0 → c.overlaps = true → sets (.copy hart k) { q with ending := some ⟨9, 0, 0, 0⟩ })
       ∧ ((m = 0 → c.overlaps = false) → Table.find q.pre m = none → 8 ≤ len - m % len →
           moves (.copy hart 1) (vaAdd c.src (m / len * blkSStride c.blk + m % len)) (vaAdd c.dst (m / len * blkDStride c.blk + m % len))))
     ∧ (runs s hart c t 6 → m + 8 ≤ len → Table.find q.pre m = none → (vaAdd c.dst m).toNat % 8 = 0 → mayAccess s hart (vaAdd c.dst m) 8 →
         s.resolveAt d who (vaAdd c.dst m) .writeOnly 8 false = .ok g →
         ∃ u, exec (.fill hart 1) s = .next u ∧ issued s u hart c (vaAdd c.dst m) 8 (dw c.blk 4).toNat m)
     ∧ (runs s hart c t 1 → m < len →
       (m = 0 → dealOk (dw c.blk 4) c.dst len = false → sets (.deal hart k) { q with ending := some ⟨3, 0, 0, 0⟩ })
       ∧ (let p := dealPat (dw c.blk 4) c.dst
          (m = 0 → dealOk (dw c.blk 4) c.dst len = true) → Table.find q.pre m = none → 8 ≤ p.b - m % p.b → m + 8 ≤ len →
          moves (.deal hart 1) (vaAdd c.src m) (vaAdd (p.dest (m / p.b)) (m % p.b))))
     ∧ (runs s hart c t 2 → len % 8 = 0 → m < blkCount c.blk * len →
       (q.idx = none → (let at_ := vaAdd c.aux (4 * (m / len))
         at_.toNat % 4 = 0 → mayAccess s hart at_ 4 →
           (s.engRead d who at_ 4 = .ok j → (blkLimit c.blk ≤ j → sets (.gather hart k) { q with bad := some (m, 7, 0, 0) })
             ∧ (j < blkLimit c.blk → sets (.gather hart 1) { q with idx := some (j, 0) }))
           ∧ (s.engRead d who at_ 4 = .fault cause sub → sets (.gather hart k) { q with bad := some (m, 0, cause, sub) })))
       ∧ (q.idx = some (j, 0) → Table.find q.pre m = none → moves (.gather hart 1) (vaAdd c.src (j * len + m % len)) (vaAdd c.dst m)))
     ∧ (runs s hart c t 3 →
       (let rowlen := blkRowLen c.blk
        let hd : Word := BitVec.ofNat 64 hw
        (q.hold = none → rowlen = 0 → sets (.pool hart) { q with ending := some ⟨3, 0, 0, 0⟩ })
        ∧ (q.hold = none → 1 ≤ rowlen → rowlen ≤ 4096 → blkK c.blk ≠ 0 → s.engRead d who c.src 8 = .ok hw →
            s.engRead d who (vaAdd c.src 8) 8 = .ok ow → (s.tableAt d (if c.who.sup then 0 else c.who.tenant) c.src).isSome = true →
            (hd.extractLsb' 0 40).toNat = len → hd.extractLsb' 44 4 = 1#4 ∨ hd.extractLsb' 44 4 = 2#4 →
            sets (.pool hart) { q with hold := some (c.src, hd.getLsbD 40) })
        ∧ (q.hold = some (hdr, b) → m < 4 * rowlen * blkBags c.blk →
            s.tableAt d (if c.who.sup then 0 else c.who.tenant) hdr = some e →
            (let rows := ((s.viewWord d e 2).extractLsb' 16 20).toNat
             let cols := ((s.viewWord d e 2).extractLsb' 36 20).toNat
             let entry := fun (k : Nat) => vaAdd c.aux (8 * (m / (4 * rowlen) * blkK c.blk + i + k))
             let elem := fun (k : Nat) => vaAdd (s.viewBuf d e b) (4 * (cols * (x k % 2 ^ 32)) + m % (4 * rowlen))
             let has := fun (k : Nat) => mayAccess s hart (entry k) 8 ∧ s.engBytes d who (entry k) 8 = .ok (x k)
             (q.idx.getD (0, 0) = (i, acc) → i < blkK c.blk →
               (has 0 → rows ≤ x 0 % 2 ^ 32 → sets (.pool hart) { q with bad := some (m, 7, 0, 0) })
               ∧ (i + n = blkK c.blk → (∀ k < n, has k ∧ x k % 2 ^ 32 < rows ∧ mayAccess s hart (elem k) 4
                     ∧ s.engBytes d who (elem k) 4 = .ok (y k)) →
                   sets (.pool hart) { q with idx := some (blkK c.blk, sumInOrder (fun k => x k / 2 ^ 32) y acc n) }))
             ∧ (q.idx = some (blkK c.blk, acc) → (vaAdd c.dst m).toNat % 4 = 0 → mayAccess s hart (vaAdd c.dst m) 4 →
                 s.resolveAt d who (vaAdd c.dst m) .writeOnly 4 false = .ok g →
                 ∃ u, exec (.pool hart) s = .next u ∧ issued s u hart c (vaAdd c.dst m) 4 acc m))))))

/-- A state that the reads of a hart have left: it differs in the flits they took, and the hart holds no word read ahead. -/
def afterReads (s s2 : State) (hart : Nat) : Prop :=
  s2 = { (s.modCopy s.cur.dev hart fun q => { q with pre := [] }) with inj := s2.inj, ej := s2.ej }

/-- Page moves, register fills and registrations (R41 to R43, R120 to R122, R179): MIGRATE of a page whose leaf has MIG ends with 4;
else it sets MIG in the leaf by an AMO at the entry's home and records the move. The page is then copied: where software has changed
the leaf the command ends with 5, and otherwise the leaf names the new page, which holds what the old one held, and the TLBI begins;
once no walk that began before its drop is left the command ends with 0 and the page's size. FILLREG fills one register as an external
fill, which is held while the register is full or a save of its context is in progress. VIEWREG of an image that fails a check ends
with 3, and of one that is installed with 0 and 256 bytes. (That a move takes three steps, between which others move, is the model's choice,
log entry 14; so is the order of end statuses, which the clauses leave to a MIGRATE that meets one check alone, log entry 87.) -/
def Piece.MoveAndRegisterCommands : Prop :=
  ∀ (s s1 : State) (hart at_ bits v : Nat) (e : Word) (r : Reg) (c : CopyCmd) (t : List CopyCmd) (m : PageMove),
    s.cur.part = [] → goesOn s hart →
    (let d := s.cur.dev
     let who := c.issuer hart
     let q := s.device.copyHart hart
     let w := dw c.blk 2
     let cid := (w.extractLsb' 0 24).toNat
     let ends := fun (u : State) (status n : Nat) =>
       (u.device.copyHart hart).ending = some ⟨status, n, 0, 0⟩ ∧ (u.device.copyHart hart).move = none
     (runs s hart c t 4 → q.move = none → s.leafOf d ((dw c.blk 4).extractLsb' 0 8).toNat c.src = .ok (e, at_, bits) →
       (e.getLsbD 7 = true → ∃ u, exec (.migrate hart) s = .next u ∧ ends u 4 0 ∧ SameMemory s u)
       ∧ (e.getLsbD 7 = false → w.extractLsb' 8 2 = 0#2 → (w.extractLsb' 16 36).toNat * 65536 < hbmSize →
           (w.extractLsb' 16 36).toNat * 65536 % 2 ^ bits = 0 → pteTier e ≠ 3 → s.leafAmo d hart at_ (e ||| 0x80#64) = .ok s1 →
           ∃ n, exec (.migrate hart) s = .next (s1.modCopy d hart fun q => { q with move := some n })
             ∧ n.leaf = at_ ∧ n.old = e ||| 0x80#64 ∧ n.size = 2 ^ bits ∧ n.held = [] ∧ n.switched = false ∧ n.dest = hbmLoc d ((w.extractLsb' 16 36).toNat * 65536)
             ∧ n.new.extractLsb' 16 36 = w.extractLsb' 16 36 ∧ n.new.extractLsb' 8 2 = 0#2 ∧ n.new.getLsbD 7 = false))
     ∧ (∀ lo dest leaf, runs s hart c t 4 → q.move = some m → m.switched = false → m.held = [] → d < 2 ^ 30 → m.lo = hbmLoc d lo → m.dest = hbmLoc d dest →
         m.leaf = hbmLoc d (8 * leaf) → lo + m.size ≤ hbmSize → dest + m.size ≤ hbmSize → 8 * leaf < hbmSize →
         8 * leaf + 8 ≤ dest ∨ dest + m.size ≤ 8 * leaf → s.pageFault d m.old m.lo m.size false = none →
         s.pageFault d m.new m.dest m.size true = none → (∀ p ∈ s.device.chcore, p.2.held = [] ∧ p.2.on = false) → s.canonical = true →
         s.noWaiterAt m.leaf →
         (s.readWord m.leaf ≠ m.old → ∃ u, exec (.migrate hart) s = .next u ∧ ends u 5 0)
         ∧ (s.readWord m.leaf = m.old → ∀ u1, (s.drawn.copyPage m.lo m.dest m.size).leafAmo d hart m.leaf m.new = .ok u1 →
             ∃ u, exec (.migrate hart) s = .next u ∧ (u.device.copyHart hart).ending = none
               ∧ (u.device.copyHart hart).move = some { m with switched := true } ∧ u.readWord m.leaf = m.new
               ∧ ∀ k < m.size, u.byteAt (m.dest + k) = s.byteAt (m.lo + k)))
     ∧ (runs s hart c t 4 → q.move = some m → m.switched = true →
         (s.staleWalk (if m.wide then 4 else 3) = true → exec (.migrate hart) s = .next s)
         ∧ (s.staleWalk (if m.wide then 4 else 3) = false → ∃ u, exec (.migrate hart) s = .next u ∧ ends u 0 m.size ∧ SameMemory s u))
     ∧ (runs s hart c t 5 → q.out = [] → q.moved = 0 → q.pre = [] → blkLen c.blk = 8 → w.getLsbD 29 = false → w.extractLsb' 24 5 = r → r ≠ 0#5 →
         (s.ctx d cid).place = .resident → (s.ctx d cid).tenant.toNat = c.who.tenant → c.src.toNat % 8 = 0 →
         s.engRead d who c.src 8 = .ok v →
         (let x := s.ctx d cid
          let fills := fun (is : Ctx → Prop) => ∃ u, exec (.fillreg hart) s = .next u ∧ is (u.ctx d cid) ∧ SameMemory s u
            ∧ (u.device.copyHart hart).moved = 8 ∧ (u.device.copyHart hart).queue = q.queue
          (s.heldBack d cid = false → x.fullX r = false → x.xr.getLsbD r.toNat = false →
            fills fun y => y.getX r = BitVec.ofNat 64 v ∧ y.fullX r = true ∧ SameRegs (fun o => o == .x r) x y)
          ∧ (s.heldBack d cid = true ∨ x.fullX r = true ∨ x.xr.getLsbD r.toNat = true →
            fills fun y => y.held = x.held ++ [⟨false, r.toNat, BitVec.ofNat 1024 v, none, s.heldBack d cid⟩]
              ∧ SameRegs (fun _ => false) x y)))
     ∧ (runs s hart c t 7 → q.out = [] → q.pre = [] → c.src.toNat % 8 = 0 →
         ∀ img : Nat → Nat, (∀ k < 32, s.engRead d who (vaAdd c.src (8 * k)) 8 = .ok (img k)) →
         (let x : Entry := fun k => BitVec.ofNat 64 (((List.range 32).map fun i => img i * 2 ^ (64 * i)).sum / 2 ^ (64 * k))
          let n := (w.extractLsb' 0 12).toNat
          (x 0).getLsbD 0 = true → (s.core d (4704 + x.leader % 24)).failed = false →
          ∃ s2, afterReads s s2 hart ∧
          (s2.imageOk d n x = false → ∃ u, exec (.viewreg hart) s = .next u ∧ (u.device.copyHart hart).ending = some ⟨3, 0, 0, 0⟩
            ∧ SameMemory s u)
          ∧ (s2.imageOk d n x = true → ∀ u1, s2.register d n x = some u1 →
              ∃ u, exec (.viewreg hart) s = .next u ∧ (u.device.copyHart hart).ending = some ⟨0, 256, 0, 0⟩ ∧ u.mem = u1.mem))))

/-- A view hart (R182, R183, R189): an event takes one commit from the queue. With no block taken it takes the lowest pending one. That
block waits while the other buffer holds a version that readers may still use, or while a POOL holds the buffer it would be built
into; it clears OTHER once the floor has passed, marks the header BUILDING, and begins with the version that is pending by then. A
block that has been written, or has a fault, ends by the header and BUILDS. (The model's choices: when a commit leaves the queue and that
the hart keeps the block it has taken, log entry 27; that these steps are events of their own, log entry 17; that BUILDS stops at 2^40 - 1,
log entry 91; that the BUILDING header is performed at once, log entry 94.) -/
def Obligations.ViewBuilds : Prop :=
  ∀ (s s1 : State) (hart key v hw ow : Nat) (l : Table Nat) (b : Build),
    (let d := s.cur.dev
     let q := s.device.viewHart hart
     let s0 := s.modView d hart fun q => { q with queued := q.queued - 1 }
     let e := b.key / 2 ^ 40
     let x := s0.entry d e
     let who := viewIssuer d hart x.tenant
     let hva := vaAdd x.hdr (16 * (b.key % 2 ^ 40))
     let hd : Word := BitVec.ofNat 64 hw
     let o : Word := BitVec.ofNat 64 ow
     let buf := hd.getLsbD 40
     let tb := if hd.extractLsb' 44 4 = 3#4 ∨ hd.extractLsb' 0 40 = 0#40 then buf else !buf
     let floor := ((s0.viewWord d x.leader 27).extractLsb' 0 40).toNat
     let word := fun (fault : BitVec 8) (st : BitVec 4) (buf : Bool) (v : BitVec 40) =>
       (0#8 ++ fault ++ st ++ 0#1 ++ x.pol ++ BitVec.ofBool buf ++ v : Word)
     hart < 24 → (s.core d (4704 + hart)).failed = false → q.full = [] →
       (q.work = none → q.pend = [] → exec (.viewBlockBuild hart) s = .next s0)
       ∧ (q.work = none → q.pend = (key, v) :: l → exec (.viewBlockBuild hart) s = .next (s0.modView d hart fun q =>
           { q with work := some ⟨key, false, none, [], 0, none⟩ }))
       ∧ (q.work = some b → b.begun = none → s0.engRead d who hva 8 = .ok hw → s0.engRead d who (vaAdd hva 8) 8 = .ok ow →
         (let keeps := tb ≠ buf ∧ o.getLsbD 63 = true ∧ b.cleared = false
          (keeps → floor ≤ (o.extractLsb' 0 40).toNat → exec (.viewBlockBuild hart) s = .next s0)
          ∧ (keeps → (o.extractLsb' 0 40).toNat < floor → s0.engWrite d who (vaAdd hva 8) 8 0 = .ok s1 →
              exec (.viewBlockBuild hart) s = .next ((s1.pairTrip d who hva).modView d hart
                fun q => { q with work := q.work.map fun b => { b with cleared := true } }))
          ∧ (¬ keeps → s.device.pooled x.hdr tb = true → exec (.viewBlockBuild hart) s = .next s0)
          ∧ (¬ keeps → s.device.pooled x.hdr tb = false → Table.find q.pend b.key = some v →
              (let begins := fun (u : State) => (u.pairTrip d who hva).modView d hart fun q =>
                { q with pend := Table.erase q.pend b.key, work := some { b with cleared := false, begun := some (v, tb) } }
               (hd.extractLsb' 44 4 ≠ 1#4 → exec (.viewBlockBuild hart) s = .next (begins s0))
               ∧ (hd.extractLsb' 44 4 = 1#4 → s0.engWrite d who hva 8 (word 0 2 buf (hd.extractLsb' 0 40)).toNat = .ok s1 →
                   exec (.viewBlockBuild hart) s = .next (begins s1))))))
       ∧ (∀ target : Bool, q.work = some b → b.begun = some (v, target) → s0.engRead d who hva 8 = .ok hw → target = buf ∨ b.cleared = true →
         (let done := fun (u : State) => (u.setView d e 30
            (BitVec.ofNat 64 (min (2 ^ 40 - 1) (((u.viewWord d e 30).extractLsb' 0 40).toNat + 1)))).modView d hart
              fun q => { q with work := none }
          (b.fault ≠ 0 → s0.engWrite d who hva 8 (word (BitVec.ofNat 8 b.fault) 3 target (BitVec.ofNat 40 v)).toNat = .ok s1 →
            exec (.viewBlockBuild hart) s = .next (done s1))
          ∧ (∀ img, b.fault = 0 → b.img = some img → (∀ i < img.length, (Table.find b.got i).isSome = true) →
              s0.engWrite d who hva 8 (word 0 1 target (BitVec.ofNat 40 v)).toNat = .ok s1 →
              exec (.viewBlockBuild hart) s = .next (done s1)))))

/-! ## Launches (R279 to R281, R338) -/

/-- A core can take a unit record of a batch without an image: it works, its tenant is the launch's or nobody's, the record's
channel is enabled, unordered and not the supervisor's, no context is bound to it, and the inbox has room. -/
def takesUnit (s : State) (b : Batch) (x : Delivery) : Prop :=
  (let k := s.core s.cur.dev x.vcn
   let c := k.chan x.record.chan
   b.img = [] ∧ x.vcn < 4608 ∧ k.fenced = false ∧ k.failed = false ∧ c.en = true ∧ c.isSup = false ∧ c.isOrd = false ∧ c.bound = none
   ∧ (k.tenant = none ∨ k.tenant = some b.ten) ∧ k.inboxRoom = true)

/-- The unit record is in its core's inbox, under the launch's tenant. -/
def unitPlaced (s u : State) (b : Batch) (x : Delivery) : Prop :=
  ∃ q, (u.core s.cur.dev x.vcn).inbox = (s.core s.cur.dev x.vcn).inbox ++ [q] ∧ q.record = x.record ∧ q.ch = x.record.chan
    ∧ q.tenant = b.ten ∧ q.binding = x.binding ∧ q.mark = none

/-- Launch harts (R279, R281, R338): a store of the configuration with LSZ up to 16 sets EN, TEN and LSZ and clears the flags it
names; a store of TAIL that fits is taken, and another sets OVR; the record at HEAD enters the pending store; a pending record of one
unit, without image, table and mailbox, is delivered to its core and leaves; a waiting delivery and a peer's share go the same way,
a share for another tenant is answered with no unit accepted,
and an answer for a launch that is no longer in service counts for nothing. (The model's choices, log entry 28: the priority that a record
enters with, the second descriptor word of a unit's record, and that a late answer counts for nothing.) -/
def Obligations.Launches : Prop :=
  ∀ (s : State) (hart : BitVec 2) (v : Word) (w : List Word) (p n : Nat) (r : LRec) (lv : List Level) (j : LJob) (x : Delivery)
    (src num moved total : Nat) (units : List Delivery) (ten : Nat),
    (let d := s.cur.dev
     let h := s.device.launchHart hart.toNat
     let h' := fun (u : State) => u.device.launchHart hart.toNat
     let base : VA := 0#8 ++ (h.qbase + BitVec.ofNat 64 (128 * (h.head.toNat % 2 ^ h.lsz.toNat)))
     let who := launchIssuer d hart.toNat h.ten.toNat
     let one : Batch := ⟨r.ten, [], [], 0, [], false, false⟩
     let share : Batch := ⟨ten, [], [], 0, [], false, false⟩
     (s.core d (4920 + hart.toNat)).failed = false →
     ((v.extractLsb' 0 5).toNat ≤ 16 → ∃ u, exec (.launchConfigWrite hart v) s = .next u ∧ (h' u).en = v.getLsbD 16
         ∧ (h' u).ten = v.extractLsb' 8 8 ∧ (h' u).lsz = v.extractLsb' 0 5 ∧ (h' u).ovr = (h.ovr && !v.getLsbD 17)
         ∧ (h' u).lflt = (h.lflt && !v.getLsbD 18) ∧ (h' u).tail = h.tail ∧ (h' u).pend = h.pend)
     ∧ (((v.extractLsb' 0 32 - h.head).toNat ≤ 2 ^ h.lsz.toNat → ∃ u, exec (.tailStore hart v) s = .next u
           ∧ (h' u).tail = v.extractLsb' 0 32 ∧ (h' u).ovr = h.ovr)
         ∧ (2 ^ h.lsz.toNat < (v.extractLsb' 0 32 - h.head).toNat → ∃ u, exec (.tailStore hart v) s = .next u
           ∧ (h' u).tail = h.tail ∧ (h' u).ovr = true))
     ∧ (h.en = true → h.tail ≠ h.head → h.pend.length < 64 → s.engWords d who base 16 = .ok w → s.launchPrio d who w = .ok p →
         ∃ u, exec (.launchRecordRead hart) s = .next u ∧ (h' u).head = h.head + 1
           ∧ (h' u).pend = h.pend ++ [⟨base, w, p, h.ten.toNat⟩] ∧ SameMemory s u)
     ∧ (h.job = none → h.next = some r → launchBad r.d = false → s.launchLevels d r.d = some lv → dw r.d 2 = 0 → dw r.d 3 = 0 →
         dw r.d 7 = 0 → (dw r.d 1).extractLsb' 0 40 = 1#40 → 1 ≤ extentProduct lv →
         unitPlace (s.domainDevs d) d 0 lv = (d, x.vcn) →
         (x.record, x.binding) = unitRecord d hart.toNat (s.core d (4920 + hart.toNat)).seq r.d [] 0 → takesUnit s one x →
         ∃ u, exec (.launch hart) s = .next u ∧ unitPlaced s u one x ∧ (h' u).pend = h.pend.erase r ∧ (h' u).job = none ∧ (h' u).jobs = h.jobs + 1
           ∧ SameMemory s u ∧ x.record.d0 = dw r.d 0 ∧ x.record.d4 = 0 ∧ x.record.d5 = 1 ∧ x.record.d6 = dw r.d 5 ∧ x.record.d7 = dw r.d 6)
     ∧ (h.job = some j → j.own.wait = [x] → j.own.refused = false → j.shares = [] → j.mb = 0 → takesUnit s j.own x →
         ∃ u, exec (.launchDelivery hart 0) s = .next u ∧ unitPlaced s u j.own x ∧ (h' u).job = none ∧ SameMemory s u)
     ∧ (s.net[n]? = some (.share src d hart.toNat num ten [] units) → s.reachable d src = true →
         (h.en = false ∨ h.ten.toNat ≠ ten → ∃ u, exec (.domainLaunchShare n) s = .next u
           ∧ u.net = s.net.eraseIdx n ++ [.shareAns d src hart.toNat num 0 units.length] ∧ SameMemory s u)
         ∧ (h.en = true → h.ten.toNat = ten → units = [x] → takesUnit s share x → ∃ u, exec (.domainLaunchShare n) s = .next u
           ∧ unitPlaced s u share x ∧ u.net = s.net.eraseIdx n ++ [.shareAns d src hart.toNat num 1 1] ∧ SameMemory s u))
     ∧ (s.net[n]? = some (.shareAns src d hart.toNat num moved total) → h.job = some j → j.num ≠ num →
         exec (.domainLaunchShare n) s = .next (s.unsend n)))

/-- The copy commands, their completions, page moves, register fills and registrations. -/
def Obligations.CopyHarts : Prop :=
  Piece.CommandCompletion ∧ Piece.CopyCommands ∧ Piece.MoveAndRegisterCommands

/-! ## The host port, observation, power and membership (R255, R279, R335, R341 to R350, R361 to R376) -/

/-- Registers at the host port (R342, R343, R44, R341): a write of HWAKE replaces it, and ARM clears itself once `cycle` has reached a
non-zero UNTIL; host writes of BAR0 reach HWAKE, CXLBASE, CXLSIZE and TAIL, and DOORBELL while no command is served; an offset that is
read-only or not listed ignores writes. A supervisor write of the first dword of an NVMe binding with V = 1 binds the namespace NSID and
gives LBS and CAP of it, or leaves V, LBS and CAP at 0 when the drive does not report it; with V = 0 it unbinds the port. A BAR2 read
answers the word, or Completer Abort when it is refused; a BAR2 write stores the word. (Which bits of CXLBASE and CXLSIZE a write
leaves is the model's choice, log entry 31; so is that a binding write with V = 0 leaves LBS and CAP at 0, log entry 71; the place of the
pending-bit array is presumed, log entry 69.) -/
def Obligations.HostRegisters : Prop :=
  ∀ (s : State) (v off : Word) (reg : BitVec 16) (hart port : BitVec 2) (r : Req) (l lbs cap : Nat),
    (let h := s.device.host
     let kept := fun (u : State) => SameMemory s u ∧ u.ctxs = s.ctxs ∧ u.cores = s.cores ∧ u.net = s.net
     let arm := h.hwake.getLsbD 63
     let until_ := (h.hwake.extractLsb' 0 63).toNat
     let va : VA := BitVec.ofNat 72 ((s.device.flash.cfg.bar2Base + off.toNat / 8 * 8) % 2 ^ 71)
     (∃ u, exec (.hwakeWrite v) s = .next u ∧ u.device.host = { h with hwake := v } ∧ kept u)
     ∧ (∃ u, exec .hwakeExpiry s = .next u ∧ kept u ∧ u.device.host.hwake.extractLsb' 0 63 = h.hwake.extractLsb' 0 63
         ∧ u.device.host.hwake.getLsbD 63 = (arm && !(decide (until_ ≠ 0) && decide (until_ ≤ s.device.cycle))))
     ∧ (∃ u, exec (.cxlbaseWrite v) s = .next u ∧ u.device.host.cxlbase = v &&& ~~~0xFFFF#64 ∧ kept u)
     ∧ (v.toNat ≤ 2 ^ 44 → ∃ u, exec (.cxlsizeWrite v) s = .next u ∧ u.device.host.cxlsize = v &&& ~~~0xFFFF#64 ∧ kept u)
     ∧ exec (.registerWrite true 0x5000 v) s = exec (.hwakeWrite v) s
     ∧ exec (.registerWrite true 0x5008 v) s = exec (.cxlbaseWrite v) s
     ∧ exec (.registerWrite true 0x5010 v) s = exec (.cxlsizeWrite v) s
     ∧ exec (.registerWrite true (0x1000 * hart.zeroExtend 16 + 0x10) v) s = exec (.tailStore hart v) s
     ∧ (∀ a ∈ [0x4008#16, 0x5018, 0x5020, 0x5FF8, 0x7000], exec (.registerWrite true a v) s = .next s)
     ∧ (∃ u, exec (.registerWrite true 0x6800 v) s = .next u ∧ u.device.host = h ∧ kept u)
     ∧ (h.status.getLsbD 63 = true → exec (.registerWrite true 0x4000 v) s = .next s)
     ∧ (h.status.getLsbD 63 = false → s.device.bootFail = false → 1 ≤ v.toNat → v.toNat ≤ 7 →
         ∃ u, exec (.registerWrite true 0x4000 v) s = .next u ∧ u.device.host.status.getLsbD 63 = true
           ∧ (u.device.host.status.extractLsb' 8 8).toNat = v.toNat ∧ kept u)
     ∧ (s.thread.sup = true → (reg, v) ∈ [(0x5C0#16, 0xFFFFFFFFFC#64), (0x5C9, 0xFFFFFFFF), (0x5CA, 0xFFFFFFFF), (0x5CB, 0x1F)] →
         ∃ u, exec (.registerWrite false reg v) s = .next u ∧ u.csrRead (reg.extractLsb' 0 12) = v ∧ u.ctxs = (s.onThread id).ctxs)
     ∧ (s.canonical = true → s.cur.dev < 2 ^ 30 →
         (let at_ := engLoc s.cur.dev (0x500000000 + 16 * port.toNat)
          let nsid := v.extractLsb' 0 32
          let binds := fun (e0 e1 : Word) => ∃ u, exec (.nvmeBindingWrite port v) s = .next u ∧ u.readWord at_ = e0 ∧ u.readWord (at_ + 8) = e1
            ∧ ∀ a, a < at_ ∨ at_ + 16 ≤ a → u.byteAt a = s.byteAt a
          (v.getLsbD 63 = false → binds (0#32 ++ nsid) 0)
          ∧ (v.getLsbD 63 = true → Config.nvmeNamespace port.toNat nsid.toNat = none → binds (0#32 ++ nsid) 0)
          ∧ (v.getLsbD 63 = true → Config.nvmeNamespace port.toNat nsid.toNat = some (lbs, cap) → 9 ≤ lbs → lbs ≤ 12 →
              binds (1#1 ++ 0#27 ++ BitVec.ofNat 4 lbs ++ nsid) (0#14 ++ BitVec.ofNat 50 cap))))
     ∧ (off.toNat / 8 * 8 + 8 ≤ s.device.flash.cfg.bar2Size →
       (s.hostTarget s.cur.dev va (.load 8 false) = .ok r → r.loc = some l →
         ∃ u, exec (.hostRead off) s = .next u ∧ u.device.host.reads = h.reads ++ [some (s.readWord (s.atPort l))] ∧ kept u)
       ∧ (∀ c n, s.hostTarget s.cur.dev va (.load 8 false) = .fault c n →
         ∃ u, exec (.hostRead off) s = .next u ∧ u.device.host.reads = h.reads ++ [none] ∧ kept u)
       ∧ (s.hostTarget s.cur.dev va (.store 8 v) = .ok r → r.loc = some l → regionOf l = .ls ∨ regionOf l = .hbm ∨ regionOf l = .lp → s.canonical = true → s.noWaiterAt l →
         ((s.dev (locDev l)).log? (channelCore l)).on = false →
         ∃ u, exec (.hostWrite off v) s = .next u ∧ (∀ k < 8, u.byteAt (l + k) = v.extractLsb' (8 * k) 8)
           ∧ ∀ a, a < l ∨ l + 8 ≤ a → u.byteAt a = s.byteAt a)
       ∧ (∀ c n, s.hostTarget s.cur.dev va (.store 8 v) = .fault c n →
         ∃ u, exec (.hostWrite off v) s = .next u ∧ u = s.log s.cur.dev 0x0A 0 0x1FFF noCid (va.extractLsb' 0 64) (BitVec.ofNat 64 n))))

/-- The commands of the management mailbox (R369, R371 to R373): each, while it is the one being served, ends with its CODE, BUSY clear
and vector 0 signalled. ATTEST signs its report by the next leaf of the controller's LMS key, the last leaf being kept for the key that
follows. TENKEY stores the unwrapped key, and of tenant 0 completes with BADCMD; TENCLR drops a key, or completes with NOKEY; LOGHEAD
writes a head and signals vector 2; IDENTITY gives the certified keys and those that follow. UPDATE completes with BADSIG unless both
signatures verify and with ROLLBACK below the counter; otherwise it keeps the image for the next reset, and the counter rises. A command that
is not being served does nothing. (The layouts in the mailbox are log entry 6, and the mask bits of the vectors log entry 69.) -/
def Piece.ManagementCommands : Prop :=
  ∀ (s : State),
    (let v := s.device
     let f := v.flash
     let t := (s.request0 s.cur.dev 0).toNat
     let masked := fun (n : Nat) => (v.host.vec.toList.getD n (0, 0)).2.getLsbD 32
     let on := fun (n : Nat) => v.host.status.getLsbD 63 = true ∧ (v.host.status.extractLsb' 8 8).toNat = n
     let ends := fun (u : State) (n code : Nat) (l : List Nat) => u.device.host.status = BitVec.ofNat 64 (256 * n + code)
       ∧ u.device.host.sent = v.host.sent ++ l.filter (fun k => !masked k) ∧ ∀ k ∈ l, masked k = true → u.device.host.msix.getLsbD k = true
     let runs := fun (i : Instr) (n code : Nat) (p : State → Prop) => ∃ u, exec i s = .next u ∧ ends u n code [0] ∧ p u
     let same := fun (u : State) => u.device.flash = f
     (∀ q ∈ [(Instr.attest, 1), (.tenkey, 2), (.tenclr, 3), (.loghead, 4), (.reset, 5), (.identity, 6), (.update, 7)],
       ¬ on q.2 → exec q.1 s = .next s)
     ∧ (on 1 → runs .attest 1 0 fun u =>
         (f.lmsUsed ≠ 32767 → u.device.flash = { f with lmsUsed := f.lmsUsed + 1 })
         ∧ (f.lmsUsed = 32767 → (let key := Config.lmsPublic s.cur.dev (f.lmsKey + 1)
             u.device.flash = { f with
               lmsKey := f.lmsKey + 1
               lmsUsed := 1
               chain := f.chain ++ key ++ (Config.ecdsaSign s.cur.dev key).toList ++ (Config.lmsSign s.cur.dev f.lmsKey 32767 key).toList })))
     ∧ (on 2 → (t = 0 → runs .tenkey 2 1 fun u => u.device.keys = v.keys)
         ∧ (1 ≤ t → t ≤ 255 → ∀ key, Config.unwrapKey s.cur.dev (s.requestBytes s.cur.dev 8 1784) = some key →
             runs .tenkey 2 0 fun u => Table.find u.device.keys t = some key.toList ∧ ∀ n, n ≠ t → Table.find u.device.keys n = Table.find v.keys n))
     ∧ (on 3 → (Table.find v.keys t = none → runs .tenclr 3 4 fun u => u.device.keys = v.keys)
         ∧ (∀ key, Table.find v.keys t = some key → rising (v.keys.map (·.1)) = true →
             runs .tenclr 3 0 fun u => Table.find u.device.keys t = none ∧ ∀ n, n ≠ t → Table.find u.device.keys n = Table.find v.keys n))
     ∧ (on 4 → ∃ u, exec .loghead s = .next u ∧ ends u 4 0 [2, 0] ∧ u.device.log.heads = v.log.heads + 1 ∧ u.device.log.wp = v.log.wp
         ∧ u.device.log.headWp = v.log.wp)
     ∧ (on 6 → s.canonical = true → runs .identity 6 0 fun u =>
         (let l := Config.certified s.cur.dev ++ f.chain
          ∀ k, k < 2048 → k < l.length → u.byteAt (barLoc s.cur.dev 0x4800 + k) = l.getD k 0))
     ∧ (on 7 → (Table.find f.staged (s.request0 s.cur.dev 1).toNat = none → runs .update 7 2 same)
         ∧ ∀ i, Table.find f.staged (s.request0 s.cur.dev 1).toNat = some i →
           (let verifies := Config.ecdsaVerifies (sha384 i.body) i.ecdsa = true ∧ Config.lmsVerifies (sha384 i.body) i.lms = true
            (i.kind ≠ t ∨ ¬ verifies → runs .update 7 2 same)
            ∧ (i.kind = t → verifies →
              (i.secver < (Table.find f.counters t).getD 0 → runs .update 7 3 same)
              ∧ ((Table.find f.counters t).getD 0 ≤ i.secver →
                runs .update 7 0 fun u => u.device.flash = { f with counters := Table.set f.counters t i.secver, next := f.next ++ [i] })))))

/-- A cold reset (R367), by POWER_ON, PERST, the RESET command or a thermal trip (R375): the device's memories read zero with every word
full and sound, its contexts, positions and cores are as after reset, `cycle` and `gvt` are 0, no tenant key is held, and the device is
to boot; the flash stays, with the reset counted, and so does every byte of the other devices. -/
def Piece.ColdResets : Prop :=
  ∀ (s : State) (i : Instr), s.canonical = true → s.cur.dev < 2 ^ 30 →
    (i = .reset → s.device.host.status.getLsbD 63 = true ∧ (s.device.host.status.extractLsb' 8 8).toNat = 5) →
    i ∈ [Instr.powerOn, .perst, .thermalTrip, .reset] →
    ∃ u, exec i s = .next u ∧
      (let d := s.cur.dev
       (∀ a, ownPlace d a = true → u.byteAt a = 0#8) ∧ (∀ a, ownPlace d a = false → u.byteAt a = s.byteAt a)
       ∧ (∀ a, ownPlace d (wordOf a) = true → u.full a = true ∧ wordOf a ∉ u.poison)
       ∧ (∀ c < 2 ^ 25, u.ctx d c = Ctx.reset) ∧ (∀ v < 8192, u.core d v = Core.reset ∧ ∀ p < 8, u.pos d v p = Pos.reset)
       ∧ u.device.cycle = 0 ∧ u.device.gvtKey = 0 ∧ u.device.keys = [] ∧ u.device.booting = true ∧ u.device.log.wp = 0
       ∧ u.device.tlb = [] ∧ u.device.host = HostPort.reset
       ∧ u.device.flash = { s.device.flash with resets := s.device.flash.resets + 1 })

/-- Power, temperature, links and membership (R17, R335, R374 to R376): a droop makes its cluster withhold its rotations until the voltage
recovers, and withholds them whole: what a cluster does is settled as a rotation starts, which is the model's choice (log entry 67), and a
cluster that withholds it issues nothing; the cap and the temperature limit are remembered; a port that retrains is out of service, and no membership bit changes with it; and a
membership bit that changes is logged. None of them changes a context's registers. -/
def Obligations.PowerAndLinks : Prop :=
  ∀ (s : State) (cl port peer : Nat),
    (let v := s.device
     let gives := fun (i : Instr) (p : Device → Prop) => ∃ u, exec i s = .next u ∧ p u.device ∧ SameMemory s u ∧ u.ctxs = s.ctxs
       ∧ u.cores = s.cores ∧ u.device.down = v.down
     (cl < 24 → rising v.droop = true → gives (.droop cl) (fun w => ∀ c, c ∈ w.droop ↔ c = cl ∨ c ∈ v.droop)
       ∧ gives (.voltageRecovers cl) (fun w => ∀ c, c ∈ w.droop ↔ c ≠ cl ∧ c ∈ v.droop))
     ∧ (port < 12 → rising v.portsOut = true → gives (.laneRetrain port) (fun w => ∀ c, c ∈ w.portsOut ↔ c = port ∨ c ∈ v.portsOut)
       ∧ gives (.fullRetrainingDone port) (fun w => ∀ c, c ∈ w.portsOut ↔ c ≠ port ∧ c ∈ v.portsOut))
     ∧ gives .powerCap (fun w => w.capped = true) ∧ gives .powerBelowPcap (fun w => w.capped = false) ∧ gives .thermalLimit (fun w => w.hot = true)
     ∧ (∀ c < 24, (v.droop.contains c = true → (s.startRotation s.cur.dev).device.rotOff.contains c = true)
         ∧ (v.droop.contains c = false → v.capped = false → v.hot = false → (s.startRotation s.cur.dev).device.rotOff.contains c = false))
     ∧ (v.rotOff.contains (clusterOf s.cur.vcn) = true → ∀ n, s.turn n = .rest s)
     ∧ (peer ≠ s.cur.dev → s.inDomain s.cur.dev peer = true →
       (peer ∈ v.down → ∃ u, exec (.membershipChange peer true) s = .next u ∧ (∀ n, n ∈ u.device.down ↔ n ≠ peer ∧ n ∈ v.down)
         ∧ (u.device.log.wp = v.log.wp + 1 ∨ u.device.log.dropped = v.log.dropped + 1) ∧ u.ctxs = s.ctxs)
       ∧ (peer ∉ v.down → (∀ h < 4, (v.launchHart h).job = none) → ∃ u, exec (.membershipChange peer false) s = .next u ∧ (∀ n, n ∈ u.device.down ↔ n = peer ∨ n ∈ v.down)
         ∧ (u.device.log.wp = v.log.wp + 1 ∨ u.device.log.dropped = v.log.dropped + 1) ∧ u.ctxs = s.ctxs)))

/-- Observation (R361 to R364, R336): a mark that is due is set, and the next comes after 2^N − 2^(N−1) + (r mod 2^N) fetches; in a tick
that is due the almanac latches the routers' counts, its settings and the tick, and the counts restart, or MISSED rises while a snapshot is still being written; a latched
snapshot is written, and SEQ counts it, where no page move, full checkpoint log or page walk can hold a word of it; a head record is written when 2^32 ticks have passed and entries have come since the last, and
vector 2 is signalled; a corrected soft error is an entry of the log; and an uncorrectable one is an entry, and poisons its word
wherever it strikes outside the log region, or its element of a tile. -/
def Obligations.Observation : Prop :=
  ∀ (s : State) (sub : BitVec 8) (addr syn : Word) (l : Nat) (lat : Snapshot),
    (let v := s.device
     let o := s.here.obs
     let n := (o.samp.extractLsb' 0 5).toNat
     let logged := fun (u : State) => u.device.log.wp = v.log.wp + 1 ∨ u.device.log.dropped = v.log.dropped + 1
     let due := v.obs.alm.getLsbD 4 = true ∧ v.cycle % (1400 * 2 ^ (v.obs.alm.extractLsb' 0 4).toNat) = 0
     let mine := fun (t : Table Nat) => t.filter fun p => p.1 / 8192 == s.cur.dev
     let ticks := (v.cycle + 2 ^ 64 - v.log.headTick) % 2 ^ 64
     let masked := (v.host.vec.toList.getD 2 (0, 0)).2.getLsbD 32
     (n ≠ 0 → o.left = 0 → o.markNext = false → ∃ u, exec .sample s = .next u ∧ u.here.obs.markNext = true ∧ SameMemory s u
         ∧ ∃ r, r < 2 ^ n ∧ u.here.obs.left = 2 ^ n - 2 ^ (n - 1) + r)
     ∧ (n = 0 ∨ o.left ≠ 0 ∨ o.markNext = true → exec .sample s = .next s)
     ∧ (¬ due → s.almTick s.cur.dev = s)
     ∧ (due → v.almLatch = none → (s.almTick s.cur.dev).device.almLatch = some ⟨v.cycle, v.obs.alm, v.obs.almbase, mine s.inj, mine s.ej⟩
         ∧ mine (s.almTick s.cur.dev).inj = [] ∧ mine (s.almTick s.cur.dev).ej = [])
     ∧ (due → v.almLatch = some lat → (s.almTick s.cur.dev).device.almMissed = v.almMissed + 1 ∧ (s.almTick s.cur.dev).inj = s.inj
         ∧ (s.almTick s.cur.dev).device.almLatch = some lat)
     ∧ (v.almLatch = none → exec .almanacSnapshot s = .next s)
     ∧ (v.almLatch = some lat → v.walks = [] → s.waiters = [] → (∀ p ∈ v.copy, p.2.move = none) → (∀ p ∈ v.chcore, p.2.on = false) →
         ∃ u, exec .almanacSnapshot s = .next u ∧ u.device.almSeq = v.almSeq + 1 ∧ u.device.almLatch = none ∧ u.ctxs = s.ctxs)
     ∧ (2 ^ 32 ≤ ticks → v.log.wp ≠ v.log.headWp → ∃ u, exec .logHeadRecord s = .next u
         ∧ u.device.log.headTick = v.cycle ∧ u.device.log.headWp = v.log.wp ∧ u.device.log.heads = v.log.heads + 1
         ∧ (masked = true → u.device.host.msix.getLsbD 2 = true) ∧ (masked = false → u.device.host.sent = v.host.sent ++ [2]))
     ∧ (ticks < 2 ^ 32 ∨ v.log.wp = v.log.headWp → exec .logHeadRecord s = .next s)
     ∧ (∀ k ∈ [1#8, 2#8], s.cur.vcn < 4924 → ∃ u, exec (.softErrorCorrected k sub addr syn) s = .next u ∧ logged u ∧ u.ctxs = s.ctxs
         ∧ u.poison.all s.poison.contains)
     ∧ (s.cur.vcn < 4608 → ∀ k < 4096, ∃ u, exec (.uncorrectableSoftError (2 ^ 76 + k) addr) s = .next u ∧ logged u
         ∧ u.here.accBad.contains k = true ∧ u.ctxs = s.ctxs)
     ∧ (s.cur.dev < 4096 → locDev l = s.cur.dev → installed l = true → v.flash.cfg.logBase + v.flash.cfg.logSize ≤ hbmSize →
         s.inLog (wordOf l) = false → (∀ p ∈ v.chcore, p.2.on = false) →
         ∃ u, exec (.uncorrectableSoftError l addr) s = .next u ∧ logged u ∧ u.ctxs = s.ctxs ∧ u.poison.contains (wordOf l) = true
           ∧ ∀ a, s.inLog a = false → u.byteAt a = s.byteAt a))

/-- Registers that name a block in memory (R255, R350): a write of chtab loads the 63 entries of the table, and an unordered channel is
enabled when EN is set and every reserved bit is 0; a write of sampcfg without EN stops sampling, and with EN loads the
core's part of the control block, or traps ILLEGAL when a bit that must be 0 is set or N is out of range. -/
def Piece.LoadedBlocks : Prop :=
  ∀ (s : State) (v : Word) (w : List Word),
    (s.readBlock (0#8 ++ (v &&& ~~~0xFFF#64)) 512 = .ok w → ∃ u, exec (.chtabWrite v) s = .next u
       ∧ u.here.chtab = v &&& ~~~0xFFF#64 ∧ SameMemory s u
       ∧ ∀ c < 63, (u.here.chan c).d0 = w.getD (8 * c) 0 ∧ (u.here.chan c).blocked = false
         ∧ ((w.getD (8 * c) 0).getLsbD 1 = false →
             ((u.here.chan c).en = true ↔ (w.getD (8 * c) 0).getLsbD 0 = true ∧ (w.getD (8 * c) 0).extractLsb' 3 61 = 0#61
               ∧ ∀ k, 1 ≤ k → k < 8 → w.getD (8 * c + k) 0 = 0)))
    ∧ (s.cur.vcn ≠ 0 →
       (v.getLsbD 0 = false → ∃ u, exec (.sampcfgWrite v) s = .next u ∧ u.here.sampcfg = v &&& ~~~0x1FE#64 ∧ u.here.obs.samp = 0
         ∧ u.here.obs.marks = [] ∧ SameMemory s u)
       ∧ (v.getLsbD 0 = true → s.readBlock (0#8 ++ (v &&& ~~~0x1FF#64)) 64 = .ok w →
         (let n := ((w.getD 0 0).extractLsb' 0 5).toNat
          let good := (n = 0 ∨ 8 ≤ n ∧ n ≤ 20) ∧ (w.getD 0 0).extractLsb' 6 26 = 0#26 ∧ (w.getD 2 0).extractLsb' 24 40 = 0#40
            ∧ ∀ k, 3 ≤ k → k < 64 → w.getD k 0 = 0
          (good → ∃ u, exec (.sampcfgWrite v) s = .next u ∧ u.here.sampcfg = v &&& ~~~0x1FE#64 ∧ u.here.obs.samp = w.getD 0 0
            ∧ u.here.obs.tbuf = w.getD 1 0 ∧ u.here.obs.tcnt = w.getD 2 0 ∧ SameMemory s u)
          ∧ (¬ good → exec (.sampcfgWrite v) s = .next
              ((s.wordsTrip s.cur.dev (partIssuer s.cur.dev s.cur.vcn) (0#8 ++ (v &&& ~~~0x1FF#64)) 64).trap { cause := 0x00, tval := v })))))

/-- Page walks (R29 to R33, R37, R38): PAGE_WALK begins a walk of a cluster, one of at most 16, at the tenant's root, and then reads one
entry in each event: an entry without V ends the walk with XLATE 4, which the accesses that wait on it take, and nothing is cached; a
table leads on; a leaf ends it and is cached for the cluster, unless a TLBI has dropped entries since the walk began, and later accesses
of the cluster reach PFN plus page offset. An access that waits on a walk waits while it goes on, and takes its result in its turn. From a
root in HBM, through valid entries for HBM at levels 0 and 1, a walk to a leaf at level 2 finds the leaf's place and the page of 4 TiB. (The
model's choices, log entry 12: that a home which refuses the read of an entry, for a failed core or for poison, ends the walk with that
NACK, that a home which holds the entry makes it wait, and that a walk that a TLBI outdates hands on its leaf without caching it.) -/
def Obligations.PageWalks : Prop :=
  ∀ (s : State) (cl drop l root : Nat) (rest : List Nat) (w : Walk) (ten : BitVec 8) (va : VA) (who : Issuer) (p : Perm) (e : Word),
    (let d := s.cur.dev
     let v := s.device
     let a := va.toNat % 2 ^ 71
     let mine := fun (w : Walk) => w.cluster == cl && w.tenant == ten.toNat && w.va / 65536 == a / 65536
     let running := v.walks.filter fun w => w.cluster == cl && w.ended.isNone
     let now := fun (f : Walk → Walk) => v.walks.map fun x => if mine x && x.ended.isNone then f x else x
     let sound := fun (n : Nat) => (s.core d (channelCore n)).failed = false ∧ s.poisoned n 8 = false ∧ v.moveOf n = none
     let t0 := s.readWord (tenantLoc d ten.toNat)
     let rootPa := (t0.extractLsb' 6 46).toNat * 64
     let at0 := hbmLoc d rootPa + 8 * (a / 2 ^ 68 % 8)
     let e0 := s.readWord at0
     let at1 := hbmLoc d ((e0.extractLsb' 16 36).toNat * 65536) + 8 * (a / 2 ^ 55 % 8192)
     let e1 := s.readWord at1
     let at2 := hbmLoc d ((e1.extractLsb' 16 36).toNat * 65536) + 8 * (a / 2 ^ 42 % 8192)
     let e2 := s.readWord at2
     let table := fun (e : Word) => e.extractLsb' 0 16 = 1#16 ∧ (e.extractLsb' 16 36).toNat * 65536 < hbmSize
     let leaf := fun (e : Word) => e.getLsbD 0 = true ∧ e.extractLsb' 8 2 = 0#2 ∧ e.getLsbD 10 = true ∧ e.extractLsb' 11 5 = 0#5
       ∧ e.extractLsb' 16 36 = 0#36
     let walks := fun (l : List Walk) => ∃ u, exec (.pageWalk cl ten va drop) s = .next u ∧ u.device.walks = l ∧ u.device.tlb = v.tlb
       ∧ SameMemory s u ∧ u.ctxs = s.ctxs
     let rooted := t0.getLsbD 0 = true ∧ t0.extractLsb' 2 2 = 0#2 ∧ rootPa < hbmSize
     let ends := fun (f : WalkEnd) => walks (now fun x => { x with ended := some f })
     (24 ≤ cl → exec (.pageWalk cl ten va drop) s = .next s)
     ∧ (cl < 24 → (running.take 16).find? mine = none →
       (16 ≤ running.length → exec (.pageWalk cl ten va drop) s = .next s)
       ∧ (running.length < 16 → rooted →
           walks (v.walks ++ [⟨cl, ten.toNat, a, [0, 1, 2, 3, 4], some (hbmLoc d rootPa), false, [], none⟩])))
     ∧ (cl < 24 → (running.take 16).find? mine = some w →
       (w.table = none → rooted → walks (now fun x => { x with table := some (hbmLoc d rootPa) }))
       ∧ (w.table = some root → w.levels = l :: rest →
         (let at_ := root + 8 * (w.va / 2 ^ (levelIndex l).1 % 2 ^ (levelIndex l).2)
          ((s.core d (channelCore at_)).failed = true → ends (.fault 0x05 3))
          ∧ ((s.core d (channelCore at_)).failed = false → s.poisoned at_ 8 = true → ends (.fault 0x05 5))
          ∧ (sound at_ → s.readWord at_ = e →
            (e.getLsbD 0 = false → ends (.fault 0x03 4))
            ∧ (l < 4 → table e →
                walks (now fun x => { x with levels := rest, table := some (hbmLoc d ((e.extractLsb' 16 36).toNat * 65536)) }))
            ∧ (l = 2 → leaf e → w.stale = true → ends (.leaf e 42))
            ∧ (l = 2 → leaf e → w.stale = false → ∃ u, exec (.pageWalk cl ten va drop) s = .next u
                ∧ u.device.walks = (now fun x => { x with ended := some (.leaf e 42) }) ∧ SameMemory s u ∧ u.ctxs = s.ctxs
                ∧ u.cached d cl ten.toNat w.va = some (e, 42))))))
     ∧ (rooted → sound at0 → sound at1 → sound at2 → table e0 → table e1 → leaf e2 → s.walk d ten.toNat a = .ok (e2, at2, 42))
     ∧ (s.waitedWalk d cl ten.toNat who va = some w →
         (w.ended = none → s.translate d cl ten.toNat who va p false = .error walkHeld)
         ∧ (∀ c n, w.ended = some (.fault c n) → s.walkTurn w who = true → s.translate d cl ten.toNat who va p false = .error (c, n)))
     ∧ (s.waitedWalk d cl ten.toNat who va = none → s.cached d cl ten.toNat a = some (e, 42) → leaf e → permFault e p false = none →
         (a % 2 ^ 42 < hbmSize → s.translate d cl ten.toNat who va p false = .ok ⟨hbmLoc d (a % 2 ^ 42), e.getLsbD 6⟩)
         ∧ (hbmSize ≤ a % 2 ^ 42 → s.translate d cl ten.toNat who va p false = .error (0x03, 5))))

/-- CSR writes with an effect of their own (R54, R76, R253, R255, R262, R350). -/
def Obligations.CsrEffects : Prop :=
  Piece.CoreCsrWrites ∧ Piece.EmptyWrites ∧ Piece.LoadedBlocks

/-- The management mailbox and the cold reset (R367, R369, R371 to R373, R375). -/
def Obligations.CommandsAndReset : Prop :=
  Piece.ManagementCommands ∧ Piece.ColdResets

/-! ## The machine as a whole (R17, R45, R55 to R65, R132, R227, R366, R367) -/

/-- Words written out from the encodings of R58 to R65 and R227, and the instructions that they stand for: one of every group. -/
def Obligations.DecodedWords : Prop :=
  decodeWords [0b000000000000_00000_000_00001_0010011] = .ok (.addi 1 0 0)
  ∧ decodeWords [0b0100000_00111_00110_000_00101_0110011] = .ok (.sub 5 6 7)
  ∧ decodeWords [0b1111111_00010_00001_001_00001_1100011] = .ok (.bne 1 2 0xFF0)
  ∧ decodeWords [0x6164928B] = .ok (.xst .d 0 22 9 5) ∧ decodeWords [0x8979350B] = .ok (.stff .dm 0 23 18 10)
  ∧ decodeWords [0x8809258B] = .ok (.ldff .dm 0 0 18 11) ∧ decodeWords [0x6164860B] = .ok (.xld .d 0 22 9 12)
  ∧ decodeWords [0x5C1022F3] = .ok (.csrrs 5 0 0x5C1) ∧ decodeWords [0x780E300B] = .ok (.femark .dv 0 0 28 0)
  ∧ decodeWords [0x09DF1FAB] = .ok (.tsends 31 30 29) ∧ decodeWords [0x0000702B] = .ok .trapret
  ∧ decodeWords [0x2003CE0B] = .ok (.amoOr false 0 0 7 28) ∧ decodeWords [0x29D57F2B] = .ok (.tlbi 0 30 10 29)
  ∧ decodeWords [0b00011_10_00011_00010_000_00001_1011011] = .ok (.vfma .f32 1 2 3 2)
  ∧ decodeWords [0b000_1_0_01_00111_01011_000_01010_1111011, 0, 0, 0, 0, 0b11, 0, 0] = .ok (.mzero
      { ctrap := true, shadow := false, ec := 1, base := 11, xd := 10, kb := 0, pm1 := 0, off1 := 0, pm2 := 0, off2 := 0, off3 := 0,
        off4 := 0, tile := 3, sat := false, ofmt := 0, ifmt := 0, s1 := 0, s2 := 0 })

/-- Every well-formed instruction with an encoding, at every value of its operands, is what the decoder reads from the bytes of its
words; JREAD and JRETIRE share CTXSAVE's words, and the descriptor in rs1 tells them apart (R318, R319). -/
def Obligations.DecodeOfEncode : Prop :=
  ∀ i : Instr, WellFormed i → encode i ≠ [] →
    decode ((encode i).flatMap wordBytes) = .ok (match i with
      | .jread rd rs1 rs2 | .jretire rd rs1 rs2 => .ctxsave rd rs1 rs2
      | i => i)

/-- A step of a running thread issues the decoded instruction (R17, R55, R57): when the agenda names a core that has not issued in
this tick and whose turn is that of a RUNNING position without a pending asynchronous trap, the words at its pc are readable and match no
breakpoint, and they decode to i, the step is `exec` of i, in the state in which the move's ticks have passed, the core has had its turn
of the tick, and the words are those of the current instruction; what waits at its end follows. (Sampling is off, and the core's
rotation is not withheld.) -/
def Obligations.StepRunsDecoded : Prop :=
  ∀ (s : State) (m : Move) (rest : List Move) (ws : List (BitVec 32)) (i : Instr),
    s.agenda = m :: rest → m.event = none → m.mismatches = 0 → m.dev ≤ 3071 → m.vcn < 4924 → (s.dev m.dev).booting = false →
    (let e := ((({ s with agenda := rest } : State).elapse m.dev m.dt).focusOf m)
     let f := e.onCore fun k => { k with turnAt := some e.now }
     let g := f.stirred
     e.standsStill e.cur.dev e.cur.vcn = false → e.here.turnAt ≠ some e.now → e.stopped e.cur.dev e.cur.vcn e.cur.pos = false →
     (f.pos f.cur.dev f.cur.vcn f.cur.pos).st = .running → f.thread.wait = none → f.thread.asyncReady = false →
     g.fetchWords = .ok ws → g.breakpoint = none → decodeWords ws = .ok i → g.here.obs.exponent = 0 →
     (let h := g.fetched.onThread fun c =>
        { c with stepOver := false, wasOver := c.stepOver, chosenAt := none, ahead := g.aheadAfter ws m.ahead, enTested := c.enTested && isMapWord (ws.headD 0) }
      step s = match exec i { h with cur := { h.cur with words := ws } } with
        | .next t => .next t.settle
        | .fault x => .fault x
        | .refused x => .refused x))

/-- The machine after reset (R367): `cycle` and `gvt` 0, every position EMPTY, every inbox, deque, run queue, journal and forwarding
entry empty, every core CSR at the reset value of its map, every byte of local storage, HBM and low-power DRAM zero with its word full, every tile zero and every key-map entry FREE. -/
def Obligations.ResetState : Prop :=
  (∀ d, (State.reset.dev d).cycle = 0 ∧ (State.reset.dev d).gvtKey = 0)
  ∧ (∀ d v p, State.reset.pos d v p = ⟨.empty, 0⟩)
  ∧ (∀ d v, (State.reset.core d v).inbox = [] ∧ (State.reset.core d v).deque = [] ∧ (State.reset.core d v).runq = []
      ∧ (State.reset.core d v).journal = [] ∧ (State.reset.core d v).fwd = []
      ∧ (∀ n, ((State.reset.core d v).kent n).st = .free) ∧ ∀ t r c, (State.reset.core d v).elem t r c = A96.zero)
  ∧ (∀ d v, let k := State.reset.core d v
      k.tvec = 0 ∧ k.ctxbase = 0 ∧ k.chtab = 0 ∧ k.kmcfg = 0 ∧ k.vigmax = 0xFFFFFFFF ∧ k.erefill = 0 ∧ k.agecfg = 31 ∧ k.gvtper = 64
      ∧ k.cpymargin = 0 ∧ k.sampcfg = 0 ∧ k.deqbase = 256 ∧ k.inbase = 256 ∧ k.fmttab = 0)
  ∧ (∀ l, l < 2 ^ 78 → State.reset.byteAt l = 0#8) ∧ (∀ l, State.reset.full l = true)
  ∧ State.reset.canonical = true

/-- No step leaves the canonical form of memory: bytes in rising order of place and none that an unlisted place reads as, empty words
and poisoned words in rising order. -/
def Obligations.StepKeepsCanonical : Prop :=
  ∀ s t : State, s.canonical = true → step s = .next t → t.canonical = true

/-- The integer instructions of OP-IMM, OP-IMM-32, OP, OP-32, LUI and AUIPC (R191), whatever the state of their registers: they end in
a next state that changes no register but rd, no CSR, no memory, no other context and nothing of a core or a device. -/
def Obligations.IntegerFrame : Prop :=
  ∀ (s : State) (i : Instr) (f : Fields), encodeFields i = some f → f.op ∈ [0x13#7, 0x1B#7, 0x33#7, 0x3B#7, 0x37#7, 0x17#7] →
    ∃ t, exec i s = .next t ∧ SameRegs (fun o => o == .x f.rd) s.thread t.thread ∧ (t.thread.pc = s.thread.pc ∨ t.thread.pc = s.thread.pc + 4)
      ∧ SameCtxCsrs s.thread t.thread ∧ SameTrapCsrs s.thread t.thread ∧ SameMemory s t ∧ SameElsewhere s t
end

