-- ==== Sys2Proof/Laws/Memory.lean ====
section
/-! SUPPORT. Laws of memory and of sets of words: what a write changes, and that every operation keeps the canonical form. -/

namespace Sys2Proof.Machine

/-! ## The canonical form -/

theorem Memory.wfFrom_mono {m : Memory} {a b : Nat} (hab : b ≤ a) (h : Memory.wfFrom a m = true) : Memory.wfFrom b m = true := by
  cases m with
  | nil => rfl
  | cons c t =>
    simp only [Memory.wfFrom, Bool.and_eq_true, decide_eq_true_eq] at h ⊢
    exact ⟨⟨Nat.le_trans hab h.1.1, h.1.2⟩, h.2⟩

theorem Memory.wfFrom_cell {m : Memory} {a l : Nat} {v : Byte} (ha : a ≤ l) (h : Memory.wfFrom (l + 1) m = true) :
    Memory.wfFrom a (Memory.cell l v m) = true := by
  unfold Memory.cell
  split
  · exact Memory.wfFrom_mono (Nat.le_succ_of_le ha) h
  · simp only [Memory.wfFrom, Bool.and_eq_true, decide_eq_true_eq]
    exact ⟨⟨ha, ‹_›⟩, h⟩

theorem Memory.wfFrom_set {m : Memory} {a l : Nat} {v : Byte} (ha : a ≤ l) (h : Memory.wfFrom a m = true) :
    Memory.wfFrom a (Memory.set m l v) = true := by
  induction m generalizing a with
  | nil => exact Memory.wfFrom_cell ha rfl
  | cons c t ih =>
    have h' := h
    simp only [Memory.wfFrom, Bool.and_eq_true, decide_eq_true_eq] at h'
    obtain ⟨⟨h1, h2⟩, h3⟩ := h'
    simp only [Memory.set]
    split
    · refine Memory.wfFrom_cell ha ?_
      simp only [Memory.wfFrom, Bool.and_eq_true, decide_eq_true_eq]
      exact ⟨⟨by omega, h2⟩, h3⟩
    · split
      · exact Memory.wfFrom_cell ha (by subst l; exact h3)
      · simp only [Memory.wfFrom, Bool.and_eq_true, decide_eq_true_eq]
        exact ⟨⟨h1, h2⟩, ih (by omega) h3⟩

/-- A write of one byte keeps the canonical form. -/
theorem Memory.wf_set {m : Memory} {l : Nat} {v : Byte} (h : Memory.wf m = true) : Memory.wf (Memory.set m l v) = true :=
  Memory.wfFrom_set (Nat.zero_le l) h

/-- A write of bytes from a number keeps the canonical form. -/
theorem Memory.wf_write {m : Memory} {l n v : Nat} (h : Memory.wf m = true) : Memory.wf (Memory.write m l n v) = true := by
  induction n generalizing m l v with
  | zero => exact h
  | succ n ih => exact ih (Memory.wf_set h)

/-- A write of a list of bytes keeps the canonical form. -/
theorem Memory.wf_writeBytes {m : Memory} {l : Nat} {b : List Byte} (h : Memory.wf m = true) :
    Memory.wf (Memory.writeBytes m l b) = true := by
  induction b generalizing m l with
  | nil => exact h
  | cons x t ih => exact ih (Memory.wf_set h)

theorem Memory.wfFrom_filter {m : Memory} {a : Nat} {p : Host.Cell → Bool} (h : Memory.wfFrom a m = true) :
    Memory.wfFrom a (m.filter p) = true := by
  induction m generalizing a with
  | nil => rfl
  | cons c t ih =>
    simp only [Memory.wfFrom, Bool.and_eq_true, decide_eq_true_eq] at h
    rw [List.filter_cons]
    split
    · simp only [Memory.wfFrom, Bool.and_eq_true, decide_eq_true_eq]
      exact ⟨h.1, ih h.2⟩
    · exact ih (Memory.wfFrom_mono (by omega) h.2)

/-- Dropping cells keeps the canonical form. -/
theorem Memory.wf_filter {m : Memory} {p : Host.Cell → Bool} (h : Memory.wf m = true) : Memory.wf (m.filter p) = true :=
  Memory.wfFrom_filter h

/-- Clearing a range keeps the canonical form. -/
theorem Memory.wf_clear {m : Memory} {l n : Nat} (h : Memory.wf m = true) : Memory.wf (Memory.clear m l n) = true :=
  Memory.wfFrom_filter h

/-! ## Reading back -/

theorem Memory.get_of_lt {m : Memory} {a l : Nat} (h : Memory.wfFrom a m = true) (hl : l < a) : Memory.get m l = unlistedByte l := by
  cases m with
  | nil => rfl
  | cons c t =>
    simp only [Memory.wfFrom, Bool.and_eq_true, decide_eq_true_eq] at h
    exact if_pos (by omega)

theorem Memory.get_cell {m : Memory} {l : Nat} {v : Byte} (h : Memory.wfFrom (l + 1) m = true) (k : Nat) :
    Memory.get (Memory.cell l v m) k = if k = l then v else Memory.get m k := by
  unfold Memory.cell
  split
  · split
    · subst_vars; exact Memory.get_of_lt h (Nat.lt_succ_self _)
    · rfl
  · simp only [Memory.get]
    by_cases hk : k < l
    · rw [if_pos hk, if_neg (by omega), Memory.get_of_lt h (by omega)]
    · rw [if_neg hk]
      by_cases hl : k = l
      · rw [if_pos hl, if_pos hl.symm]
      · rw [if_neg hl, if_neg (Ne.symm hl)]

theorem Memory.get_set_from {m : Memory} {a l : Nat} {v : Byte} (h : Memory.wfFrom a m = true) (k : Nat) :
    Memory.get (Memory.set m l v) k = if k = l then v else Memory.get m k := by
  induction m generalizing a with
  | nil => exact Memory.get_cell rfl k
  | cons c t ih =>
    have h' := h
    simp only [Memory.wfFrom, Bool.and_eq_true, decide_eq_true_eq] at h'
    obtain ⟨⟨h1, h2⟩, h3⟩ := h'
    simp only [Memory.set]
    split
    · rename_i hlt
      refine Memory.get_cell ?_ k
      simp only [Memory.wfFrom, Bool.and_eq_true, decide_eq_true_eq]
      exact ⟨⟨by omega, h2⟩, h3⟩
    · split
      · rename_i hge heq
        subst heq
        rw [Memory.get_cell h3]
        split
        · rfl
        · rename_i hk
          simp only [Memory.get]
          by_cases hk' : k < c.1
          · rw [if_pos hk', Memory.get_of_lt h3 (by omega)]
          · rw [if_neg hk', if_neg (Ne.symm hk)]
      · rename_i hge hne
        simp only [Memory.get]
        by_cases hk : k < c.1
        · rw [if_pos hk, if_pos hk, if_neg (by omega)]
        · rw [if_neg hk, if_neg hk]
          by_cases hc : c.1 = k
          · rw [if_pos hc, if_pos hc, if_neg (by omega)]
          · rw [if_neg hc, if_neg hc, ih h3]

/-- A byte read after a byte is written: the byte itself, and every other byte as before. -/
theorem Memory.get_set {m : Memory} {l : Nat} {v : Byte} (h : Memory.wf m = true) (k : Nat) :
    Memory.get (Memory.set m l v) k = if k = l then v else Memory.get m k :=
  Memory.get_set_from h k

/-- A write of n bytes leaves every other byte. -/
theorem Memory.get_write_other {m : Memory} {l n v k : Nat} (h : Memory.wf m = true) (hk : k < l ∨ l + n ≤ k) :
    Memory.get (Memory.write m l n v) k = Memory.get m k := by
  induction n generalizing m l v with
  | zero => rfl
  | succ n ih =>
    simp only [Memory.write]
    rw [ih (Memory.wf_set h) (by omega), Memory.get_set h, if_neg (by omega)]

/-- A write of n bytes of a number puts byte j at l + j. -/
theorem Memory.get_write {m : Memory} {l n v j : Nat} (h : Memory.wf m = true) (hj : j < n) :
    Memory.get (Memory.write m l n v) (l + j) = BitVec.ofNat 8 (v / 256 ^ j) := by
  induction n generalizing m l v j with
  | zero => omega
  | succ n ih =>
    simp only [Memory.write]
    cases j with
    | zero => rw [Memory.get_write_other (Memory.wf_set h) (by omega), Memory.get_set h, if_pos (by omega)]; simp
    | succ j =>
      have e : l + (j + 1) = l + 1 + j := by omega
      rw [e, ih (Memory.wf_set h) (by omega), Nat.div_div_eq_div_mul, Nat.pow_succ']

/-! ## Rising lists -/

theorem rising_tail {a : Nat} {t : List Nat} (h : rising (a :: t) = true) : rising t = true := by
  cases t with
  | nil => rfl
  | cons b t => simp only [rising, Bool.and_eq_true] at h; exact h.2

theorem rising_cons {a : Nat} {t : List Nat} : rising (a :: t) = true ↔ (∀ b ∈ t, a < b) ∧ rising t = true := by
  induction t generalizing a with
  | nil => simp [rising]
  | cons b t ih =>
    simp only [rising, Bool.and_eq_true, decide_eq_true_eq, List.mem_cons, forall_eq_or_imp]
    constructor
    · rintro ⟨h1, h2⟩; exact ⟨⟨h1, fun c hc => Nat.lt_trans h1 ((ih.1 h2).1 c hc)⟩, h2⟩
    · rintro ⟨⟨h1, -⟩, h2⟩; exact ⟨h1, h2⟩

theorem mem_putNat {t : List Nat} {k n : Nat} : n ∈ putNat t k ↔ n = k ∨ n ∈ t := by
  induction t with
  | nil => simp [putNat]
  | cons a t ih =>
    simp only [putNat]
    split
    · simp
    · split
      · subst_vars; simp
      · rw [List.mem_cons, List.mem_cons, ih]; exact or_left_comm

/-- Putting a word in keeps a rising list rising. -/
theorem rising_putNat {t : List Nat} {k : Nat} (h : rising t = true) : rising (putNat t k) = true := by
  induction t with
  | nil => rfl
  | cons a t ih =>
    simp only [putNat]
    split
    · rw [rising_cons]
      refine ⟨fun b hb => ?_, h⟩
      cases List.mem_cons.1 hb with
      | inl e => omega
      | inr e => have := (rising_cons.1 h).1 b e; omega
    · split
      · exact h
      · rw [rising_cons]
        refine ⟨fun b hb => ?_, ih (rising_tail h)⟩
        cases mem_putNat.1 hb with
        | inl e => omega
        | inr e => exact (rising_cons.1 h).1 b e

theorem mem_of_mem_dropNat {t : List Nat} {k n : Nat} (h : n ∈ dropNat t k) : n ∈ t := by
  induction t with
  | nil => exact h
  | cons a t ih =>
    simp only [dropNat] at h
    split at h
    · exact h
    · split at h
      · exact List.mem_cons_of_mem _ h
      · cases List.mem_cons.1 h with
        | inl e => exact e ▸ List.mem_cons_self
        | inr e => exact List.mem_cons_of_mem _ (ih e)

/-- Taking a word out keeps a rising list rising. -/
theorem rising_dropNat {t : List Nat} {k : Nat} (h : rising t = true) : rising (dropNat t k) = true := by
  induction t with
  | nil => rfl
  | cons a t ih =>
    simp only [dropNat]
    split
    · exact h
    · split
      · exact rising_tail h
      · rw [rising_cons]
        exact ⟨fun b hb => (rising_cons.1 h).1 b (mem_of_mem_dropNat hb), ih (rising_tail h)⟩

/-- Dropping members keeps a rising list rising. -/
theorem rising_filter {t : List Nat} {p : Nat → Bool} (h : rising t = true) : rising (t.filter p) = true := by
  induction t with
  | nil => rfl
  | cons a t ih =>
    rw [List.filter_cons]
    split
    · rw [rising_cons]
      exact ⟨fun b hb => (rising_cons.1 h).1 b (List.mem_filter.1 hb).1, ih (rising_tail h)⟩
    · exact ih (rising_tail h)

/-- Dropping a range keeps a rising list rising. -/
theorem rising_dropRange {t : List Nat} {l n : Nat} (h : rising t = true) : rising (dropRange t l n) = true := rising_filter h

theorem hasNat_of_lt {t : List Nat} {k : Nat} (h : ∀ b ∈ t, k < b) : hasNat t k = false := by
  cases t with
  | nil => rfl
  | cons a t => exact if_pos (h a List.mem_cons_self)

/-- A rising list holds what its membership says. -/
theorem hasNat_iff {t : List Nat} {k : Nat} (h : rising t = true) : hasNat t k = true ↔ k ∈ t := by
  induction t with
  | nil => simp [hasNat]
  | cons a t ih =>
    have h' := rising_cons.1 h
    simp only [hasNat, List.mem_cons]
    split
    · simp only [Bool.false_eq_true, false_iff, not_or]
      exact ⟨by omega, fun hk => by have := h'.1 k hk; omega⟩
    · split
      · subst_vars; simp
      · rw [ih h'.2]; constructor
        · exact .inr
        · rintro (e | e)
          · omega
          · exact e

/-! ## The state -/

/-- The three parts of the canonical form. -/
theorem State.canonical_iff {s : State} :
    s.canonical = true ↔ Memory.wf s.mem = true ∧ rising s.empty = true ∧ rising s.poison = true := by
  simp [State.canonical, and_assoc]

/-- A state with the same memory is as canonical. -/
theorem State.canonical_congr {s t : State} (hm : t.mem = s.mem) (he : t.empty = s.empty) (hp : t.poison = s.poison)
    (h : s.canonical = true) : t.canonical = true := by
  rw [State.canonical_iff] at h ⊢; rw [hm, he, hp]; exact h

/-- Memory after reset is canonical. -/
theorem State.canonical_reset : State.reset.canonical = true := rfl

end Sys2Proof.Machine
end

