-- ==== Sys2Proof/Laws/State.lean ====
section
/-! SUPPORT. Laws of the state's parts: what each basic update leaves unchanged, and what is read back after it. -/

namespace Sys2Proof.Machine

/-! ## Tables -/

/-- The value at a key after a value is set. -/
theorem Table.find_set {α : Type} (t : Table α) (k : Nat) (a : α) (n : Nat) :
    Table.find (Table.set t k a) n = if n = k then some a else Table.find t n := by
  induction t with
  | nil =>
    simp only [Table.set, Table.find]
    by_cases h : n = k
    · subst h; simp
    · rw [if_neg h]; by_cases h' : n < k
      · rw [if_pos h']
      · rw [if_neg h', if_neg (Ne.symm h)]
  | cons c t ih =>
    simp only [Table.set]
    split
    · simp only [Table.find]
      by_cases h : n = k
      · subst h; simp
      · rw [if_neg h]
        by_cases h' : n < k
        · rw [if_pos h', if_pos (by omega)]
        · rw [if_neg h', if_neg (Ne.symm h)]
    · split
      · subst_vars
        simp only [Table.find]
        by_cases h : n = c.1
        · rw [if_pos h, if_neg (by omega), if_pos h.symm]
        · rw [if_neg h, if_neg (Ne.symm h), if_neg (Ne.symm h)]
      · simp only [Table.find, ih]
        by_cases h : n = k
        · subst h; rw [if_neg (by omega), if_neg (by omega), if_pos rfl, if_pos rfl]
        · rw [if_neg h, if_neg h]

/-- No value is at a key after it is removed from a table whose keys rise. -/
theorem Table.find_erase {α : Type} {t : Table α} (h : rising (t.map (·.1)) = true) (k n : Nat) :
    Table.find (Table.erase t k) n = if n = k then none else Table.find t n := by
  have small : ∀ {u : Table α} {m : Nat}, (∀ b ∈ u.map (·.1), m < b) → Table.find u m = none := by
    intro u m hu
    cases u with
    | nil => rfl
    | cons c u => exact if_pos (hu c.1 (by simp))
  induction t with
  | nil => simp [Table.erase, Table.find]
  | cons c t ih =>
    have h' := rising_cons.1 h
    simp only [Table.erase]
    split
    · subst_vars
      by_cases hn : n = c.1
      · subst hn; rw [if_pos rfl]; exact small h'.1
      · rw [if_neg hn]; simp only [Table.find]
        by_cases hl : n < c.1
        · rw [if_pos hl]; exact small fun b hb => Nat.lt_trans hl (h'.1 b hb)
        · rw [if_neg hl, if_neg (Ne.symm hn)]
    · rename_i hne
      simp only [Table.find, ih h'.2]
      by_cases hl : n < c.1
      · rw [if_pos hl, if_pos hl]; split <;> rfl
      · rw [if_neg hl, if_neg hl]
        by_cases hc : c.1 = n
        · rw [if_pos hc, if_pos hc, if_neg (by omega)]
        · rw [if_neg hc, if_neg hc]

/-! ## What each update leaves -/

@[simp] theorem State.setCtx_mem (s : State) (d c : Nat) (x : Ctx) : (s.setCtx d c x).mem = s.mem := rfl
@[simp] theorem State.setCtx_empty (s : State) (d c : Nat) (x : Ctx) : (s.setCtx d c x).empty = s.empty := rfl
@[simp] theorem State.setCtx_poison (s : State) (d c : Nat) (x : Ctx) : (s.setCtx d c x).poison = s.poison := rfl
@[simp] theorem State.setCtx_poss (s : State) (d c : Nat) (x : Ctx) : (s.setCtx d c x).poss = s.poss := rfl
@[simp] theorem State.setCtx_cores (s : State) (d c : Nat) (x : Ctx) : (s.setCtx d c x).cores = s.cores := rfl
@[simp] theorem State.setCtx_devs (s : State) (d c : Nat) (x : Ctx) : (s.setCtx d c x).devs = s.devs := rfl
@[simp] theorem State.setCtx_net (s : State) (d c : Nat) (x : Ctx) : (s.setCtx d c x).net = s.net := rfl
@[simp] theorem State.setCtx_waiters (s : State) (d c : Nat) (x : Ctx) : (s.setCtx d c x).waiters = s.waiters := rfl
@[simp] theorem State.setCtx_inj (s : State) (d c : Nat) (x : Ctx) : (s.setCtx d c x).inj = s.inj := rfl
@[simp] theorem State.setCtx_ej (s : State) (d c : Nat) (x : Ctx) : (s.setCtx d c x).ej = s.ej := rfl
@[simp] theorem State.setCtx_agenda (s : State) (d c : Nat) (x : Ctx) : (s.setCtx d c x).agenda = s.agenda := rfl
@[simp] theorem State.setCtx_free (s : State) (d c : Nat) (x : Ctx) : (s.setCtx d c x).free = s.free := rfl
@[simp] theorem State.setCtx_cur (s : State) (d c : Nat) (x : Ctx) : (s.setCtx d c x).cur = s.cur := rfl

@[simp] theorem State.setCore_mem (s : State) (d v : Nat) (x : Core) : (s.setCore d v x).mem = s.mem := rfl
@[simp] theorem State.setCore_empty (s : State) (d v : Nat) (x : Core) : (s.setCore d v x).empty = s.empty := rfl
@[simp] theorem State.setCore_poison (s : State) (d v : Nat) (x : Core) : (s.setCore d v x).poison = s.poison := rfl
@[simp] theorem State.setCore_ctxs (s : State) (d v : Nat) (x : Core) : (s.setCore d v x).ctxs = s.ctxs := rfl
@[simp] theorem State.setCore_poss (s : State) (d v : Nat) (x : Core) : (s.setCore d v x).poss = s.poss := rfl
@[simp] theorem State.setCore_devs (s : State) (d v : Nat) (x : Core) : (s.setCore d v x).devs = s.devs := rfl
@[simp] theorem State.setCore_net (s : State) (d v : Nat) (x : Core) : (s.setCore d v x).net = s.net := rfl
@[simp] theorem State.setCore_waiters (s : State) (d v : Nat) (x : Core) : (s.setCore d v x).waiters = s.waiters := rfl
@[simp] theorem State.setCore_inj (s : State) (d v : Nat) (x : Core) : (s.setCore d v x).inj = s.inj := rfl
@[simp] theorem State.setCore_ej (s : State) (d v : Nat) (x : Core) : (s.setCore d v x).ej = s.ej := rfl
@[simp] theorem State.setCore_agenda (s : State) (d v : Nat) (x : Core) : (s.setCore d v x).agenda = s.agenda := rfl
@[simp] theorem State.setCore_free (s : State) (d v : Nat) (x : Core) : (s.setCore d v x).free = s.free := rfl
@[simp] theorem State.setCore_cur (s : State) (d v : Nat) (x : Core) : (s.setCore d v x).cur = s.cur := rfl

@[simp] theorem State.setPos_mem (s : State) (d v p : Nat) (x : Pos) : (s.setPos d v p x).mem = s.mem := rfl
@[simp] theorem State.setPos_empty (s : State) (d v p : Nat) (x : Pos) : (s.setPos d v p x).empty = s.empty := rfl
@[simp] theorem State.setPos_poison (s : State) (d v p : Nat) (x : Pos) : (s.setPos d v p x).poison = s.poison := rfl
@[simp] theorem State.setPos_ctxs (s : State) (d v p : Nat) (x : Pos) : (s.setPos d v p x).ctxs = s.ctxs := rfl
@[simp] theorem State.setPos_cores (s : State) (d v p : Nat) (x : Pos) : (s.setPos d v p x).cores = s.cores := rfl
@[simp] theorem State.setPos_devs (s : State) (d v p : Nat) (x : Pos) : (s.setPos d v p x).devs = s.devs := rfl
@[simp] theorem State.setPos_net (s : State) (d v p : Nat) (x : Pos) : (s.setPos d v p x).net = s.net := rfl
@[simp] theorem State.setPos_waiters (s : State) (d v p : Nat) (x : Pos) : (s.setPos d v p x).waiters = s.waiters := rfl
@[simp] theorem State.setPos_inj (s : State) (d v p : Nat) (x : Pos) : (s.setPos d v p x).inj = s.inj := rfl
@[simp] theorem State.setPos_ej (s : State) (d v p : Nat) (x : Pos) : (s.setPos d v p x).ej = s.ej := rfl
@[simp] theorem State.setPos_agenda (s : State) (d v p : Nat) (x : Pos) : (s.setPos d v p x).agenda = s.agenda := rfl
@[simp] theorem State.setPos_free (s : State) (d v p : Nat) (x : Pos) : (s.setPos d v p x).free = s.free := rfl
@[simp] theorem State.setPos_cur (s : State) (d v p : Nat) (x : Pos) : (s.setPos d v p x).cur = s.cur := rfl

@[simp] theorem State.setDev_mem (s : State) (d : Nat) (x : Device) : (s.setDev d x).mem = s.mem := rfl
@[simp] theorem State.setDev_empty (s : State) (d : Nat) (x : Device) : (s.setDev d x).empty = s.empty := rfl
@[simp] theorem State.setDev_poison (s : State) (d : Nat) (x : Device) : (s.setDev d x).poison = s.poison := rfl
@[simp] theorem State.setDev_ctxs (s : State) (d : Nat) (x : Device) : (s.setDev d x).ctxs = s.ctxs := rfl
@[simp] theorem State.setDev_poss (s : State) (d : Nat) (x : Device) : (s.setDev d x).poss = s.poss := rfl
@[simp] theorem State.setDev_cores (s : State) (d : Nat) (x : Device) : (s.setDev d x).cores = s.cores := rfl
@[simp] theorem State.setDev_net (s : State) (d : Nat) (x : Device) : (s.setDev d x).net = s.net := rfl
@[simp] theorem State.setDev_waiters (s : State) (d : Nat) (x : Device) : (s.setDev d x).waiters = s.waiters := rfl
@[simp] theorem State.setDev_inj (s : State) (d : Nat) (x : Device) : (s.setDev d x).inj = s.inj := rfl
@[simp] theorem State.setDev_ej (s : State) (d : Nat) (x : Device) : (s.setDev d x).ej = s.ej := rfl
@[simp] theorem State.setDev_agenda (s : State) (d : Nat) (x : Device) : (s.setDev d x).agenda = s.agenda := rfl
@[simp] theorem State.setDev_free (s : State) (d : Nat) (x : Device) : (s.setDev d x).free = s.free := rfl
@[simp] theorem State.setDev_cur (s : State) (d : Nat) (x : Device) : (s.setDev d x).cur = s.cur := rfl

@[simp] theorem State.modCtx_mem (s : State) (d c : Nat) (f : Ctx → Ctx) : (s.modCtx d c f).mem = s.mem := rfl
@[simp] theorem State.modCtx_empty (s : State) (d c : Nat) (f : Ctx → Ctx) : (s.modCtx d c f).empty = s.empty := rfl
@[simp] theorem State.modCtx_poison (s : State) (d c : Nat) (f : Ctx → Ctx) : (s.modCtx d c f).poison = s.poison := rfl
@[simp] theorem State.modCtx_poss (s : State) (d c : Nat) (f : Ctx → Ctx) : (s.modCtx d c f).poss = s.poss := rfl
@[simp] theorem State.modCtx_cores (s : State) (d c : Nat) (f : Ctx → Ctx) : (s.modCtx d c f).cores = s.cores := rfl
@[simp] theorem State.modCtx_devs (s : State) (d c : Nat) (f : Ctx → Ctx) : (s.modCtx d c f).devs = s.devs := rfl
@[simp] theorem State.modCtx_net (s : State) (d c : Nat) (f : Ctx → Ctx) : (s.modCtx d c f).net = s.net := rfl
@[simp] theorem State.modCtx_waiters (s : State) (d c : Nat) (f : Ctx → Ctx) : (s.modCtx d c f).waiters = s.waiters := rfl
@[simp] theorem State.modCtx_inj (s : State) (d c : Nat) (f : Ctx → Ctx) : (s.modCtx d c f).inj = s.inj := rfl
@[simp] theorem State.modCtx_ej (s : State) (d c : Nat) (f : Ctx → Ctx) : (s.modCtx d c f).ej = s.ej := rfl
@[simp] theorem State.modCtx_agenda (s : State) (d c : Nat) (f : Ctx → Ctx) : (s.modCtx d c f).agenda = s.agenda := rfl
@[simp] theorem State.modCtx_free (s : State) (d c : Nat) (f : Ctx → Ctx) : (s.modCtx d c f).free = s.free := rfl
@[simp] theorem State.modCtx_cur (s : State) (d c : Nat) (f : Ctx → Ctx) : (s.modCtx d c f).cur = s.cur := rfl

@[simp] theorem State.modCore_mem (s : State) (d v : Nat) (f : Core → Core) : (s.modCore d v f).mem = s.mem := rfl
@[simp] theorem State.modCore_empty (s : State) (d v : Nat) (f : Core → Core) : (s.modCore d v f).empty = s.empty := rfl
@[simp] theorem State.modCore_poison (s : State) (d v : Nat) (f : Core → Core) : (s.modCore d v f).poison = s.poison := rfl
@[simp] theorem State.modCore_ctxs (s : State) (d v : Nat) (f : Core → Core) : (s.modCore d v f).ctxs = s.ctxs := rfl
@[simp] theorem State.modCore_poss (s : State) (d v : Nat) (f : Core → Core) : (s.modCore d v f).poss = s.poss := rfl
@[simp] theorem State.modCore_devs (s : State) (d v : Nat) (f : Core → Core) : (s.modCore d v f).devs = s.devs := rfl
@[simp] theorem State.modCore_net (s : State) (d v : Nat) (f : Core → Core) : (s.modCore d v f).net = s.net := rfl
@[simp] theorem State.modCore_waiters (s : State) (d v : Nat) (f : Core → Core) : (s.modCore d v f).waiters = s.waiters := rfl
@[simp] theorem State.modCore_inj (s : State) (d v : Nat) (f : Core → Core) : (s.modCore d v f).inj = s.inj := rfl
@[simp] theorem State.modCore_ej (s : State) (d v : Nat) (f : Core → Core) : (s.modCore d v f).ej = s.ej := rfl
@[simp] theorem State.modCore_agenda (s : State) (d v : Nat) (f : Core → Core) : (s.modCore d v f).agenda = s.agenda := rfl
@[simp] theorem State.modCore_free (s : State) (d v : Nat) (f : Core → Core) : (s.modCore d v f).free = s.free := rfl
@[simp] theorem State.modCore_cur (s : State) (d v : Nat) (f : Core → Core) : (s.modCore d v f).cur = s.cur := rfl

@[simp] theorem State.modDev_mem (s : State) (d : Nat) (f : Device → Device) : (s.modDev d f).mem = s.mem := rfl
@[simp] theorem State.modDev_empty (s : State) (d : Nat) (f : Device → Device) : (s.modDev d f).empty = s.empty := rfl
@[simp] theorem State.modDev_poison (s : State) (d : Nat) (f : Device → Device) : (s.modDev d f).poison = s.poison := rfl
@[simp] theorem State.modDev_ctxs (s : State) (d : Nat) (f : Device → Device) : (s.modDev d f).ctxs = s.ctxs := rfl
@[simp] theorem State.modDev_poss (s : State) (d : Nat) (f : Device → Device) : (s.modDev d f).poss = s.poss := rfl
@[simp] theorem State.modDev_cores (s : State) (d : Nat) (f : Device → Device) : (s.modDev d f).cores = s.cores := rfl
@[simp] theorem State.modDev_net (s : State) (d : Nat) (f : Device → Device) : (s.modDev d f).net = s.net := rfl
@[simp] theorem State.modDev_waiters (s : State) (d : Nat) (f : Device → Device) : (s.modDev d f).waiters = s.waiters := rfl
@[simp] theorem State.modDev_inj (s : State) (d : Nat) (f : Device → Device) : (s.modDev d f).inj = s.inj := rfl
@[simp] theorem State.modDev_ej (s : State) (d : Nat) (f : Device → Device) : (s.modDev d f).ej = s.ej := rfl
@[simp] theorem State.modDev_agenda (s : State) (d : Nat) (f : Device → Device) : (s.modDev d f).agenda = s.agenda := rfl
@[simp] theorem State.modDev_free (s : State) (d : Nat) (f : Device → Device) : (s.modDev d f).free = s.free := rfl
@[simp] theorem State.modDev_cur (s : State) (d : Nat) (f : Device → Device) : (s.modDev d f).cur = s.cur := rfl

@[simp] theorem State.onThread_mem (s : State) (f : Ctx → Ctx) : (s.onThread f).mem = s.mem := rfl
@[simp] theorem State.onThread_empty (s : State) (f : Ctx → Ctx) : (s.onThread f).empty = s.empty := rfl
@[simp] theorem State.onThread_poison (s : State) (f : Ctx → Ctx) : (s.onThread f).poison = s.poison := rfl
@[simp] theorem State.onThread_poss (s : State) (f : Ctx → Ctx) : (s.onThread f).poss = s.poss := rfl
@[simp] theorem State.onThread_cores (s : State) (f : Ctx → Ctx) : (s.onThread f).cores = s.cores := rfl
@[simp] theorem State.onThread_devs (s : State) (f : Ctx → Ctx) : (s.onThread f).devs = s.devs := rfl
@[simp] theorem State.onThread_net (s : State) (f : Ctx → Ctx) : (s.onThread f).net = s.net := rfl
@[simp] theorem State.onThread_waiters (s : State) (f : Ctx → Ctx) : (s.onThread f).waiters = s.waiters := rfl
@[simp] theorem State.onThread_inj (s : State) (f : Ctx → Ctx) : (s.onThread f).inj = s.inj := rfl
@[simp] theorem State.onThread_ej (s : State) (f : Ctx → Ctx) : (s.onThread f).ej = s.ej := rfl
@[simp] theorem State.onThread_agenda (s : State) (f : Ctx → Ctx) : (s.onThread f).agenda = s.agenda := rfl
@[simp] theorem State.onThread_free (s : State) (f : Ctx → Ctx) : (s.onThread f).free = s.free := rfl
@[simp] theorem State.onThread_cur (s : State) (f : Ctx → Ctx) : (s.onThread f).cur = s.cur := rfl

@[simp] theorem State.onCore_mem (s : State) (f : Core → Core) : (s.onCore f).mem = s.mem := rfl
@[simp] theorem State.onCore_empty (s : State) (f : Core → Core) : (s.onCore f).empty = s.empty := rfl
@[simp] theorem State.onCore_poison (s : State) (f : Core → Core) : (s.onCore f).poison = s.poison := rfl
@[simp] theorem State.onCore_ctxs (s : State) (f : Core → Core) : (s.onCore f).ctxs = s.ctxs := rfl
@[simp] theorem State.onCore_poss (s : State) (f : Core → Core) : (s.onCore f).poss = s.poss := rfl
@[simp] theorem State.onCore_devs (s : State) (f : Core → Core) : (s.onCore f).devs = s.devs := rfl
@[simp] theorem State.onCore_net (s : State) (f : Core → Core) : (s.onCore f).net = s.net := rfl
@[simp] theorem State.onCore_waiters (s : State) (f : Core → Core) : (s.onCore f).waiters = s.waiters := rfl
@[simp] theorem State.onCore_inj (s : State) (f : Core → Core) : (s.onCore f).inj = s.inj := rfl
@[simp] theorem State.onCore_ej (s : State) (f : Core → Core) : (s.onCore f).ej = s.ej := rfl
@[simp] theorem State.onCore_agenda (s : State) (f : Core → Core) : (s.onCore f).agenda = s.agenda := rfl
@[simp] theorem State.onCore_free (s : State) (f : Core → Core) : (s.onCore f).free = s.free := rfl
@[simp] theorem State.onCore_cur (s : State) (f : Core → Core) : (s.onCore f).cur = s.cur := rfl

@[simp] theorem State.onDevice_mem (s : State) (f : Device → Device) : (s.onDevice f).mem = s.mem := rfl
@[simp] theorem State.onDevice_empty (s : State) (f : Device → Device) : (s.onDevice f).empty = s.empty := rfl
@[simp] theorem State.onDevice_poison (s : State) (f : Device → Device) : (s.onDevice f).poison = s.poison := rfl
@[simp] theorem State.onDevice_ctxs (s : State) (f : Device → Device) : (s.onDevice f).ctxs = s.ctxs := rfl
@[simp] theorem State.onDevice_poss (s : State) (f : Device → Device) : (s.onDevice f).poss = s.poss := rfl
@[simp] theorem State.onDevice_cores (s : State) (f : Device → Device) : (s.onDevice f).cores = s.cores := rfl
@[simp] theorem State.onDevice_net (s : State) (f : Device → Device) : (s.onDevice f).net = s.net := rfl
@[simp] theorem State.onDevice_waiters (s : State) (f : Device → Device) : (s.onDevice f).waiters = s.waiters := rfl
@[simp] theorem State.onDevice_inj (s : State) (f : Device → Device) : (s.onDevice f).inj = s.inj := rfl
@[simp] theorem State.onDevice_ej (s : State) (f : Device → Device) : (s.onDevice f).ej = s.ej := rfl
@[simp] theorem State.onDevice_agenda (s : State) (f : Device → Device) : (s.onDevice f).agenda = s.agenda := rfl
@[simp] theorem State.onDevice_free (s : State) (f : Device → Device) : (s.onDevice f).free = s.free := rfl
@[simp] theorem State.onDevice_cur (s : State) (f : Device → Device) : (s.onDevice f).cur = s.cur := rfl

@[simp] theorem State.drawn_mem (s : State) : (s.drawn).mem = s.mem := rfl
@[simp] theorem State.drawn_empty (s : State) : (s.drawn).empty = s.empty := rfl
@[simp] theorem State.drawn_poison (s : State) : (s.drawn).poison = s.poison := rfl
@[simp] theorem State.drawn_ctxs (s : State) : (s.drawn).ctxs = s.ctxs := rfl
@[simp] theorem State.drawn_poss (s : State) : (s.drawn).poss = s.poss := rfl
@[simp] theorem State.drawn_cores (s : State) : (s.drawn).cores = s.cores := rfl
@[simp] theorem State.drawn_devs (s : State) : (s.drawn).devs = s.devs := rfl
@[simp] theorem State.drawn_net (s : State) : (s.drawn).net = s.net := rfl
@[simp] theorem State.drawn_waiters (s : State) : (s.drawn).waiters = s.waiters := rfl
@[simp] theorem State.drawn_inj (s : State) : (s.drawn).inj = s.inj := rfl
@[simp] theorem State.drawn_ej (s : State) : (s.drawn).ej = s.ej := rfl
@[simp] theorem State.drawn_agenda (s : State) : (s.drawn).agenda = s.agenda := rfl
@[simp] theorem State.drawn_cur (s : State) : (s.drawn).cur = s.cur := rfl

@[simp] theorem State.send_mem (s : State) (m : Msg) : (s.send m).mem = s.mem := rfl
@[simp] theorem State.send_empty (s : State) (m : Msg) : (s.send m).empty = s.empty := rfl
@[simp] theorem State.send_poison (s : State) (m : Msg) : (s.send m).poison = s.poison := rfl
@[simp] theorem State.send_ctxs (s : State) (m : Msg) : (s.send m).ctxs = s.ctxs := rfl
@[simp] theorem State.send_poss (s : State) (m : Msg) : (s.send m).poss = s.poss := rfl
@[simp] theorem State.send_cores (s : State) (m : Msg) : (s.send m).cores = s.cores := rfl
@[simp] theorem State.send_devs (s : State) (m : Msg) : (s.send m).devs = s.devs := rfl
@[simp] theorem State.send_waiters (s : State) (m : Msg) : (s.send m).waiters = s.waiters := rfl
@[simp] theorem State.send_agenda (s : State) (m : Msg) : (s.send m).agenda = s.agenda := rfl
@[simp] theorem State.send_free (s : State) (m : Msg) : (s.send m).free = s.free := rfl
@[simp] theorem State.send_cur (s : State) (m : Msg) : (s.send m).cur = s.cur := rfl

@[simp] theorem State.unsend_mem (s : State) (n : Nat) : (s.unsend n).mem = s.mem := rfl
@[simp] theorem State.unsend_empty (s : State) (n : Nat) : (s.unsend n).empty = s.empty := rfl
@[simp] theorem State.unsend_poison (s : State) (n : Nat) : (s.unsend n).poison = s.poison := rfl
@[simp] theorem State.unsend_ctxs (s : State) (n : Nat) : (s.unsend n).ctxs = s.ctxs := rfl
@[simp] theorem State.unsend_poss (s : State) (n : Nat) : (s.unsend n).poss = s.poss := rfl
@[simp] theorem State.unsend_cores (s : State) (n : Nat) : (s.unsend n).cores = s.cores := rfl
@[simp] theorem State.unsend_devs (s : State) (n : Nat) : (s.unsend n).devs = s.devs := rfl
@[simp] theorem State.unsend_waiters (s : State) (n : Nat) : (s.unsend n).waiters = s.waiters := rfl
@[simp] theorem State.unsend_inj (s : State) (n : Nat) : (s.unsend n).inj = s.inj := rfl
@[simp] theorem State.unsend_ej (s : State) (n : Nat) : (s.unsend n).ej = s.ej := rfl
@[simp] theorem State.unsend_agenda (s : State) (n : Nat) : (s.unsend n).agenda = s.agenda := rfl
@[simp] theorem State.unsend_free (s : State) (n : Nat) : (s.unsend n).free = s.free := rfl
@[simp] theorem State.unsend_cur (s : State) (n : Nat) : (s.unsend n).cur = s.cur := rfl

@[simp] theorem State.setFull_mem (s : State) (l : Nat) (b : Bool) : (s.setFull l b).mem = s.mem := rfl
@[simp] theorem State.setFull_poison (s : State) (l : Nat) (b : Bool) : (s.setFull l b).poison = s.poison := rfl
@[simp] theorem State.setFull_ctxs (s : State) (l : Nat) (b : Bool) : (s.setFull l b).ctxs = s.ctxs := rfl
@[simp] theorem State.setFull_poss (s : State) (l : Nat) (b : Bool) : (s.setFull l b).poss = s.poss := rfl
@[simp] theorem State.setFull_cores (s : State) (l : Nat) (b : Bool) : (s.setFull l b).cores = s.cores := rfl
@[simp] theorem State.setFull_devs (s : State) (l : Nat) (b : Bool) : (s.setFull l b).devs = s.devs := rfl
@[simp] theorem State.setFull_net (s : State) (l : Nat) (b : Bool) : (s.setFull l b).net = s.net := rfl
@[simp] theorem State.setFull_waiters (s : State) (l : Nat) (b : Bool) : (s.setFull l b).waiters = s.waiters := rfl
@[simp] theorem State.setFull_inj (s : State) (l : Nat) (b : Bool) : (s.setFull l b).inj = s.inj := rfl
@[simp] theorem State.setFull_ej (s : State) (l : Nat) (b : Bool) : (s.setFull l b).ej = s.ej := rfl
@[simp] theorem State.setFull_agenda (s : State) (l : Nat) (b : Bool) : (s.setFull l b).agenda = s.agenda := rfl
@[simp] theorem State.setFull_free (s : State) (l : Nat) (b : Bool) : (s.setFull l b).free = s.free := rfl
@[simp] theorem State.setFull_cur (s : State) (l : Nat) (b : Bool) : (s.setFull l b).cur = s.cur := rfl

@[simp] theorem State.writeMem_empty (s : State) (l n v : Nat) : (s.writeMem l n v).empty = s.empty := rfl
@[simp] theorem State.writeMem_ctxs (s : State) (l n v : Nat) : (s.writeMem l n v).ctxs = s.ctxs := rfl
@[simp] theorem State.writeMem_poss (s : State) (l n v : Nat) : (s.writeMem l n v).poss = s.poss := rfl
@[simp] theorem State.writeMem_cores (s : State) (l n v : Nat) : (s.writeMem l n v).cores = s.cores := rfl
@[simp] theorem State.writeMem_devs (s : State) (l n v : Nat) : (s.writeMem l n v).devs = s.devs := rfl
@[simp] theorem State.writeMem_net (s : State) (l n v : Nat) : (s.writeMem l n v).net = s.net := rfl
@[simp] theorem State.writeMem_waiters (s : State) (l n v : Nat) : (s.writeMem l n v).waiters = s.waiters := rfl
@[simp] theorem State.writeMem_inj (s : State) (l n v : Nat) : (s.writeMem l n v).inj = s.inj := rfl
@[simp] theorem State.writeMem_ej (s : State) (l n v : Nat) : (s.writeMem l n v).ej = s.ej := rfl
@[simp] theorem State.writeMem_agenda (s : State) (l n v : Nat) : (s.writeMem l n v).agenda = s.agenda := rfl
@[simp] theorem State.writeMem_free (s : State) (l n v : Nat) : (s.writeMem l n v).free = s.free := rfl
@[simp] theorem State.writeMem_cur (s : State) (l n v : Nat) : (s.writeMem l n v).cur = s.cur := rfl

@[simp] theorem State.writeWord_empty (s : State) (l : Nat) (w : Word) : (s.writeWord l w).empty = s.empty := rfl
@[simp] theorem State.writeWord_ctxs (s : State) (l : Nat) (w : Word) : (s.writeWord l w).ctxs = s.ctxs := rfl
@[simp] theorem State.writeWord_poss (s : State) (l : Nat) (w : Word) : (s.writeWord l w).poss = s.poss := rfl
@[simp] theorem State.writeWord_cores (s : State) (l : Nat) (w : Word) : (s.writeWord l w).cores = s.cores := rfl
@[simp] theorem State.writeWord_devs (s : State) (l : Nat) (w : Word) : (s.writeWord l w).devs = s.devs := rfl
@[simp] theorem State.writeWord_net (s : State) (l : Nat) (w : Word) : (s.writeWord l w).net = s.net := rfl
@[simp] theorem State.writeWord_waiters (s : State) (l : Nat) (w : Word) : (s.writeWord l w).waiters = s.waiters := rfl
@[simp] theorem State.writeWord_inj (s : State) (l : Nat) (w : Word) : (s.writeWord l w).inj = s.inj := rfl
@[simp] theorem State.writeWord_ej (s : State) (l : Nat) (w : Word) : (s.writeWord l w).ej = s.ej := rfl
@[simp] theorem State.writeWord_agenda (s : State) (l : Nat) (w : Word) : (s.writeWord l w).agenda = s.agenda := rfl
@[simp] theorem State.writeWord_free (s : State) (l : Nat) (w : Word) : (s.writeWord l w).free = s.free := rfl
@[simp] theorem State.writeWord_cur (s : State) (l : Nat) (w : Word) : (s.writeWord l w).cur = s.cur := rfl

@[simp] theorem State.writeBytes_empty (s : State) (l : Nat) (b : List Byte) : (s.writeBytes l b).empty = s.empty := rfl
@[simp] theorem State.writeBytes_ctxs (s : State) (l : Nat) (b : List Byte) : (s.writeBytes l b).ctxs = s.ctxs := rfl
@[simp] theorem State.writeBytes_poss (s : State) (l : Nat) (b : List Byte) : (s.writeBytes l b).poss = s.poss := rfl
@[simp] theorem State.writeBytes_cores (s : State) (l : Nat) (b : List Byte) : (s.writeBytes l b).cores = s.cores := rfl
@[simp] theorem State.writeBytes_devs (s : State) (l : Nat) (b : List Byte) : (s.writeBytes l b).devs = s.devs := rfl
@[simp] theorem State.writeBytes_net (s : State) (l : Nat) (b : List Byte) : (s.writeBytes l b).net = s.net := rfl
@[simp] theorem State.writeBytes_waiters (s : State) (l : Nat) (b : List Byte) : (s.writeBytes l b).waiters = s.waiters := rfl
@[simp] theorem State.writeBytes_inj (s : State) (l : Nat) (b : List Byte) : (s.writeBytes l b).inj = s.inj := rfl
@[simp] theorem State.writeBytes_ej (s : State) (l : Nat) (b : List Byte) : (s.writeBytes l b).ej = s.ej := rfl
@[simp] theorem State.writeBytes_agenda (s : State) (l : Nat) (b : List Byte) : (s.writeBytes l b).agenda = s.agenda := rfl
@[simp] theorem State.writeBytes_free (s : State) (l : Nat) (b : List Byte) : (s.writeBytes l b).free = s.free := rfl
@[simp] theorem State.writeBytes_cur (s : State) (l : Nat) (b : List Byte) : (s.writeBytes l b).cur = s.cur := rfl

@[simp] theorem State.scrubRange_ctxs (s : State) (l n : Nat) : (s.scrubRange l n).ctxs = s.ctxs := rfl
@[simp] theorem State.scrubRange_poss (s : State) (l n : Nat) : (s.scrubRange l n).poss = s.poss := rfl
@[simp] theorem State.scrubRange_cores (s : State) (l n : Nat) : (s.scrubRange l n).cores = s.cores := rfl
@[simp] theorem State.scrubRange_devs (s : State) (l n : Nat) : (s.scrubRange l n).devs = s.devs := rfl
@[simp] theorem State.scrubRange_net (s : State) (l n : Nat) : (s.scrubRange l n).net = s.net := rfl
@[simp] theorem State.scrubRange_waiters (s : State) (l n : Nat) : (s.scrubRange l n).waiters = s.waiters := rfl
@[simp] theorem State.scrubRange_inj (s : State) (l n : Nat) : (s.scrubRange l n).inj = s.inj := rfl
@[simp] theorem State.scrubRange_ej (s : State) (l n : Nat) : (s.scrubRange l n).ej = s.ej := rfl
@[simp] theorem State.scrubRange_agenda (s : State) (l n : Nat) : (s.scrubRange l n).agenda = s.agenda := rfl
@[simp] theorem State.scrubRange_free (s : State) (l n : Nat) : (s.scrubRange l n).free = s.free := rfl
@[simp] theorem State.scrubRange_cur (s : State) (l n : Nat) : (s.scrubRange l n).cur = s.cur := rfl

/-! ## What is read back -/

@[simp] theorem State.setCtx_core (s : State) (d c : Nat) (x : Ctx) (d1 v1 : Nat) : (s.setCtx d c x).core d1 v1 = s.core d1 v1 := rfl
@[simp] theorem State.setCtx_pos (s : State) (d c : Nat) (x : Ctx) (d1 v1 p1 : Nat) : (s.setCtx d c x).pos d1 v1 p1 = s.pos d1 v1 p1 := rfl
@[simp] theorem State.setCtx_dev (s : State) (d c : Nat) (x : Ctx) (d1 : Nat) : (s.setCtx d c x).dev d1 = s.dev d1 := rfl
@[simp] theorem State.setCtx_here (s : State) (d c : Nat) (x : Ctx) : (s.setCtx d c x).here = s.here := rfl
@[simp] theorem State.setCtx_device (s : State) (d c : Nat) (x : Ctx) : (s.setCtx d c x).device = s.device := rfl

@[simp] theorem State.setCore_ctx (s : State) (d v : Nat) (x : Core) (d1 c1 : Nat) : (s.setCore d v x).ctx d1 c1 = s.ctx d1 c1 := rfl
@[simp] theorem State.setCore_pos (s : State) (d v : Nat) (x : Core) (d1 v1 p1 : Nat) : (s.setCore d v x).pos d1 v1 p1 = s.pos d1 v1 p1 := rfl
@[simp] theorem State.setCore_dev (s : State) (d v : Nat) (x : Core) (d1 : Nat) : (s.setCore d v x).dev d1 = s.dev d1 := rfl
@[simp] theorem State.setCore_thread (s : State) (d v : Nat) (x : Core) : (s.setCore d v x).thread = s.thread := rfl
@[simp] theorem State.setCore_device (s : State) (d v : Nat) (x : Core) : (s.setCore d v x).device = s.device := rfl

@[simp] theorem State.setPos_ctx (s : State) (d v p : Nat) (x : Pos) (d1 c1 : Nat) : (s.setPos d v p x).ctx d1 c1 = s.ctx d1 c1 := rfl
@[simp] theorem State.setPos_core (s : State) (d v p : Nat) (x : Pos) (d1 v1 : Nat) : (s.setPos d v p x).core d1 v1 = s.core d1 v1 := rfl
@[simp] theorem State.setPos_dev (s : State) (d v p : Nat) (x : Pos) (d1 : Nat) : (s.setPos d v p x).dev d1 = s.dev d1 := rfl
@[simp] theorem State.setPos_thread (s : State) (d v p : Nat) (x : Pos) : (s.setPos d v p x).thread = s.thread := rfl
@[simp] theorem State.setPos_here (s : State) (d v p : Nat) (x : Pos) : (s.setPos d v p x).here = s.here := rfl
@[simp] theorem State.setPos_device (s : State) (d v p : Nat) (x : Pos) : (s.setPos d v p x).device = s.device := rfl

@[simp] theorem State.setDev_ctx (s : State) (d : Nat) (x : Device) (d1 c1 : Nat) : (s.setDev d x).ctx d1 c1 = s.ctx d1 c1 := rfl
@[simp] theorem State.setDev_core (s : State) (d : Nat) (x : Device) (d1 v1 : Nat) : (s.setDev d x).core d1 v1 = s.core d1 v1 := rfl
@[simp] theorem State.setDev_pos (s : State) (d : Nat) (x : Device) (d1 v1 p1 : Nat) : (s.setDev d x).pos d1 v1 p1 = s.pos d1 v1 p1 := rfl
@[simp] theorem State.setDev_thread (s : State) (d : Nat) (x : Device) : (s.setDev d x).thread = s.thread := rfl
@[simp] theorem State.setDev_here (s : State) (d : Nat) (x : Device) : (s.setDev d x).here = s.here := rfl

@[simp] theorem State.modCtx_core (s : State) (d c : Nat) (f : Ctx → Ctx) (d1 v1 : Nat) : (s.modCtx d c f).core d1 v1 = s.core d1 v1 := rfl
@[simp] theorem State.modCtx_pos (s : State) (d c : Nat) (f : Ctx → Ctx) (d1 v1 p1 : Nat) : (s.modCtx d c f).pos d1 v1 p1 = s.pos d1 v1 p1 := rfl
@[simp] theorem State.modCtx_dev (s : State) (d c : Nat) (f : Ctx → Ctx) (d1 : Nat) : (s.modCtx d c f).dev d1 = s.dev d1 := rfl
@[simp] theorem State.modCtx_here (s : State) (d c : Nat) (f : Ctx → Ctx) : (s.modCtx d c f).here = s.here := rfl
@[simp] theorem State.modCtx_device (s : State) (d c : Nat) (f : Ctx → Ctx) : (s.modCtx d c f).device = s.device := rfl

@[simp] theorem State.modCore_ctx (s : State) (d v : Nat) (f : Core → Core) (d1 c1 : Nat) : (s.modCore d v f).ctx d1 c1 = s.ctx d1 c1 := rfl
@[simp] theorem State.modCore_pos (s : State) (d v : Nat) (f : Core → Core) (d1 v1 p1 : Nat) : (s.modCore d v f).pos d1 v1 p1 = s.pos d1 v1 p1 := rfl
@[simp] theorem State.modCore_dev (s : State) (d v : Nat) (f : Core → Core) (d1 : Nat) : (s.modCore d v f).dev d1 = s.dev d1 := rfl
@[simp] theorem State.modCore_thread (s : State) (d v : Nat) (f : Core → Core) : (s.modCore d v f).thread = s.thread := rfl
@[simp] theorem State.modCore_device (s : State) (d v : Nat) (f : Core → Core) : (s.modCore d v f).device = s.device := rfl

@[simp] theorem State.modDev_ctx (s : State) (d : Nat) (f : Device → Device) (d1 c1 : Nat) : (s.modDev d f).ctx d1 c1 = s.ctx d1 c1 := rfl
@[simp] theorem State.modDev_core (s : State) (d : Nat) (f : Device → Device) (d1 v1 : Nat) : (s.modDev d f).core d1 v1 = s.core d1 v1 := rfl
@[simp] theorem State.modDev_pos (s : State) (d : Nat) (f : Device → Device) (d1 v1 p1 : Nat) : (s.modDev d f).pos d1 v1 p1 = s.pos d1 v1 p1 := rfl
@[simp] theorem State.modDev_thread (s : State) (d : Nat) (f : Device → Device) : (s.modDev d f).thread = s.thread := rfl
@[simp] theorem State.modDev_here (s : State) (d : Nat) (f : Device → Device) : (s.modDev d f).here = s.here := rfl

@[simp] theorem State.onThread_core (s : State) (f : Ctx → Ctx) (d1 v1 : Nat) : (s.onThread f).core d1 v1 = s.core d1 v1 := rfl
@[simp] theorem State.onThread_pos (s : State) (f : Ctx → Ctx) (d1 v1 p1 : Nat) : (s.onThread f).pos d1 v1 p1 = s.pos d1 v1 p1 := rfl
@[simp] theorem State.onThread_dev (s : State) (f : Ctx → Ctx) (d1 : Nat) : (s.onThread f).dev d1 = s.dev d1 := rfl
@[simp] theorem State.onThread_here (s : State) (f : Ctx → Ctx) : (s.onThread f).here = s.here := rfl
@[simp] theorem State.onThread_device (s : State) (f : Ctx → Ctx) : (s.onThread f).device = s.device := rfl

@[simp] theorem State.onCore_ctx (s : State) (f : Core → Core) (d1 c1 : Nat) : (s.onCore f).ctx d1 c1 = s.ctx d1 c1 := rfl
@[simp] theorem State.onCore_pos (s : State) (f : Core → Core) (d1 v1 p1 : Nat) : (s.onCore f).pos d1 v1 p1 = s.pos d1 v1 p1 := rfl
@[simp] theorem State.onCore_dev (s : State) (f : Core → Core) (d1 : Nat) : (s.onCore f).dev d1 = s.dev d1 := rfl
@[simp] theorem State.onCore_thread (s : State) (f : Core → Core) : (s.onCore f).thread = s.thread := rfl
@[simp] theorem State.onCore_device (s : State) (f : Core → Core) : (s.onCore f).device = s.device := rfl

@[simp] theorem State.onDevice_ctx (s : State) (f : Device → Device) (d1 c1 : Nat) : (s.onDevice f).ctx d1 c1 = s.ctx d1 c1 := rfl
@[simp] theorem State.onDevice_core (s : State) (f : Device → Device) (d1 v1 : Nat) : (s.onDevice f).core d1 v1 = s.core d1 v1 := rfl
@[simp] theorem State.onDevice_pos (s : State) (f : Device → Device) (d1 v1 p1 : Nat) : (s.onDevice f).pos d1 v1 p1 = s.pos d1 v1 p1 := rfl
@[simp] theorem State.onDevice_thread (s : State) (f : Device → Device) : (s.onDevice f).thread = s.thread := rfl
@[simp] theorem State.onDevice_here (s : State) (f : Device → Device) : (s.onDevice f).here = s.here := rfl

@[simp] theorem State.drawn_ctx (s : State) (d1 c1 : Nat) : (s.drawn).ctx d1 c1 = s.ctx d1 c1 := rfl
@[simp] theorem State.drawn_core (s : State) (d1 v1 : Nat) : (s.drawn).core d1 v1 = s.core d1 v1 := rfl
@[simp] theorem State.drawn_pos (s : State) (d1 v1 p1 : Nat) : (s.drawn).pos d1 v1 p1 = s.pos d1 v1 p1 := rfl
@[simp] theorem State.drawn_dev (s : State) (d1 : Nat) : (s.drawn).dev d1 = s.dev d1 := rfl
@[simp] theorem State.drawn_thread (s : State) : (s.drawn).thread = s.thread := rfl
@[simp] theorem State.drawn_here (s : State) : (s.drawn).here = s.here := rfl
@[simp] theorem State.drawn_device (s : State) : (s.drawn).device = s.device := rfl

@[simp] theorem State.send_ctx (s : State) (m : Msg) (d1 c1 : Nat) : (s.send m).ctx d1 c1 = s.ctx d1 c1 := rfl
@[simp] theorem State.send_core (s : State) (m : Msg) (d1 v1 : Nat) : (s.send m).core d1 v1 = s.core d1 v1 := rfl
@[simp] theorem State.send_pos (s : State) (m : Msg) (d1 v1 p1 : Nat) : (s.send m).pos d1 v1 p1 = s.pos d1 v1 p1 := rfl
@[simp] theorem State.send_dev (s : State) (m : Msg) (d1 : Nat) : (s.send m).dev d1 = s.dev d1 := rfl
@[simp] theorem State.send_thread (s : State) (m : Msg) : (s.send m).thread = s.thread := rfl
@[simp] theorem State.send_here (s : State) (m : Msg) : (s.send m).here = s.here := rfl
@[simp] theorem State.send_device (s : State) (m : Msg) : (s.send m).device = s.device := rfl

@[simp] theorem State.unsend_ctx (s : State) (n : Nat) (d1 c1 : Nat) : (s.unsend n).ctx d1 c1 = s.ctx d1 c1 := rfl
@[simp] theorem State.unsend_core (s : State) (n : Nat) (d1 v1 : Nat) : (s.unsend n).core d1 v1 = s.core d1 v1 := rfl
@[simp] theorem State.unsend_pos (s : State) (n : Nat) (d1 v1 p1 : Nat) : (s.unsend n).pos d1 v1 p1 = s.pos d1 v1 p1 := rfl
@[simp] theorem State.unsend_dev (s : State) (n : Nat) (d1 : Nat) : (s.unsend n).dev d1 = s.dev d1 := rfl
@[simp] theorem State.unsend_thread (s : State) (n : Nat) : (s.unsend n).thread = s.thread := rfl
@[simp] theorem State.unsend_here (s : State) (n : Nat) : (s.unsend n).here = s.here := rfl
@[simp] theorem State.unsend_device (s : State) (n : Nat) : (s.unsend n).device = s.device := rfl

@[simp] theorem State.setFull_ctx (s : State) (l : Nat) (b : Bool) (d1 c1 : Nat) : (s.setFull l b).ctx d1 c1 = s.ctx d1 c1 := rfl
@[simp] theorem State.setFull_core (s : State) (l : Nat) (b : Bool) (d1 v1 : Nat) : (s.setFull l b).core d1 v1 = s.core d1 v1 := rfl
@[simp] theorem State.setFull_pos (s : State) (l : Nat) (b : Bool) (d1 v1 p1 : Nat) : (s.setFull l b).pos d1 v1 p1 = s.pos d1 v1 p1 := rfl
@[simp] theorem State.setFull_dev (s : State) (l : Nat) (b : Bool) (d1 : Nat) : (s.setFull l b).dev d1 = s.dev d1 := rfl
@[simp] theorem State.setFull_thread (s : State) (l : Nat) (b : Bool) : (s.setFull l b).thread = s.thread := rfl
@[simp] theorem State.setFull_here (s : State) (l : Nat) (b : Bool) : (s.setFull l b).here = s.here := rfl
@[simp] theorem State.setFull_device (s : State) (l : Nat) (b : Bool) : (s.setFull l b).device = s.device := rfl

@[simp] theorem State.writeMem_ctx (s : State) (l n v : Nat) (d1 c1 : Nat) : (s.writeMem l n v).ctx d1 c1 = s.ctx d1 c1 := rfl
@[simp] theorem State.writeMem_core (s : State) (l n v : Nat) (d1 v1 : Nat) : (s.writeMem l n v).core d1 v1 = s.core d1 v1 := rfl
@[simp] theorem State.writeMem_pos (s : State) (l n v : Nat) (d1 v1 p1 : Nat) : (s.writeMem l n v).pos d1 v1 p1 = s.pos d1 v1 p1 := rfl
@[simp] theorem State.writeMem_dev (s : State) (l n v : Nat) (d1 : Nat) : (s.writeMem l n v).dev d1 = s.dev d1 := rfl
@[simp] theorem State.writeMem_thread (s : State) (l n v : Nat) : (s.writeMem l n v).thread = s.thread := rfl
@[simp] theorem State.writeMem_here (s : State) (l n v : Nat) : (s.writeMem l n v).here = s.here := rfl
@[simp] theorem State.writeMem_device (s : State) (l n v : Nat) : (s.writeMem l n v).device = s.device := rfl

@[simp] theorem State.writeWord_ctx (s : State) (l : Nat) (w : Word) (d1 c1 : Nat) : (s.writeWord l w).ctx d1 c1 = s.ctx d1 c1 := rfl
@[simp] theorem State.writeWord_core (s : State) (l : Nat) (w : Word) (d1 v1 : Nat) : (s.writeWord l w).core d1 v1 = s.core d1 v1 := rfl
@[simp] theorem State.writeWord_pos (s : State) (l : Nat) (w : Word) (d1 v1 p1 : Nat) : (s.writeWord l w).pos d1 v1 p1 = s.pos d1 v1 p1 := rfl
@[simp] theorem State.writeWord_dev (s : State) (l : Nat) (w : Word) (d1 : Nat) : (s.writeWord l w).dev d1 = s.dev d1 := rfl
@[simp] theorem State.writeWord_thread (s : State) (l : Nat) (w : Word) : (s.writeWord l w).thread = s.thread := rfl
@[simp] theorem State.writeWord_here (s : State) (l : Nat) (w : Word) : (s.writeWord l w).here = s.here := rfl
@[simp] theorem State.writeWord_device (s : State) (l : Nat) (w : Word) : (s.writeWord l w).device = s.device := rfl

@[simp] theorem State.writeBytes_ctx (s : State) (l : Nat) (b : List Byte) (d1 c1 : Nat) : (s.writeBytes l b).ctx d1 c1 = s.ctx d1 c1 := rfl
@[simp] theorem State.writeBytes_core (s : State) (l : Nat) (b : List Byte) (d1 v1 : Nat) : (s.writeBytes l b).core d1 v1 = s.core d1 v1 := rfl
@[simp] theorem State.writeBytes_pos (s : State) (l : Nat) (b : List Byte) (d1 v1 p1 : Nat) : (s.writeBytes l b).pos d1 v1 p1 = s.pos d1 v1 p1 := rfl
@[simp] theorem State.writeBytes_dev (s : State) (l : Nat) (b : List Byte) (d1 : Nat) : (s.writeBytes l b).dev d1 = s.dev d1 := rfl
@[simp] theorem State.writeBytes_thread (s : State) (l : Nat) (b : List Byte) : (s.writeBytes l b).thread = s.thread := rfl
@[simp] theorem State.writeBytes_here (s : State) (l : Nat) (b : List Byte) : (s.writeBytes l b).here = s.here := rfl
@[simp] theorem State.writeBytes_device (s : State) (l : Nat) (b : List Byte) : (s.writeBytes l b).device = s.device := rfl

@[simp] theorem State.scrubRange_ctx (s : State) (l n : Nat) (d1 c1 : Nat) : (s.scrubRange l n).ctx d1 c1 = s.ctx d1 c1 := rfl
@[simp] theorem State.scrubRange_core (s : State) (l n : Nat) (d1 v1 : Nat) : (s.scrubRange l n).core d1 v1 = s.core d1 v1 := rfl
@[simp] theorem State.scrubRange_pos (s : State) (l n : Nat) (d1 v1 p1 : Nat) : (s.scrubRange l n).pos d1 v1 p1 = s.pos d1 v1 p1 := rfl
@[simp] theorem State.scrubRange_dev (s : State) (l n : Nat) (d1 : Nat) : (s.scrubRange l n).dev d1 = s.dev d1 := rfl
@[simp] theorem State.scrubRange_thread (s : State) (l n : Nat) : (s.scrubRange l n).thread = s.thread := rfl
@[simp] theorem State.scrubRange_here (s : State) (l n : Nat) : (s.scrubRange l n).here = s.here := rfl
@[simp] theorem State.scrubRange_device (s : State) (l n : Nat) : (s.scrubRange l n).device = s.device := rfl

theorem State.ctx_setCtx (s : State) (d c d1 c1 : Nat) (x : Ctx) :
    (s.setCtx d c x).ctx d1 c1 = if ctxKey d1 c1 = ctxKey d c then x else s.ctx d1 c1 := by
  simp only [State.ctx, State.setCtx, Table.find_set]
  split <;> rfl

theorem State.core_setCore (s : State) (d v d1 v1 : Nat) (x : Core) :
    (s.setCore d v x).core d1 v1 = if coreKey d1 v1 = coreKey d v then x else s.core d1 v1 := by
  simp only [State.core, State.setCore, Table.find_set]
  split <;> rfl

theorem State.pos_setPos (s : State) (d v p d1 v1 p1 : Nat) (x : Pos) :
    (s.setPos d v p x).pos d1 v1 p1 = if posKey d1 v1 p1 = posKey d v p then x else s.pos d1 v1 p1 := by
  simp only [State.pos, State.setPos, Table.find_set]
  split <;> rfl

theorem State.dev_setDev (s : State) (d d1 : Nat) (x : Device) : (s.setDev d x).dev d1 = if d1 = d then x else s.dev d1 := by
  simp only [State.dev, State.setDev, Table.find_set]
  split <;> rfl

@[simp] theorem State.ctx_setCtx_self (s : State) (d c : Nat) (x : Ctx) : (s.setCtx d c x).ctx d c = x := by
  rw [State.ctx_setCtx, if_pos rfl]

@[simp] theorem State.ctx_modCtx_self (s : State) (d c : Nat) (f : Ctx → Ctx) : (s.modCtx d c f).ctx d c = f (s.ctx d c) :=
  State.ctx_setCtx_self _ _ _ _

@[simp] theorem State.core_setCore_self (s : State) (d v : Nat) (x : Core) : (s.setCore d v x).core d v = x := by
  rw [State.core_setCore, if_pos rfl]

@[simp] theorem State.core_modCore_self (s : State) (d v : Nat) (f : Core → Core) : (s.modCore d v f).core d v = f (s.core d v) :=
  State.core_setCore_self _ _ _ _

@[simp] theorem State.pos_setPos_self (s : State) (d v p : Nat) (x : Pos) : (s.setPos d v p x).pos d v p = x := by
  rw [State.pos_setPos, if_pos rfl]

@[simp] theorem State.dev_setDev_self (s : State) (d : Nat) (x : Device) : (s.setDev d x).dev d = x := by
  rw [State.dev_setDev, if_pos rfl]

@[simp] theorem State.dev_modDev_self (s : State) (d : Nat) (f : Device → Device) : (s.modDev d f).dev d = f (s.dev d) :=
  State.dev_setDev_self _ _ _

@[simp] theorem State.thread_onThread (s : State) (f : Ctx → Ctx) : (s.onThread f).thread = f s.thread :=
  State.ctx_setCtx_self _ _ _ _

@[simp] theorem State.here_onCore (s : State) (f : Core → Core) : (s.onCore f).here = f s.here :=
  State.core_setCore_self _ _ _ _

@[simp] theorem State.device_onDevice (s : State) (f : Device → Device) : (s.onDevice f).device = f s.device :=
  State.dev_setDev_self _ _ _

/-! ## The canonical form of memory -/

@[simp] theorem State.setCtx_canonical (s : State) (d c : Nat) (x : Ctx) : (s.setCtx d c x).canonical = s.canonical := rfl
@[simp] theorem State.setCore_canonical (s : State) (d v : Nat) (x : Core) : (s.setCore d v x).canonical = s.canonical := rfl
@[simp] theorem State.setPos_canonical (s : State) (d v p : Nat) (x : Pos) : (s.setPos d v p x).canonical = s.canonical := rfl
@[simp] theorem State.setDev_canonical (s : State) (d : Nat) (x : Device) : (s.setDev d x).canonical = s.canonical := rfl
@[simp] theorem State.modCtx_canonical (s : State) (d c : Nat) (f : Ctx → Ctx) : (s.modCtx d c f).canonical = s.canonical := rfl
@[simp] theorem State.modCore_canonical (s : State) (d v : Nat) (f : Core → Core) : (s.modCore d v f).canonical = s.canonical := rfl
@[simp] theorem State.modDev_canonical (s : State) (d : Nat) (f : Device → Device) : (s.modDev d f).canonical = s.canonical := rfl
@[simp] theorem State.onThread_canonical (s : State) (f : Ctx → Ctx) : (s.onThread f).canonical = s.canonical := rfl
@[simp] theorem State.onCore_canonical (s : State) (f : Core → Core) : (s.onCore f).canonical = s.canonical := rfl
@[simp] theorem State.onDevice_canonical (s : State) (f : Device → Device) : (s.onDevice f).canonical = s.canonical := rfl
@[simp] theorem State.drawn_canonical (s : State) : (s.drawn).canonical = s.canonical := rfl
@[simp] theorem State.send_canonical (s : State) (m : Msg) : (s.send m).canonical = s.canonical := rfl
@[simp] theorem State.unsend_canonical (s : State) (n : Nat) : (s.unsend n).canonical = s.canonical := rfl

/-- A write of bytes of a number keeps memory canonical. -/
theorem State.canonical_writeMem {s : State} (l n v : Nat) (h : s.canonical = true) : (s.writeMem l n v).canonical = true := by
  rw [State.canonical_iff] at h ⊢
  refine ⟨Memory.wf_write h.1, h.2.1, ?_⟩
  show rising (if n = 8 then dropNat s.poison l else s.poison) = true
  split
  · exact rising_dropNat h.2.2
  · exact h.2.2

/-- A write of a word keeps memory canonical. -/
theorem State.canonical_writeWord {s : State} (l : Nat) (w : Word) (h : s.canonical = true) : (s.writeWord l w).canonical = true :=
  State.canonical_writeMem l 8 w.toNat h

/-- A write of bytes keeps memory canonical. -/
theorem State.canonical_writeBytes {s : State} (l : Nat) (b : List Byte) (h : s.canonical = true) :
    (s.writeBytes l b).canonical = true := by
  rw [State.canonical_iff] at h ⊢
  exact ⟨Memory.wf_writeBytes h.1, h.2.1, rising_dropRange h.2.2⟩

/-- A change of an F/E bit keeps memory canonical. -/
theorem State.canonical_setFull {s : State} (l : Nat) (b : Bool) (h : s.canonical = true) : (s.setFull l b).canonical = true := by
  rw [State.canonical_iff] at h ⊢
  refine ⟨h.1, ?_, h.2.2⟩
  cases b
  · exact rising_putNat h.2.1
  · exact rising_dropNat h.2.1

/-- Clearing a range keeps memory canonical. -/
theorem State.canonical_scrubRange {s : State} (l n : Nat) (h : s.canonical = true) : (s.scrubRange l n).canonical = true := by
  rw [State.canonical_iff] at h ⊢
  exact ⟨Memory.wf_clear h.1, rising_dropRange h.2.1, rising_dropRange h.2.2⟩

end Sys2Proof.Machine
end

