-- ==== Sys2Proof/Laws/Registers.lean ====
section
/-! SUPPORT. Laws of registers and contexts: what a write of a register, a trap and the end of an instruction leave unchanged,
and what is read back after them. -/

namespace Sys2Proof.Machine

/-! ## What each update of a context leaves -/

@[simp] theorem Ctx.setX_pc (c : Ctx) (r : Reg) (w : Word) : (c.setX r w).pc = c.pc := by unfold Ctx.setX; split <;> rfl
@[simp] theorem Ctx.setX_v (c : Ctx) (r : Reg) (w : Word) : (c.setX r w).v = c.v := by unfold Ctx.setX; split <;> rfl
@[simp] theorem Ctx.setX_m (c : Ctx) (r : Reg) (w : Word) : (c.setX r w).m = c.m := by unfold Ctx.setX; split <;> rfl
@[simp] theorem Ctx.setX_vf (c : Ctx) (r : Reg) (w : Word) : (c.setX r w).vf = c.vf := by unfold Ctx.setX; split <;> rfl
@[simp] theorem Ctx.setX_mf (c : Ctx) (r : Reg) (w : Word) : (c.setX r w).mf = c.mf := by unfold Ctx.setX; split <;> rfl
@[simp] theorem Ctx.setX_vr (c : Ctx) (r : Reg) (w : Word) : (c.setX r w).vr = c.vr := by unfold Ctx.setX; split <;> rfl
@[simp] theorem Ctx.setX_aw (c : Ctx) (r : Reg) (w : Word) : (c.setX r w).aw = c.aw := by unfold Ctx.setX; split <;> rfl
@[simp] theorem Ctx.setX_fmt (c : Ctx) (r : Reg) (w : Word) : (c.setX r w).fmt = c.fmt := by unfold Ctx.setX; split <;> rfl
@[simp] theorem Ctx.setX_sclp (c : Ctx) (r : Reg) (w : Word) : (c.setX r w).sclp = c.sclp := by unfold Ctx.setX; split <;> rfl
@[simp] theorem Ctx.setX_ebudget (c : Ctx) (r : Reg) (w : Word) : (c.setX r w).ebudget = c.ebudget := by unfold Ctx.setX; split <;> rfl
@[simp] theorem Ctx.setX_vflags (c : Ctx) (r : Reg) (w : Word) : (c.setX r w).vflags = c.vflags := by unfold Ctx.setX; split <;> rfl
@[simp] theorem Ctx.setX_vstale (c : Ctx) (r : Reg) (w : Word) : (c.setX r w).vstale = c.vstale := by unfold Ctx.setX; split <;> rfl
@[simp] theorem Ctx.setX_mcnt (c : Ctx) (r : Reg) (w : Word) : (c.setX r w).mcnt = c.mcnt := by unfold Ctx.setX; split <;> rfl
@[simp] theorem Ctx.setX_mthr (c : Ctx) (r : Reg) (w : Word) : (c.setX r w).mthr = c.mthr := by unfold Ctx.setX; split <;> rfl
@[simp] theorem Ctx.setX_tcause (c : Ctx) (r : Reg) (w : Word) : (c.setX r w).tcause = c.tcause := by unfold Ctx.setX; split <;> rfl
@[simp] theorem Ctx.setX_tval (c : Ctx) (r : Reg) (w : Word) : (c.setX r w).tval = c.tval := by unfold Ctx.setX; split <;> rfl
@[simp] theorem Ctx.setX_tepc (c : Ctx) (r : Reg) (w : Word) : (c.setX r w).tepc = c.tepc := by unfold Ctx.setX; split <;> rfl
@[simp] theorem Ctx.setX_tstat (c : Ctx) (r : Reg) (w : Word) : (c.setX r w).tstat = c.tstat := by unfold Ctx.setX; split <;> rfl
@[simp] theorem Ctx.setX_tscratch (c : Ctx) (r : Reg) (w : Word) : (c.setX r w).tscratch = c.tscratch := by unfold Ctx.setX; split <;> rfl
@[simp] theorem Ctx.setX_vtime (c : Ctx) (r : Reg) (w : Word) : (c.setX r w).vtime = c.vtime := by unfold Ctx.setX; split <;> rfl
@[simp] theorem Ctx.setX_chan (c : Ctx) (r : Reg) (w : Word) : (c.setX r w).chan = c.chan := by unfold Ctx.setX; split <;> rfl
@[simp] theorem Ctx.setX_prio (c : Ctx) (r : Reg) (w : Word) : (c.setX r w).prio = c.prio := by unfold Ctx.setX; split <;> rfl
@[simp] theorem Ctx.setX_tenant (c : Ctx) (r : Reg) (w : Word) : (c.setX r w).tenant = c.tenant := by unfold Ctx.setX; split <;> rfl
@[simp] theorem Ctx.setX_sup (c : Ctx) (r : Reg) (w : Word) : (c.setX r w).sup = c.sup := by unfold Ctx.setX; split <;> rfl
@[simp] theorem Ctx.setX_mcp (c : Ctx) (r : Reg) (w : Word) : (c.setX r w).mcp = c.mcp := by unfold Ctx.setX; split <;> rfl
@[simp] theorem Ctx.setX_arrival (c : Ctx) (r : Reg) (w : Word) : (c.setX r w).arrival = c.arrival := by unfold Ctx.setX; split <;> rfl
@[simp] theorem Ctx.setX_pend (c : Ctx) (r : Reg) (w : Word) : (c.setX r w).pend = c.pend := by unfold Ctx.setX; split <;> rfl
@[simp] theorem Ctx.setX_conts (c : Ctx) (r : Reg) (w : Word) : (c.setX r w).conts = c.conts := by unfold Ctx.setX; split <;> rfl
@[simp] theorem Ctx.setX_wait (c : Ctx) (r : Reg) (w : Word) : (c.setX r w).wait = c.wait := by unfold Ctx.setX; split <;> rfl
@[simp] theorem Ctx.setX_parkedAt (c : Ctx) (r : Reg) (w : Word) : (c.setX r w).parkedAt = c.parkedAt := by unfold Ctx.setX; split <;> rfl
@[simp] theorem Ctx.setX_sent (c : Ctx) (r : Reg) (w : Word) : (c.setX r w).sent = c.sent := by unfold Ctx.setX; split <;> rfl
@[simp] theorem Ctx.setX_storeFence (c : Ctx) (r : Reg) (w : Word) : (c.setX r w).storeFence = c.storeFence := by unfold Ctx.setX; split <;> rfl
@[simp] theorem Ctx.setX_landed (c : Ctx) (r : Reg) (w : Word) : (c.setX r w).landed = c.landed := by unfold Ctx.setX; split <;> rfl
@[simp] theorem Ctx.setX_held (c : Ctx) (r : Reg) (w : Word) : (c.setX r w).held = c.held := by unfold Ctx.setX; split <;> rfl
@[simp] theorem Ctx.setX_split (c : Ctx) (r : Reg) (w : Word) : (c.setX r w).split = c.split := by unfold Ctx.setX; split <;> rfl
@[simp] theorem Ctx.setX_fork (c : Ctx) (r : Reg) (w : Word) : (c.setX r w).fork = c.fork := by unfold Ctx.setX; split <;> rfl
@[simp] theorem Ctx.setX_sending (c : Ctx) (r : Reg) (w : Word) : (c.setX r w).sending = c.sending := by unfold Ctx.setX; split <;> rfl
@[simp] theorem Ctx.setX_mism (c : Ctx) (r : Reg) (w : Word) : (c.setX r w).mism = c.mism := by unfold Ctx.setX; split <;> rfl
@[simp] theorem Ctx.setX_record (c : Ctx) (r : Reg) (w : Word) : (c.setX r w).record = c.record := by unfold Ctx.setX; split <;> rfl
@[simp] theorem Ctx.setX_ordered (c : Ctx) (r : Reg) (w : Word) : (c.setX r w).ordered = c.ordered := by unfold Ctx.setX; split <;> rfl
@[simp] theorem Ctx.setX_revocable (c : Ctx) (r : Reg) (w : Word) : (c.setX r w).revocable = c.revocable := by unfold Ctx.setX; split <;> rfl
@[simp] theorem Ctx.setX_binding (c : Ctx) (r : Reg) (w : Word) : (c.setX r w).binding = c.binding := by unfold Ctx.setX; split <;> rfl
@[simp] theorem Ctx.setX_chosenAt (c : Ctx) (r : Reg) (w : Word) : (c.setX r w).chosenAt = c.chosenAt := by unfold Ctx.setX; split <;> rfl
@[simp] theorem Ctx.setX_enTested (c : Ctx) (r : Reg) (w : Word) : (c.setX r w).enTested = c.enTested := by unfold Ctx.setX; split <;> rfl
@[simp] theorem Ctx.setX_stepOver (c : Ctx) (r : Reg) (w : Word) : (c.setX r w).stepOver = c.stepOver := by unfold Ctx.setX; split <;> rfl
@[simp] theorem Ctx.setX_wasOver (c : Ctx) (r : Reg) (w : Word) : (c.setX r w).wasOver = c.wasOver := by unfold Ctx.setX; split <;> rfl
@[simp] theorem Ctx.setX_ahead (c : Ctx) (r : Reg) (w : Word) : (c.setX r w).ahead = c.ahead := by unfold Ctx.setX; split <;> rfl
@[simp] theorem Ctx.setX_core (c : Ctx) (r : Reg) (w : Word) : (c.setX r w).core = c.core := by unfold Ctx.setX; split <;> rfl
@[simp] theorem Ctx.setX_pos (c : Ctx) (r : Reg) (w : Word) : (c.setX r w).pos = c.pos := by unfold Ctx.setX; split <;> rfl
@[simp] theorem Ctx.setX_place (c : Ctx) (r : Reg) (w : Word) : (c.setX r w).place = c.place := by unfold Ctx.setX; split <;> rfl
@[simp] theorem Ctx.setX_area (c : Ctx) (r : Reg) (w : Word) : (c.setX r w).area = c.area := by unfold Ctx.setX; split <;> rfl
@[simp] theorem Ctx.setX_supTask (c : Ctx) (r : Reg) (w : Word) : (c.setX r w).supTask = c.supTask := by unfold Ctx.setX; split <;> rfl

@[simp] theorem Ctx.awaitX_pc (c : Ctx) (r : Reg) : (c.awaitX r).pc = c.pc := by unfold Ctx.awaitX; split <;> rfl
@[simp] theorem Ctx.awaitX_x (c : Ctx) (r : Reg) : (c.awaitX r).x = c.x := by unfold Ctx.awaitX; split <;> rfl
@[simp] theorem Ctx.awaitX_v (c : Ctx) (r : Reg) : (c.awaitX r).v = c.v := by unfold Ctx.awaitX; split <;> rfl
@[simp] theorem Ctx.awaitX_m (c : Ctx) (r : Reg) : (c.awaitX r).m = c.m := by unfold Ctx.awaitX; split <;> rfl
@[simp] theorem Ctx.awaitX_vf (c : Ctx) (r : Reg) : (c.awaitX r).vf = c.vf := by unfold Ctx.awaitX; split <;> rfl
@[simp] theorem Ctx.awaitX_mf (c : Ctx) (r : Reg) : (c.awaitX r).mf = c.mf := by unfold Ctx.awaitX; split <;> rfl
@[simp] theorem Ctx.awaitX_vr (c : Ctx) (r : Reg) : (c.awaitX r).vr = c.vr := by unfold Ctx.awaitX; split <;> rfl
@[simp] theorem Ctx.awaitX_xc (c : Ctx) (r : Reg) : (c.awaitX r).xc = c.xc := by unfold Ctx.awaitX; split <;> rfl
@[simp] theorem Ctx.awaitX_aw (c : Ctx) (r : Reg) : (c.awaitX r).aw = c.aw := by unfold Ctx.awaitX; split <;> rfl
@[simp] theorem Ctx.awaitX_fmt (c : Ctx) (r : Reg) : (c.awaitX r).fmt = c.fmt := by unfold Ctx.awaitX; split <;> rfl
@[simp] theorem Ctx.awaitX_sclp (c : Ctx) (r : Reg) : (c.awaitX r).sclp = c.sclp := by unfold Ctx.awaitX; split <;> rfl
@[simp] theorem Ctx.awaitX_ebudget (c : Ctx) (r : Reg) : (c.awaitX r).ebudget = c.ebudget := by unfold Ctx.awaitX; split <;> rfl
@[simp] theorem Ctx.awaitX_vflags (c : Ctx) (r : Reg) : (c.awaitX r).vflags = c.vflags := by unfold Ctx.awaitX; split <;> rfl
@[simp] theorem Ctx.awaitX_vstale (c : Ctx) (r : Reg) : (c.awaitX r).vstale = c.vstale := by unfold Ctx.awaitX; split <;> rfl
@[simp] theorem Ctx.awaitX_mcnt (c : Ctx) (r : Reg) : (c.awaitX r).mcnt = c.mcnt := by unfold Ctx.awaitX; split <;> rfl
@[simp] theorem Ctx.awaitX_mthr (c : Ctx) (r : Reg) : (c.awaitX r).mthr = c.mthr := by unfold Ctx.awaitX; split <;> rfl
@[simp] theorem Ctx.awaitX_tcause (c : Ctx) (r : Reg) : (c.awaitX r).tcause = c.tcause := by unfold Ctx.awaitX; split <;> rfl
@[simp] theorem Ctx.awaitX_tval (c : Ctx) (r : Reg) : (c.awaitX r).tval = c.tval := by unfold Ctx.awaitX; split <;> rfl
@[simp] theorem Ctx.awaitX_tepc (c : Ctx) (r : Reg) : (c.awaitX r).tepc = c.tepc := by unfold Ctx.awaitX; split <;> rfl
@[simp] theorem Ctx.awaitX_tstat (c : Ctx) (r : Reg) : (c.awaitX r).tstat = c.tstat := by unfold Ctx.awaitX; split <;> rfl
@[simp] theorem Ctx.awaitX_tscratch (c : Ctx) (r : Reg) : (c.awaitX r).tscratch = c.tscratch := by unfold Ctx.awaitX; split <;> rfl
@[simp] theorem Ctx.awaitX_vtime (c : Ctx) (r : Reg) : (c.awaitX r).vtime = c.vtime := by unfold Ctx.awaitX; split <;> rfl
@[simp] theorem Ctx.awaitX_chan (c : Ctx) (r : Reg) : (c.awaitX r).chan = c.chan := by unfold Ctx.awaitX; split <;> rfl
@[simp] theorem Ctx.awaitX_prio (c : Ctx) (r : Reg) : (c.awaitX r).prio = c.prio := by unfold Ctx.awaitX; split <;> rfl
@[simp] theorem Ctx.awaitX_tenant (c : Ctx) (r : Reg) : (c.awaitX r).tenant = c.tenant := by unfold Ctx.awaitX; split <;> rfl
@[simp] theorem Ctx.awaitX_sup (c : Ctx) (r : Reg) : (c.awaitX r).sup = c.sup := by unfold Ctx.awaitX; split <;> rfl
@[simp] theorem Ctx.awaitX_mcp (c : Ctx) (r : Reg) : (c.awaitX r).mcp = c.mcp := by unfold Ctx.awaitX; split <;> rfl
@[simp] theorem Ctx.awaitX_arrival (c : Ctx) (r : Reg) : (c.awaitX r).arrival = c.arrival := by unfold Ctx.awaitX; split <;> rfl
@[simp] theorem Ctx.awaitX_pend (c : Ctx) (r : Reg) : (c.awaitX r).pend = c.pend := by unfold Ctx.awaitX; split <;> rfl
@[simp] theorem Ctx.awaitX_conts (c : Ctx) (r : Reg) : (c.awaitX r).conts = c.conts := by unfold Ctx.awaitX; split <;> rfl
@[simp] theorem Ctx.awaitX_wait (c : Ctx) (r : Reg) : (c.awaitX r).wait = c.wait := by unfold Ctx.awaitX; split <;> rfl
@[simp] theorem Ctx.awaitX_parkedAt (c : Ctx) (r : Reg) : (c.awaitX r).parkedAt = c.parkedAt := by unfold Ctx.awaitX; split <;> rfl
@[simp] theorem Ctx.awaitX_sent (c : Ctx) (r : Reg) : (c.awaitX r).sent = c.sent := by unfold Ctx.awaitX; split <;> rfl
@[simp] theorem Ctx.awaitX_storeFence (c : Ctx) (r : Reg) : (c.awaitX r).storeFence = c.storeFence := by unfold Ctx.awaitX; split <;> rfl
@[simp] theorem Ctx.awaitX_landed (c : Ctx) (r : Reg) : (c.awaitX r).landed = c.landed := by unfold Ctx.awaitX; split <;> rfl
@[simp] theorem Ctx.awaitX_held (c : Ctx) (r : Reg) : (c.awaitX r).held = c.held := by unfold Ctx.awaitX; split <;> rfl
@[simp] theorem Ctx.awaitX_split (c : Ctx) (r : Reg) : (c.awaitX r).split = c.split := by unfold Ctx.awaitX; split <;> rfl
@[simp] theorem Ctx.awaitX_fork (c : Ctx) (r : Reg) : (c.awaitX r).fork = c.fork := by unfold Ctx.awaitX; split <;> rfl
@[simp] theorem Ctx.awaitX_sending (c : Ctx) (r : Reg) : (c.awaitX r).sending = c.sending := by unfold Ctx.awaitX; split <;> rfl
@[simp] theorem Ctx.awaitX_mism (c : Ctx) (r : Reg) : (c.awaitX r).mism = c.mism := by unfold Ctx.awaitX; split <;> rfl
@[simp] theorem Ctx.awaitX_record (c : Ctx) (r : Reg) : (c.awaitX r).record = c.record := by unfold Ctx.awaitX; split <;> rfl
@[simp] theorem Ctx.awaitX_ordered (c : Ctx) (r : Reg) : (c.awaitX r).ordered = c.ordered := by unfold Ctx.awaitX; split <;> rfl
@[simp] theorem Ctx.awaitX_revocable (c : Ctx) (r : Reg) : (c.awaitX r).revocable = c.revocable := by unfold Ctx.awaitX; split <;> rfl
@[simp] theorem Ctx.awaitX_binding (c : Ctx) (r : Reg) : (c.awaitX r).binding = c.binding := by unfold Ctx.awaitX; split <;> rfl
@[simp] theorem Ctx.awaitX_chosenAt (c : Ctx) (r : Reg) : (c.awaitX r).chosenAt = c.chosenAt := by unfold Ctx.awaitX; split <;> rfl
@[simp] theorem Ctx.awaitX_enTested (c : Ctx) (r : Reg) : (c.awaitX r).enTested = c.enTested := by unfold Ctx.awaitX; split <;> rfl
@[simp] theorem Ctx.awaitX_stepOver (c : Ctx) (r : Reg) : (c.awaitX r).stepOver = c.stepOver := by unfold Ctx.awaitX; split <;> rfl
@[simp] theorem Ctx.awaitX_wasOver (c : Ctx) (r : Reg) : (c.awaitX r).wasOver = c.wasOver := by unfold Ctx.awaitX; split <;> rfl
@[simp] theorem Ctx.awaitX_ahead (c : Ctx) (r : Reg) : (c.awaitX r).ahead = c.ahead := by unfold Ctx.awaitX; split <;> rfl
@[simp] theorem Ctx.awaitX_core (c : Ctx) (r : Reg) : (c.awaitX r).core = c.core := by unfold Ctx.awaitX; split <;> rfl
@[simp] theorem Ctx.awaitX_pos (c : Ctx) (r : Reg) : (c.awaitX r).pos = c.pos := by unfold Ctx.awaitX; split <;> rfl
@[simp] theorem Ctx.awaitX_place (c : Ctx) (r : Reg) : (c.awaitX r).place = c.place := by unfold Ctx.awaitX; split <;> rfl
@[simp] theorem Ctx.awaitX_area (c : Ctx) (r : Reg) : (c.awaitX r).area = c.area := by unfold Ctx.awaitX; split <;> rfl
@[simp] theorem Ctx.awaitX_supTask (c : Ctx) (r : Reg) : (c.awaitX r).supTask = c.supTask := by unfold Ctx.awaitX; split <;> rfl

@[simp] theorem Ctx.awaitCall_pc (c : Ctx) (r : Reg) : (c.awaitCall r).pc = c.pc := by unfold Ctx.awaitCall; split <;> simp
@[simp] theorem Ctx.awaitCall_x (c : Ctx) (r : Reg) : (c.awaitCall r).x = c.x := by unfold Ctx.awaitCall; split <;> simp
@[simp] theorem Ctx.awaitCall_v (c : Ctx) (r : Reg) : (c.awaitCall r).v = c.v := by unfold Ctx.awaitCall; split <;> simp
@[simp] theorem Ctx.awaitCall_m (c : Ctx) (r : Reg) : (c.awaitCall r).m = c.m := by unfold Ctx.awaitCall; split <;> simp
@[simp] theorem Ctx.awaitCall_vf (c : Ctx) (r : Reg) : (c.awaitCall r).vf = c.vf := by unfold Ctx.awaitCall; split <;> simp
@[simp] theorem Ctx.awaitCall_mf (c : Ctx) (r : Reg) : (c.awaitCall r).mf = c.mf := by unfold Ctx.awaitCall; split <;> simp
@[simp] theorem Ctx.awaitCall_vr (c : Ctx) (r : Reg) : (c.awaitCall r).vr = c.vr := by unfold Ctx.awaitCall; split <;> simp
@[simp] theorem Ctx.awaitCall_aw (c : Ctx) (r : Reg) : (c.awaitCall r).aw = c.aw := by unfold Ctx.awaitCall; split <;> simp
@[simp] theorem Ctx.awaitCall_fmt (c : Ctx) (r : Reg) : (c.awaitCall r).fmt = c.fmt := by unfold Ctx.awaitCall; split <;> simp
@[simp] theorem Ctx.awaitCall_sclp (c : Ctx) (r : Reg) : (c.awaitCall r).sclp = c.sclp := by unfold Ctx.awaitCall; split <;> simp
@[simp] theorem Ctx.awaitCall_ebudget (c : Ctx) (r : Reg) : (c.awaitCall r).ebudget = c.ebudget := by unfold Ctx.awaitCall; split <;> simp
@[simp] theorem Ctx.awaitCall_vflags (c : Ctx) (r : Reg) : (c.awaitCall r).vflags = c.vflags := by unfold Ctx.awaitCall; split <;> simp
@[simp] theorem Ctx.awaitCall_vstale (c : Ctx) (r : Reg) : (c.awaitCall r).vstale = c.vstale := by unfold Ctx.awaitCall; split <;> simp
@[simp] theorem Ctx.awaitCall_mcnt (c : Ctx) (r : Reg) : (c.awaitCall r).mcnt = c.mcnt := by unfold Ctx.awaitCall; split <;> simp
@[simp] theorem Ctx.awaitCall_mthr (c : Ctx) (r : Reg) : (c.awaitCall r).mthr = c.mthr := by unfold Ctx.awaitCall; split <;> simp
@[simp] theorem Ctx.awaitCall_tcause (c : Ctx) (r : Reg) : (c.awaitCall r).tcause = c.tcause := by unfold Ctx.awaitCall; split <;> simp
@[simp] theorem Ctx.awaitCall_tval (c : Ctx) (r : Reg) : (c.awaitCall r).tval = c.tval := by unfold Ctx.awaitCall; split <;> simp
@[simp] theorem Ctx.awaitCall_tepc (c : Ctx) (r : Reg) : (c.awaitCall r).tepc = c.tepc := by unfold Ctx.awaitCall; split <;> simp
@[simp] theorem Ctx.awaitCall_tstat (c : Ctx) (r : Reg) : (c.awaitCall r).tstat = c.tstat := by unfold Ctx.awaitCall; split <;> simp
@[simp] theorem Ctx.awaitCall_tscratch (c : Ctx) (r : Reg) : (c.awaitCall r).tscratch = c.tscratch := by unfold Ctx.awaitCall; split <;> simp
@[simp] theorem Ctx.awaitCall_vtime (c : Ctx) (r : Reg) : (c.awaitCall r).vtime = c.vtime := by unfold Ctx.awaitCall; split <;> simp
@[simp] theorem Ctx.awaitCall_chan (c : Ctx) (r : Reg) : (c.awaitCall r).chan = c.chan := by unfold Ctx.awaitCall; split <;> simp
@[simp] theorem Ctx.awaitCall_prio (c : Ctx) (r : Reg) : (c.awaitCall r).prio = c.prio := by unfold Ctx.awaitCall; split <;> simp
@[simp] theorem Ctx.awaitCall_tenant (c : Ctx) (r : Reg) : (c.awaitCall r).tenant = c.tenant := by unfold Ctx.awaitCall; split <;> simp
@[simp] theorem Ctx.awaitCall_sup (c : Ctx) (r : Reg) : (c.awaitCall r).sup = c.sup := by unfold Ctx.awaitCall; split <;> simp
@[simp] theorem Ctx.awaitCall_mcp (c : Ctx) (r : Reg) : (c.awaitCall r).mcp = c.mcp := by unfold Ctx.awaitCall; split <;> simp
@[simp] theorem Ctx.awaitCall_arrival (c : Ctx) (r : Reg) : (c.awaitCall r).arrival = c.arrival := by unfold Ctx.awaitCall; split <;> simp
@[simp] theorem Ctx.awaitCall_pend (c : Ctx) (r : Reg) : (c.awaitCall r).pend = c.pend := by unfold Ctx.awaitCall; split <;> simp
@[simp] theorem Ctx.awaitCall_conts (c : Ctx) (r : Reg) : (c.awaitCall r).conts = c.conts := by unfold Ctx.awaitCall; split <;> simp
@[simp] theorem Ctx.awaitCall_wait (c : Ctx) (r : Reg) : (c.awaitCall r).wait = c.wait := by unfold Ctx.awaitCall; split <;> simp
@[simp] theorem Ctx.awaitCall_parkedAt (c : Ctx) (r : Reg) : (c.awaitCall r).parkedAt = c.parkedAt := by unfold Ctx.awaitCall; split <;> simp
@[simp] theorem Ctx.awaitCall_sent (c : Ctx) (r : Reg) : (c.awaitCall r).sent = c.sent := by unfold Ctx.awaitCall; split <;> simp
@[simp] theorem Ctx.awaitCall_storeFence (c : Ctx) (r : Reg) : (c.awaitCall r).storeFence = c.storeFence := by unfold Ctx.awaitCall; split <;> simp
@[simp] theorem Ctx.awaitCall_landed (c : Ctx) (r : Reg) : (c.awaitCall r).landed = c.landed := by unfold Ctx.awaitCall; split <;> simp
@[simp] theorem Ctx.awaitCall_held (c : Ctx) (r : Reg) : (c.awaitCall r).held = c.held := by unfold Ctx.awaitCall; split <;> simp
@[simp] theorem Ctx.awaitCall_split (c : Ctx) (r : Reg) : (c.awaitCall r).split = c.split := by unfold Ctx.awaitCall; split <;> simp
@[simp] theorem Ctx.awaitCall_fork (c : Ctx) (r : Reg) : (c.awaitCall r).fork = c.fork := by unfold Ctx.awaitCall; split <;> simp
@[simp] theorem Ctx.awaitCall_sending (c : Ctx) (r : Reg) : (c.awaitCall r).sending = c.sending := by unfold Ctx.awaitCall; split <;> simp
@[simp] theorem Ctx.awaitCall_mism (c : Ctx) (r : Reg) : (c.awaitCall r).mism = c.mism := by unfold Ctx.awaitCall; split <;> simp
@[simp] theorem Ctx.awaitCall_record (c : Ctx) (r : Reg) : (c.awaitCall r).record = c.record := by unfold Ctx.awaitCall; split <;> simp
@[simp] theorem Ctx.awaitCall_ordered (c : Ctx) (r : Reg) : (c.awaitCall r).ordered = c.ordered := by unfold Ctx.awaitCall; split <;> simp
@[simp] theorem Ctx.awaitCall_revocable (c : Ctx) (r : Reg) : (c.awaitCall r).revocable = c.revocable := by unfold Ctx.awaitCall; split <;> simp
@[simp] theorem Ctx.awaitCall_binding (c : Ctx) (r : Reg) : (c.awaitCall r).binding = c.binding := by unfold Ctx.awaitCall; split <;> simp
@[simp] theorem Ctx.awaitCall_chosenAt (c : Ctx) (r : Reg) : (c.awaitCall r).chosenAt = c.chosenAt := by unfold Ctx.awaitCall; split <;> simp
@[simp] theorem Ctx.awaitCall_enTested (c : Ctx) (r : Reg) : (c.awaitCall r).enTested = c.enTested := by unfold Ctx.awaitCall; split <;> simp
@[simp] theorem Ctx.awaitCall_stepOver (c : Ctx) (r : Reg) : (c.awaitCall r).stepOver = c.stepOver := by unfold Ctx.awaitCall; split <;> simp
@[simp] theorem Ctx.awaitCall_wasOver (c : Ctx) (r : Reg) : (c.awaitCall r).wasOver = c.wasOver := by unfold Ctx.awaitCall; split <;> simp
@[simp] theorem Ctx.awaitCall_ahead (c : Ctx) (r : Reg) : (c.awaitCall r).ahead = c.ahead := by unfold Ctx.awaitCall; split <;> simp
@[simp] theorem Ctx.awaitCall_core (c : Ctx) (r : Reg) : (c.awaitCall r).core = c.core := by unfold Ctx.awaitCall; split <;> simp
@[simp] theorem Ctx.awaitCall_pos (c : Ctx) (r : Reg) : (c.awaitCall r).pos = c.pos := by unfold Ctx.awaitCall; split <;> simp
@[simp] theorem Ctx.awaitCall_place (c : Ctx) (r : Reg) : (c.awaitCall r).place = c.place := by unfold Ctx.awaitCall; split <;> simp
@[simp] theorem Ctx.awaitCall_area (c : Ctx) (r : Reg) : (c.awaitCall r).area = c.area := by unfold Ctx.awaitCall; split <;> simp
@[simp] theorem Ctx.awaitCall_supTask (c : Ctx) (r : Reg) : (c.awaitCall r).supTask = c.supTask := by unfold Ctx.awaitCall; split <;> simp

@[simp] theorem Ctx.setV_pc (c : Ctx) (r : VReg) (w : VWord) : (c.setV r w).pc = c.pc := rfl
@[simp] theorem Ctx.setV_x (c : Ctx) (r : VReg) (w : VWord) : (c.setV r w).x = c.x := rfl
@[simp] theorem Ctx.setV_m (c : Ctx) (r : VReg) (w : VWord) : (c.setV r w).m = c.m := rfl
@[simp] theorem Ctx.setV_xf (c : Ctx) (r : VReg) (w : VWord) : (c.setV r w).xf = c.xf := rfl
@[simp] theorem Ctx.setV_mf (c : Ctx) (r : VReg) (w : VWord) : (c.setV r w).mf = c.mf := rfl
@[simp] theorem Ctx.setV_xr (c : Ctx) (r : VReg) (w : VWord) : (c.setV r w).xr = c.xr := rfl
@[simp] theorem Ctx.setV_xc (c : Ctx) (r : VReg) (w : VWord) : (c.setV r w).xc = c.xc := rfl
@[simp] theorem Ctx.setV_aw (c : Ctx) (r : VReg) (w : VWord) : (c.setV r w).aw = c.aw := rfl
@[simp] theorem Ctx.setV_fmt (c : Ctx) (r : VReg) (w : VWord) : (c.setV r w).fmt = c.fmt := rfl
@[simp] theorem Ctx.setV_sclp (c : Ctx) (r : VReg) (w : VWord) : (c.setV r w).sclp = c.sclp := rfl
@[simp] theorem Ctx.setV_ebudget (c : Ctx) (r : VReg) (w : VWord) : (c.setV r w).ebudget = c.ebudget := rfl
@[simp] theorem Ctx.setV_vflags (c : Ctx) (r : VReg) (w : VWord) : (c.setV r w).vflags = c.vflags := rfl
@[simp] theorem Ctx.setV_vstale (c : Ctx) (r : VReg) (w : VWord) : (c.setV r w).vstale = c.vstale := rfl
@[simp] theorem Ctx.setV_mcnt (c : Ctx) (r : VReg) (w : VWord) : (c.setV r w).mcnt = c.mcnt := rfl
@[simp] theorem Ctx.setV_mthr (c : Ctx) (r : VReg) (w : VWord) : (c.setV r w).mthr = c.mthr := rfl
@[simp] theorem Ctx.setV_tcause (c : Ctx) (r : VReg) (w : VWord) : (c.setV r w).tcause = c.tcause := rfl
@[simp] theorem Ctx.setV_tval (c : Ctx) (r : VReg) (w : VWord) : (c.setV r w).tval = c.tval := rfl
@[simp] theorem Ctx.setV_tepc (c : Ctx) (r : VReg) (w : VWord) : (c.setV r w).tepc = c.tepc := rfl
@[simp] theorem Ctx.setV_tstat (c : Ctx) (r : VReg) (w : VWord) : (c.setV r w).tstat = c.tstat := rfl
@[simp] theorem Ctx.setV_tscratch (c : Ctx) (r : VReg) (w : VWord) : (c.setV r w).tscratch = c.tscratch := rfl
@[simp] theorem Ctx.setV_vtime (c : Ctx) (r : VReg) (w : VWord) : (c.setV r w).vtime = c.vtime := rfl
@[simp] theorem Ctx.setV_chan (c : Ctx) (r : VReg) (w : VWord) : (c.setV r w).chan = c.chan := rfl
@[simp] theorem Ctx.setV_prio (c : Ctx) (r : VReg) (w : VWord) : (c.setV r w).prio = c.prio := rfl
@[simp] theorem Ctx.setV_tenant (c : Ctx) (r : VReg) (w : VWord) : (c.setV r w).tenant = c.tenant := rfl
@[simp] theorem Ctx.setV_sup (c : Ctx) (r : VReg) (w : VWord) : (c.setV r w).sup = c.sup := rfl
@[simp] theorem Ctx.setV_mcp (c : Ctx) (r : VReg) (w : VWord) : (c.setV r w).mcp = c.mcp := rfl
@[simp] theorem Ctx.setV_arrival (c : Ctx) (r : VReg) (w : VWord) : (c.setV r w).arrival = c.arrival := rfl
@[simp] theorem Ctx.setV_pend (c : Ctx) (r : VReg) (w : VWord) : (c.setV r w).pend = c.pend := rfl
@[simp] theorem Ctx.setV_conts (c : Ctx) (r : VReg) (w : VWord) : (c.setV r w).conts = c.conts := rfl
@[simp] theorem Ctx.setV_wait (c : Ctx) (r : VReg) (w : VWord) : (c.setV r w).wait = c.wait := rfl
@[simp] theorem Ctx.setV_parkedAt (c : Ctx) (r : VReg) (w : VWord) : (c.setV r w).parkedAt = c.parkedAt := rfl
@[simp] theorem Ctx.setV_sent (c : Ctx) (r : VReg) (w : VWord) : (c.setV r w).sent = c.sent := rfl
@[simp] theorem Ctx.setV_storeFence (c : Ctx) (r : VReg) (w : VWord) : (c.setV r w).storeFence = c.storeFence := rfl
@[simp] theorem Ctx.setV_landed (c : Ctx) (r : VReg) (w : VWord) : (c.setV r w).landed = c.landed := rfl
@[simp] theorem Ctx.setV_held (c : Ctx) (r : VReg) (w : VWord) : (c.setV r w).held = c.held := rfl
@[simp] theorem Ctx.setV_split (c : Ctx) (r : VReg) (w : VWord) : (c.setV r w).split = c.split := rfl
@[simp] theorem Ctx.setV_fork (c : Ctx) (r : VReg) (w : VWord) : (c.setV r w).fork = c.fork := rfl
@[simp] theorem Ctx.setV_sending (c : Ctx) (r : VReg) (w : VWord) : (c.setV r w).sending = c.sending := rfl
@[simp] theorem Ctx.setV_mism (c : Ctx) (r : VReg) (w : VWord) : (c.setV r w).mism = c.mism := rfl
@[simp] theorem Ctx.setV_record (c : Ctx) (r : VReg) (w : VWord) : (c.setV r w).record = c.record := rfl
@[simp] theorem Ctx.setV_ordered (c : Ctx) (r : VReg) (w : VWord) : (c.setV r w).ordered = c.ordered := rfl
@[simp] theorem Ctx.setV_revocable (c : Ctx) (r : VReg) (w : VWord) : (c.setV r w).revocable = c.revocable := rfl
@[simp] theorem Ctx.setV_binding (c : Ctx) (r : VReg) (w : VWord) : (c.setV r w).binding = c.binding := rfl
@[simp] theorem Ctx.setV_chosenAt (c : Ctx) (r : VReg) (w : VWord) : (c.setV r w).chosenAt = c.chosenAt := rfl
@[simp] theorem Ctx.setV_enTested (c : Ctx) (r : VReg) (w : VWord) : (c.setV r w).enTested = c.enTested := rfl
@[simp] theorem Ctx.setV_stepOver (c : Ctx) (r : VReg) (w : VWord) : (c.setV r w).stepOver = c.stepOver := rfl
@[simp] theorem Ctx.setV_wasOver (c : Ctx) (r : VReg) (w : VWord) : (c.setV r w).wasOver = c.wasOver := rfl
@[simp] theorem Ctx.setV_ahead (c : Ctx) (r : VReg) (w : VWord) : (c.setV r w).ahead = c.ahead := rfl
@[simp] theorem Ctx.setV_core (c : Ctx) (r : VReg) (w : VWord) : (c.setV r w).core = c.core := rfl
@[simp] theorem Ctx.setV_pos (c : Ctx) (r : VReg) (w : VWord) : (c.setV r w).pos = c.pos := rfl
@[simp] theorem Ctx.setV_place (c : Ctx) (r : VReg) (w : VWord) : (c.setV r w).place = c.place := rfl
@[simp] theorem Ctx.setV_area (c : Ctx) (r : VReg) (w : VWord) : (c.setV r w).area = c.area := rfl
@[simp] theorem Ctx.setV_supTask (c : Ctx) (r : VReg) (w : VWord) : (c.setV r w).supTask = c.supTask := rfl

@[simp] theorem Ctx.awaitV_pc (c : Ctx) (r : VReg) : (c.awaitV r).pc = c.pc := rfl
@[simp] theorem Ctx.awaitV_x (c : Ctx) (r : VReg) : (c.awaitV r).x = c.x := rfl
@[simp] theorem Ctx.awaitV_v (c : Ctx) (r : VReg) : (c.awaitV r).v = c.v := rfl
@[simp] theorem Ctx.awaitV_m (c : Ctx) (r : VReg) : (c.awaitV r).m = c.m := rfl
@[simp] theorem Ctx.awaitV_xf (c : Ctx) (r : VReg) : (c.awaitV r).xf = c.xf := rfl
@[simp] theorem Ctx.awaitV_mf (c : Ctx) (r : VReg) : (c.awaitV r).mf = c.mf := rfl
@[simp] theorem Ctx.awaitV_xr (c : Ctx) (r : VReg) : (c.awaitV r).xr = c.xr := rfl
@[simp] theorem Ctx.awaitV_xc (c : Ctx) (r : VReg) : (c.awaitV r).xc = c.xc := rfl
@[simp] theorem Ctx.awaitV_aw (c : Ctx) (r : VReg) : (c.awaitV r).aw = c.aw := rfl
@[simp] theorem Ctx.awaitV_fmt (c : Ctx) (r : VReg) : (c.awaitV r).fmt = c.fmt := rfl
@[simp] theorem Ctx.awaitV_sclp (c : Ctx) (r : VReg) : (c.awaitV r).sclp = c.sclp := rfl
@[simp] theorem Ctx.awaitV_ebudget (c : Ctx) (r : VReg) : (c.awaitV r).ebudget = c.ebudget := rfl
@[simp] theorem Ctx.awaitV_vflags (c : Ctx) (r : VReg) : (c.awaitV r).vflags = c.vflags := rfl
@[simp] theorem Ctx.awaitV_vstale (c : Ctx) (r : VReg) : (c.awaitV r).vstale = c.vstale := rfl
@[simp] theorem Ctx.awaitV_mcnt (c : Ctx) (r : VReg) : (c.awaitV r).mcnt = c.mcnt := rfl
@[simp] theorem Ctx.awaitV_mthr (c : Ctx) (r : VReg) : (c.awaitV r).mthr = c.mthr := rfl
@[simp] theorem Ctx.awaitV_tcause (c : Ctx) (r : VReg) : (c.awaitV r).tcause = c.tcause := rfl
@[simp] theorem Ctx.awaitV_tval (c : Ctx) (r : VReg) : (c.awaitV r).tval = c.tval := rfl
@[simp] theorem Ctx.awaitV_tepc (c : Ctx) (r : VReg) : (c.awaitV r).tepc = c.tepc := rfl
@[simp] theorem Ctx.awaitV_tstat (c : Ctx) (r : VReg) : (c.awaitV r).tstat = c.tstat := rfl
@[simp] theorem Ctx.awaitV_tscratch (c : Ctx) (r : VReg) : (c.awaitV r).tscratch = c.tscratch := rfl
@[simp] theorem Ctx.awaitV_vtime (c : Ctx) (r : VReg) : (c.awaitV r).vtime = c.vtime := rfl
@[simp] theorem Ctx.awaitV_chan (c : Ctx) (r : VReg) : (c.awaitV r).chan = c.chan := rfl
@[simp] theorem Ctx.awaitV_prio (c : Ctx) (r : VReg) : (c.awaitV r).prio = c.prio := rfl
@[simp] theorem Ctx.awaitV_tenant (c : Ctx) (r : VReg) : (c.awaitV r).tenant = c.tenant := rfl
@[simp] theorem Ctx.awaitV_sup (c : Ctx) (r : VReg) : (c.awaitV r).sup = c.sup := rfl
@[simp] theorem Ctx.awaitV_mcp (c : Ctx) (r : VReg) : (c.awaitV r).mcp = c.mcp := rfl
@[simp] theorem Ctx.awaitV_arrival (c : Ctx) (r : VReg) : (c.awaitV r).arrival = c.arrival := rfl
@[simp] theorem Ctx.awaitV_pend (c : Ctx) (r : VReg) : (c.awaitV r).pend = c.pend := rfl
@[simp] theorem Ctx.awaitV_conts (c : Ctx) (r : VReg) : (c.awaitV r).conts = c.conts := rfl
@[simp] theorem Ctx.awaitV_wait (c : Ctx) (r : VReg) : (c.awaitV r).wait = c.wait := rfl
@[simp] theorem Ctx.awaitV_parkedAt (c : Ctx) (r : VReg) : (c.awaitV r).parkedAt = c.parkedAt := rfl
@[simp] theorem Ctx.awaitV_sent (c : Ctx) (r : VReg) : (c.awaitV r).sent = c.sent := rfl
@[simp] theorem Ctx.awaitV_storeFence (c : Ctx) (r : VReg) : (c.awaitV r).storeFence = c.storeFence := rfl
@[simp] theorem Ctx.awaitV_landed (c : Ctx) (r : VReg) : (c.awaitV r).landed = c.landed := rfl
@[simp] theorem Ctx.awaitV_held (c : Ctx) (r : VReg) : (c.awaitV r).held = c.held := rfl
@[simp] theorem Ctx.awaitV_split (c : Ctx) (r : VReg) : (c.awaitV r).split = c.split := rfl
@[simp] theorem Ctx.awaitV_fork (c : Ctx) (r : VReg) : (c.awaitV r).fork = c.fork := rfl
@[simp] theorem Ctx.awaitV_sending (c : Ctx) (r : VReg) : (c.awaitV r).sending = c.sending := rfl
@[simp] theorem Ctx.awaitV_mism (c : Ctx) (r : VReg) : (c.awaitV r).mism = c.mism := rfl
@[simp] theorem Ctx.awaitV_record (c : Ctx) (r : VReg) : (c.awaitV r).record = c.record := rfl
@[simp] theorem Ctx.awaitV_ordered (c : Ctx) (r : VReg) : (c.awaitV r).ordered = c.ordered := rfl
@[simp] theorem Ctx.awaitV_revocable (c : Ctx) (r : VReg) : (c.awaitV r).revocable = c.revocable := rfl
@[simp] theorem Ctx.awaitV_binding (c : Ctx) (r : VReg) : (c.awaitV r).binding = c.binding := rfl
@[simp] theorem Ctx.awaitV_chosenAt (c : Ctx) (r : VReg) : (c.awaitV r).chosenAt = c.chosenAt := rfl
@[simp] theorem Ctx.awaitV_enTested (c : Ctx) (r : VReg) : (c.awaitV r).enTested = c.enTested := rfl
@[simp] theorem Ctx.awaitV_stepOver (c : Ctx) (r : VReg) : (c.awaitV r).stepOver = c.stepOver := rfl
@[simp] theorem Ctx.awaitV_wasOver (c : Ctx) (r : VReg) : (c.awaitV r).wasOver = c.wasOver := rfl
@[simp] theorem Ctx.awaitV_ahead (c : Ctx) (r : VReg) : (c.awaitV r).ahead = c.ahead := rfl
@[simp] theorem Ctx.awaitV_core (c : Ctx) (r : VReg) : (c.awaitV r).core = c.core := rfl
@[simp] theorem Ctx.awaitV_pos (c : Ctx) (r : VReg) : (c.awaitV r).pos = c.pos := rfl
@[simp] theorem Ctx.awaitV_place (c : Ctx) (r : VReg) : (c.awaitV r).place = c.place := rfl
@[simp] theorem Ctx.awaitV_area (c : Ctx) (r : VReg) : (c.awaitV r).area = c.area := rfl
@[simp] theorem Ctx.awaitV_supTask (c : Ctx) (r : VReg) : (c.awaitV r).supTask = c.supTask := rfl

@[simp] theorem Ctx.setM_pc (c : Ctx) (r : MReg) (w : MWord) : (c.setM r w).pc = c.pc := by unfold Ctx.setM; split <;> rfl
@[simp] theorem Ctx.setM_x (c : Ctx) (r : MReg) (w : MWord) : (c.setM r w).x = c.x := by unfold Ctx.setM; split <;> rfl
@[simp] theorem Ctx.setM_v (c : Ctx) (r : MReg) (w : MWord) : (c.setM r w).v = c.v := by unfold Ctx.setM; split <;> rfl
@[simp] theorem Ctx.setM_xf (c : Ctx) (r : MReg) (w : MWord) : (c.setM r w).xf = c.xf := by unfold Ctx.setM; split <;> rfl
@[simp] theorem Ctx.setM_vf (c : Ctx) (r : MReg) (w : MWord) : (c.setM r w).vf = c.vf := by unfold Ctx.setM; split <;> rfl
@[simp] theorem Ctx.setM_xr (c : Ctx) (r : MReg) (w : MWord) : (c.setM r w).xr = c.xr := by unfold Ctx.setM; split <;> rfl
@[simp] theorem Ctx.setM_vr (c : Ctx) (r : MReg) (w : MWord) : (c.setM r w).vr = c.vr := by unfold Ctx.setM; split <;> rfl
@[simp] theorem Ctx.setM_xc (c : Ctx) (r : MReg) (w : MWord) : (c.setM r w).xc = c.xc := by unfold Ctx.setM; split <;> rfl
@[simp] theorem Ctx.setM_aw (c : Ctx) (r : MReg) (w : MWord) : (c.setM r w).aw = c.aw := by unfold Ctx.setM; split <;> rfl
@[simp] theorem Ctx.setM_fmt (c : Ctx) (r : MReg) (w : MWord) : (c.setM r w).fmt = c.fmt := by unfold Ctx.setM; split <;> rfl
@[simp] theorem Ctx.setM_sclp (c : Ctx) (r : MReg) (w : MWord) : (c.setM r w).sclp = c.sclp := by unfold Ctx.setM; split <;> rfl
@[simp] theorem Ctx.setM_ebudget (c : Ctx) (r : MReg) (w : MWord) : (c.setM r w).ebudget = c.ebudget := by unfold Ctx.setM; split <;> rfl
@[simp] theorem Ctx.setM_vflags (c : Ctx) (r : MReg) (w : MWord) : (c.setM r w).vflags = c.vflags := by unfold Ctx.setM; split <;> rfl
@[simp] theorem Ctx.setM_vstale (c : Ctx) (r : MReg) (w : MWord) : (c.setM r w).vstale = c.vstale := by unfold Ctx.setM; split <;> rfl
@[simp] theorem Ctx.setM_mcnt (c : Ctx) (r : MReg) (w : MWord) : (c.setM r w).mcnt = c.mcnt := by unfold Ctx.setM; split <;> rfl
@[simp] theorem Ctx.setM_mthr (c : Ctx) (r : MReg) (w : MWord) : (c.setM r w).mthr = c.mthr := by unfold Ctx.setM; split <;> rfl
@[simp] theorem Ctx.setM_tcause (c : Ctx) (r : MReg) (w : MWord) : (c.setM r w).tcause = c.tcause := by unfold Ctx.setM; split <;> rfl
@[simp] theorem Ctx.setM_tval (c : Ctx) (r : MReg) (w : MWord) : (c.setM r w).tval = c.tval := by unfold Ctx.setM; split <;> rfl
@[simp] theorem Ctx.setM_tepc (c : Ctx) (r : MReg) (w : MWord) : (c.setM r w).tepc = c.tepc := by unfold Ctx.setM; split <;> rfl
@[simp] theorem Ctx.setM_tstat (c : Ctx) (r : MReg) (w : MWord) : (c.setM r w).tstat = c.tstat := by unfold Ctx.setM; split <;> rfl
@[simp] theorem Ctx.setM_tscratch (c : Ctx) (r : MReg) (w : MWord) : (c.setM r w).tscratch = c.tscratch := by unfold Ctx.setM; split <;> rfl
@[simp] theorem Ctx.setM_vtime (c : Ctx) (r : MReg) (w : MWord) : (c.setM r w).vtime = c.vtime := by unfold Ctx.setM; split <;> rfl
@[simp] theorem Ctx.setM_chan (c : Ctx) (r : MReg) (w : MWord) : (c.setM r w).chan = c.chan := by unfold Ctx.setM; split <;> rfl
@[simp] theorem Ctx.setM_prio (c : Ctx) (r : MReg) (w : MWord) : (c.setM r w).prio = c.prio := by unfold Ctx.setM; split <;> rfl
@[simp] theorem Ctx.setM_tenant (c : Ctx) (r : MReg) (w : MWord) : (c.setM r w).tenant = c.tenant := by unfold Ctx.setM; split <;> rfl
@[simp] theorem Ctx.setM_sup (c : Ctx) (r : MReg) (w : MWord) : (c.setM r w).sup = c.sup := by unfold Ctx.setM; split <;> rfl
@[simp] theorem Ctx.setM_mcp (c : Ctx) (r : MReg) (w : MWord) : (c.setM r w).mcp = c.mcp := by unfold Ctx.setM; split <;> rfl
@[simp] theorem Ctx.setM_arrival (c : Ctx) (r : MReg) (w : MWord) : (c.setM r w).arrival = c.arrival := by unfold Ctx.setM; split <;> rfl
@[simp] theorem Ctx.setM_pend (c : Ctx) (r : MReg) (w : MWord) : (c.setM r w).pend = c.pend := by unfold Ctx.setM; split <;> rfl
@[simp] theorem Ctx.setM_conts (c : Ctx) (r : MReg) (w : MWord) : (c.setM r w).conts = c.conts := by unfold Ctx.setM; split <;> rfl
@[simp] theorem Ctx.setM_wait (c : Ctx) (r : MReg) (w : MWord) : (c.setM r w).wait = c.wait := by unfold Ctx.setM; split <;> rfl
@[simp] theorem Ctx.setM_parkedAt (c : Ctx) (r : MReg) (w : MWord) : (c.setM r w).parkedAt = c.parkedAt := by unfold Ctx.setM; split <;> rfl
@[simp] theorem Ctx.setM_sent (c : Ctx) (r : MReg) (w : MWord) : (c.setM r w).sent = c.sent := by unfold Ctx.setM; split <;> rfl
@[simp] theorem Ctx.setM_storeFence (c : Ctx) (r : MReg) (w : MWord) : (c.setM r w).storeFence = c.storeFence := by unfold Ctx.setM; split <;> rfl
@[simp] theorem Ctx.setM_landed (c : Ctx) (r : MReg) (w : MWord) : (c.setM r w).landed = c.landed := by unfold Ctx.setM; split <;> rfl
@[simp] theorem Ctx.setM_held (c : Ctx) (r : MReg) (w : MWord) : (c.setM r w).held = c.held := by unfold Ctx.setM; split <;> rfl
@[simp] theorem Ctx.setM_split (c : Ctx) (r : MReg) (w : MWord) : (c.setM r w).split = c.split := by unfold Ctx.setM; split <;> rfl
@[simp] theorem Ctx.setM_fork (c : Ctx) (r : MReg) (w : MWord) : (c.setM r w).fork = c.fork := by unfold Ctx.setM; split <;> rfl
@[simp] theorem Ctx.setM_sending (c : Ctx) (r : MReg) (w : MWord) : (c.setM r w).sending = c.sending := by unfold Ctx.setM; split <;> rfl
@[simp] theorem Ctx.setM_mism (c : Ctx) (r : MReg) (w : MWord) : (c.setM r w).mism = c.mism := by unfold Ctx.setM; split <;> rfl
@[simp] theorem Ctx.setM_record (c : Ctx) (r : MReg) (w : MWord) : (c.setM r w).record = c.record := by unfold Ctx.setM; split <;> rfl
@[simp] theorem Ctx.setM_ordered (c : Ctx) (r : MReg) (w : MWord) : (c.setM r w).ordered = c.ordered := by unfold Ctx.setM; split <;> rfl
@[simp] theorem Ctx.setM_revocable (c : Ctx) (r : MReg) (w : MWord) : (c.setM r w).revocable = c.revocable := by unfold Ctx.setM; split <;> rfl
@[simp] theorem Ctx.setM_binding (c : Ctx) (r : MReg) (w : MWord) : (c.setM r w).binding = c.binding := by unfold Ctx.setM; split <;> rfl
@[simp] theorem Ctx.setM_chosenAt (c : Ctx) (r : MReg) (w : MWord) : (c.setM r w).chosenAt = c.chosenAt := by unfold Ctx.setM; split <;> rfl
@[simp] theorem Ctx.setM_enTested (c : Ctx) (r : MReg) (w : MWord) : (c.setM r w).enTested = c.enTested := by unfold Ctx.setM; split <;> rfl
@[simp] theorem Ctx.setM_stepOver (c : Ctx) (r : MReg) (w : MWord) : (c.setM r w).stepOver = c.stepOver := by unfold Ctx.setM; split <;> rfl
@[simp] theorem Ctx.setM_wasOver (c : Ctx) (r : MReg) (w : MWord) : (c.setM r w).wasOver = c.wasOver := by unfold Ctx.setM; split <;> rfl
@[simp] theorem Ctx.setM_ahead (c : Ctx) (r : MReg) (w : MWord) : (c.setM r w).ahead = c.ahead := by unfold Ctx.setM; split <;> rfl
@[simp] theorem Ctx.setM_core (c : Ctx) (r : MReg) (w : MWord) : (c.setM r w).core = c.core := by unfold Ctx.setM; split <;> rfl
@[simp] theorem Ctx.setM_pos (c : Ctx) (r : MReg) (w : MWord) : (c.setM r w).pos = c.pos := by unfold Ctx.setM; split <;> rfl
@[simp] theorem Ctx.setM_place (c : Ctx) (r : MReg) (w : MWord) : (c.setM r w).place = c.place := by unfold Ctx.setM; split <;> rfl
@[simp] theorem Ctx.setM_area (c : Ctx) (r : MReg) (w : MWord) : (c.setM r w).area = c.area := by unfold Ctx.setM; split <;> rfl
@[simp] theorem Ctx.setM_supTask (c : Ctx) (r : MReg) (w : MWord) : (c.setM r w).supTask = c.supTask := by unfold Ctx.setM; split <;> rfl

@[simp] theorem Ctx.raise_pc (c : Ctx) (f : VFlags) : (c.raise f).pc = c.pc := rfl
@[simp] theorem Ctx.raise_x (c : Ctx) (f : VFlags) : (c.raise f).x = c.x := rfl
@[simp] theorem Ctx.raise_v (c : Ctx) (f : VFlags) : (c.raise f).v = c.v := rfl
@[simp] theorem Ctx.raise_m (c : Ctx) (f : VFlags) : (c.raise f).m = c.m := rfl
@[simp] theorem Ctx.raise_xf (c : Ctx) (f : VFlags) : (c.raise f).xf = c.xf := rfl
@[simp] theorem Ctx.raise_vf (c : Ctx) (f : VFlags) : (c.raise f).vf = c.vf := rfl
@[simp] theorem Ctx.raise_mf (c : Ctx) (f : VFlags) : (c.raise f).mf = c.mf := rfl
@[simp] theorem Ctx.raise_xr (c : Ctx) (f : VFlags) : (c.raise f).xr = c.xr := rfl
@[simp] theorem Ctx.raise_vr (c : Ctx) (f : VFlags) : (c.raise f).vr = c.vr := rfl
@[simp] theorem Ctx.raise_xc (c : Ctx) (f : VFlags) : (c.raise f).xc = c.xc := rfl
@[simp] theorem Ctx.raise_aw (c : Ctx) (f : VFlags) : (c.raise f).aw = c.aw := rfl
@[simp] theorem Ctx.raise_fmt (c : Ctx) (f : VFlags) : (c.raise f).fmt = c.fmt := rfl
@[simp] theorem Ctx.raise_sclp (c : Ctx) (f : VFlags) : (c.raise f).sclp = c.sclp := rfl
@[simp] theorem Ctx.raise_ebudget (c : Ctx) (f : VFlags) : (c.raise f).ebudget = c.ebudget := rfl
@[simp] theorem Ctx.raise_vstale (c : Ctx) (f : VFlags) : (c.raise f).vstale = c.vstale := rfl
@[simp] theorem Ctx.raise_mcnt (c : Ctx) (f : VFlags) : (c.raise f).mcnt = c.mcnt := rfl
@[simp] theorem Ctx.raise_mthr (c : Ctx) (f : VFlags) : (c.raise f).mthr = c.mthr := rfl
@[simp] theorem Ctx.raise_tcause (c : Ctx) (f : VFlags) : (c.raise f).tcause = c.tcause := rfl
@[simp] theorem Ctx.raise_tval (c : Ctx) (f : VFlags) : (c.raise f).tval = c.tval := rfl
@[simp] theorem Ctx.raise_tepc (c : Ctx) (f : VFlags) : (c.raise f).tepc = c.tepc := rfl
@[simp] theorem Ctx.raise_tstat (c : Ctx) (f : VFlags) : (c.raise f).tstat = c.tstat := rfl
@[simp] theorem Ctx.raise_tscratch (c : Ctx) (f : VFlags) : (c.raise f).tscratch = c.tscratch := rfl
@[simp] theorem Ctx.raise_vtime (c : Ctx) (f : VFlags) : (c.raise f).vtime = c.vtime := rfl
@[simp] theorem Ctx.raise_chan (c : Ctx) (f : VFlags) : (c.raise f).chan = c.chan := rfl
@[simp] theorem Ctx.raise_prio (c : Ctx) (f : VFlags) : (c.raise f).prio = c.prio := rfl
@[simp] theorem Ctx.raise_tenant (c : Ctx) (f : VFlags) : (c.raise f).tenant = c.tenant := rfl
@[simp] theorem Ctx.raise_sup (c : Ctx) (f : VFlags) : (c.raise f).sup = c.sup := rfl
@[simp] theorem Ctx.raise_mcp (c : Ctx) (f : VFlags) : (c.raise f).mcp = c.mcp := rfl
@[simp] theorem Ctx.raise_arrival (c : Ctx) (f : VFlags) : (c.raise f).arrival = c.arrival := rfl
@[simp] theorem Ctx.raise_pend (c : Ctx) (f : VFlags) : (c.raise f).pend = c.pend := rfl
@[simp] theorem Ctx.raise_conts (c : Ctx) (f : VFlags) : (c.raise f).conts = c.conts := rfl
@[simp] theorem Ctx.raise_wait (c : Ctx) (f : VFlags) : (c.raise f).wait = c.wait := rfl
@[simp] theorem Ctx.raise_parkedAt (c : Ctx) (f : VFlags) : (c.raise f).parkedAt = c.parkedAt := rfl
@[simp] theorem Ctx.raise_sent (c : Ctx) (f : VFlags) : (c.raise f).sent = c.sent := rfl
@[simp] theorem Ctx.raise_storeFence (c : Ctx) (f : VFlags) : (c.raise f).storeFence = c.storeFence := rfl
@[simp] theorem Ctx.raise_landed (c : Ctx) (f : VFlags) : (c.raise f).landed = c.landed := rfl
@[simp] theorem Ctx.raise_held (c : Ctx) (f : VFlags) : (c.raise f).held = c.held := rfl
@[simp] theorem Ctx.raise_split (c : Ctx) (f : VFlags) : (c.raise f).split = c.split := rfl
@[simp] theorem Ctx.raise_fork (c : Ctx) (f : VFlags) : (c.raise f).fork = c.fork := rfl
@[simp] theorem Ctx.raise_sending (c : Ctx) (f : VFlags) : (c.raise f).sending = c.sending := rfl
@[simp] theorem Ctx.raise_mism (c : Ctx) (f : VFlags) : (c.raise f).mism = c.mism := rfl
@[simp] theorem Ctx.raise_record (c : Ctx) (f : VFlags) : (c.raise f).record = c.record := rfl
@[simp] theorem Ctx.raise_ordered (c : Ctx) (f : VFlags) : (c.raise f).ordered = c.ordered := rfl
@[simp] theorem Ctx.raise_revocable (c : Ctx) (f : VFlags) : (c.raise f).revocable = c.revocable := rfl
@[simp] theorem Ctx.raise_binding (c : Ctx) (f : VFlags) : (c.raise f).binding = c.binding := rfl
@[simp] theorem Ctx.raise_chosenAt (c : Ctx) (f : VFlags) : (c.raise f).chosenAt = c.chosenAt := rfl
@[simp] theorem Ctx.raise_enTested (c : Ctx) (f : VFlags) : (c.raise f).enTested = c.enTested := rfl
@[simp] theorem Ctx.raise_stepOver (c : Ctx) (f : VFlags) : (c.raise f).stepOver = c.stepOver := rfl
@[simp] theorem Ctx.raise_wasOver (c : Ctx) (f : VFlags) : (c.raise f).wasOver = c.wasOver := rfl
@[simp] theorem Ctx.raise_ahead (c : Ctx) (f : VFlags) : (c.raise f).ahead = c.ahead := rfl
@[simp] theorem Ctx.raise_core (c : Ctx) (f : VFlags) : (c.raise f).core = c.core := rfl
@[simp] theorem Ctx.raise_pos (c : Ctx) (f : VFlags) : (c.raise f).pos = c.pos := rfl
@[simp] theorem Ctx.raise_place (c : Ctx) (f : VFlags) : (c.raise f).place = c.place := rfl
@[simp] theorem Ctx.raise_area (c : Ctx) (f : VFlags) : (c.raise f).area = c.area := rfl
@[simp] theorem Ctx.raise_supTask (c : Ctx) (f : VFlags) : (c.raise f).supTask = c.supTask := rfl

@[simp] theorem Ctx.takeTrap_x (c : Ctx) (t : TrapInfo) (tvec : Word) : (c.takeTrap t tvec).x = c.x := rfl
@[simp] theorem Ctx.takeTrap_v (c : Ctx) (t : TrapInfo) (tvec : Word) : (c.takeTrap t tvec).v = c.v := rfl
@[simp] theorem Ctx.takeTrap_m (c : Ctx) (t : TrapInfo) (tvec : Word) : (c.takeTrap t tvec).m = c.m := rfl
@[simp] theorem Ctx.takeTrap_xf (c : Ctx) (t : TrapInfo) (tvec : Word) : (c.takeTrap t tvec).xf = c.xf := rfl
@[simp] theorem Ctx.takeTrap_vf (c : Ctx) (t : TrapInfo) (tvec : Word) : (c.takeTrap t tvec).vf = c.vf := rfl
@[simp] theorem Ctx.takeTrap_mf (c : Ctx) (t : TrapInfo) (tvec : Word) : (c.takeTrap t tvec).mf = c.mf := rfl
@[simp] theorem Ctx.takeTrap_xr (c : Ctx) (t : TrapInfo) (tvec : Word) : (c.takeTrap t tvec).xr = c.xr := rfl
@[simp] theorem Ctx.takeTrap_vr (c : Ctx) (t : TrapInfo) (tvec : Word) : (c.takeTrap t tvec).vr = c.vr := rfl
@[simp] theorem Ctx.takeTrap_xc (c : Ctx) (t : TrapInfo) (tvec : Word) : (c.takeTrap t tvec).xc = c.xc := rfl
@[simp] theorem Ctx.takeTrap_aw (c : Ctx) (t : TrapInfo) (tvec : Word) : (c.takeTrap t tvec).aw = c.aw := rfl
@[simp] theorem Ctx.takeTrap_fmt (c : Ctx) (t : TrapInfo) (tvec : Word) : (c.takeTrap t tvec).fmt = c.fmt := rfl
@[simp] theorem Ctx.takeTrap_sclp (c : Ctx) (t : TrapInfo) (tvec : Word) : (c.takeTrap t tvec).sclp = c.sclp := rfl
@[simp] theorem Ctx.takeTrap_ebudget (c : Ctx) (t : TrapInfo) (tvec : Word) : (c.takeTrap t tvec).ebudget = c.ebudget := rfl
@[simp] theorem Ctx.takeTrap_vflags (c : Ctx) (t : TrapInfo) (tvec : Word) : (c.takeTrap t tvec).vflags = c.vflags := rfl
@[simp] theorem Ctx.takeTrap_vstale (c : Ctx) (t : TrapInfo) (tvec : Word) : (c.takeTrap t tvec).vstale = c.vstale := rfl
@[simp] theorem Ctx.takeTrap_mcnt (c : Ctx) (t : TrapInfo) (tvec : Word) : (c.takeTrap t tvec).mcnt = c.mcnt := rfl
@[simp] theorem Ctx.takeTrap_mthr (c : Ctx) (t : TrapInfo) (tvec : Word) : (c.takeTrap t tvec).mthr = c.mthr := rfl
@[simp] theorem Ctx.takeTrap_tscratch (c : Ctx) (t : TrapInfo) (tvec : Word) : (c.takeTrap t tvec).tscratch = c.tscratch := rfl
@[simp] theorem Ctx.takeTrap_vtime (c : Ctx) (t : TrapInfo) (tvec : Word) : (c.takeTrap t tvec).vtime = c.vtime := rfl
@[simp] theorem Ctx.takeTrap_chan (c : Ctx) (t : TrapInfo) (tvec : Word) : (c.takeTrap t tvec).chan = c.chan := rfl
@[simp] theorem Ctx.takeTrap_prio (c : Ctx) (t : TrapInfo) (tvec : Word) : (c.takeTrap t tvec).prio = c.prio := rfl
@[simp] theorem Ctx.takeTrap_tenant (c : Ctx) (t : TrapInfo) (tvec : Word) : (c.takeTrap t tvec).tenant = c.tenant := rfl
@[simp] theorem Ctx.takeTrap_mcp (c : Ctx) (t : TrapInfo) (tvec : Word) : (c.takeTrap t tvec).mcp = c.mcp := rfl
@[simp] theorem Ctx.takeTrap_arrival (c : Ctx) (t : TrapInfo) (tvec : Word) : (c.takeTrap t tvec).arrival = c.arrival := rfl
@[simp] theorem Ctx.takeTrap_pend (c : Ctx) (t : TrapInfo) (tvec : Word) : (c.takeTrap t tvec).pend = c.pend := rfl
@[simp] theorem Ctx.takeTrap_conts (c : Ctx) (t : TrapInfo) (tvec : Word) : (c.takeTrap t tvec).conts = c.conts := rfl
@[simp] theorem Ctx.takeTrap_parkedAt (c : Ctx) (t : TrapInfo) (tvec : Word) : (c.takeTrap t tvec).parkedAt = c.parkedAt := rfl
@[simp] theorem Ctx.takeTrap_storeFence (c : Ctx) (t : TrapInfo) (tvec : Word) : (c.takeTrap t tvec).storeFence = c.storeFence := rfl
@[simp] theorem Ctx.takeTrap_landed (c : Ctx) (t : TrapInfo) (tvec : Word) : (c.takeTrap t tvec).landed = c.landed := rfl
@[simp] theorem Ctx.takeTrap_held (c : Ctx) (t : TrapInfo) (tvec : Word) : (c.takeTrap t tvec).held = c.held := rfl
@[simp] theorem Ctx.takeTrap_split (c : Ctx) (t : TrapInfo) (tvec : Word) : (c.takeTrap t tvec).split = c.split := rfl
@[simp] theorem Ctx.takeTrap_record (c : Ctx) (t : TrapInfo) (tvec : Word) : (c.takeTrap t tvec).record = c.record := rfl
@[simp] theorem Ctx.takeTrap_ordered (c : Ctx) (t : TrapInfo) (tvec : Word) : (c.takeTrap t tvec).ordered = c.ordered := rfl
@[simp] theorem Ctx.takeTrap_revocable (c : Ctx) (t : TrapInfo) (tvec : Word) : (c.takeTrap t tvec).revocable = c.revocable := rfl
@[simp] theorem Ctx.takeTrap_binding (c : Ctx) (t : TrapInfo) (tvec : Word) : (c.takeTrap t tvec).binding = c.binding := rfl
@[simp] theorem Ctx.takeTrap_chosenAt (c : Ctx) (t : TrapInfo) (tvec : Word) : (c.takeTrap t tvec).chosenAt = c.chosenAt := rfl
@[simp] theorem Ctx.takeTrap_wasOver (c : Ctx) (t : TrapInfo) (tvec : Word) : (c.takeTrap t tvec).wasOver = c.wasOver := rfl
@[simp] theorem Ctx.takeTrap_core (c : Ctx) (t : TrapInfo) (tvec : Word) : (c.takeTrap t tvec).core = c.core := rfl
@[simp] theorem Ctx.takeTrap_pos (c : Ctx) (t : TrapInfo) (tvec : Word) : (c.takeTrap t tvec).pos = c.pos := rfl
@[simp] theorem Ctx.takeTrap_place (c : Ctx) (t : TrapInfo) (tvec : Word) : (c.takeTrap t tvec).place = c.place := rfl
@[simp] theorem Ctx.takeTrap_area (c : Ctx) (t : TrapInfo) (tvec : Word) : (c.takeTrap t tvec).area = c.area := rfl
@[simp] theorem Ctx.takeTrap_supTask (c : Ctx) (t : TrapInfo) (tvec : Word) : (c.takeTrap t tvec).supTask = c.supTask := rfl

@[simp] theorem Ctx.trapReturn_x (c : Ctx) : (c.trapReturn).x = c.x := rfl
@[simp] theorem Ctx.trapReturn_v (c : Ctx) : (c.trapReturn).v = c.v := rfl
@[simp] theorem Ctx.trapReturn_m (c : Ctx) : (c.trapReturn).m = c.m := rfl
@[simp] theorem Ctx.trapReturn_xf (c : Ctx) : (c.trapReturn).xf = c.xf := rfl
@[simp] theorem Ctx.trapReturn_vf (c : Ctx) : (c.trapReturn).vf = c.vf := rfl
@[simp] theorem Ctx.trapReturn_mf (c : Ctx) : (c.trapReturn).mf = c.mf := rfl
@[simp] theorem Ctx.trapReturn_xr (c : Ctx) : (c.trapReturn).xr = c.xr := rfl
@[simp] theorem Ctx.trapReturn_vr (c : Ctx) : (c.trapReturn).vr = c.vr := rfl
@[simp] theorem Ctx.trapReturn_xc (c : Ctx) : (c.trapReturn).xc = c.xc := rfl
@[simp] theorem Ctx.trapReturn_aw (c : Ctx) : (c.trapReturn).aw = c.aw := rfl
@[simp] theorem Ctx.trapReturn_fmt (c : Ctx) : (c.trapReturn).fmt = c.fmt := rfl
@[simp] theorem Ctx.trapReturn_sclp (c : Ctx) : (c.trapReturn).sclp = c.sclp := rfl
@[simp] theorem Ctx.trapReturn_ebudget (c : Ctx) : (c.trapReturn).ebudget = c.ebudget := rfl
@[simp] theorem Ctx.trapReturn_vflags (c : Ctx) : (c.trapReturn).vflags = c.vflags := rfl
@[simp] theorem Ctx.trapReturn_vstale (c : Ctx) : (c.trapReturn).vstale = c.vstale := rfl
@[simp] theorem Ctx.trapReturn_mcnt (c : Ctx) : (c.trapReturn).mcnt = c.mcnt := rfl
@[simp] theorem Ctx.trapReturn_mthr (c : Ctx) : (c.trapReturn).mthr = c.mthr := rfl
@[simp] theorem Ctx.trapReturn_tcause (c : Ctx) : (c.trapReturn).tcause = c.tcause := rfl
@[simp] theorem Ctx.trapReturn_tval (c : Ctx) : (c.trapReturn).tval = c.tval := rfl
@[simp] theorem Ctx.trapReturn_tepc (c : Ctx) : (c.trapReturn).tepc = c.tepc := rfl
@[simp] theorem Ctx.trapReturn_tstat (c : Ctx) : (c.trapReturn).tstat = c.tstat := rfl
@[simp] theorem Ctx.trapReturn_tscratch (c : Ctx) : (c.trapReturn).tscratch = c.tscratch := rfl
@[simp] theorem Ctx.trapReturn_vtime (c : Ctx) : (c.trapReturn).vtime = c.vtime := rfl
@[simp] theorem Ctx.trapReturn_chan (c : Ctx) : (c.trapReturn).chan = c.chan := rfl
@[simp] theorem Ctx.trapReturn_prio (c : Ctx) : (c.trapReturn).prio = c.prio := rfl
@[simp] theorem Ctx.trapReturn_tenant (c : Ctx) : (c.trapReturn).tenant = c.tenant := rfl
@[simp] theorem Ctx.trapReturn_mcp (c : Ctx) : (c.trapReturn).mcp = c.mcp := rfl
@[simp] theorem Ctx.trapReturn_arrival (c : Ctx) : (c.trapReturn).arrival = c.arrival := rfl
@[simp] theorem Ctx.trapReturn_pend (c : Ctx) : (c.trapReturn).pend = c.pend := rfl
@[simp] theorem Ctx.trapReturn_conts (c : Ctx) : (c.trapReturn).conts = c.conts := rfl
@[simp] theorem Ctx.trapReturn_wait (c : Ctx) : (c.trapReturn).wait = c.wait := rfl
@[simp] theorem Ctx.trapReturn_parkedAt (c : Ctx) : (c.trapReturn).parkedAt = c.parkedAt := rfl
@[simp] theorem Ctx.trapReturn_sent (c : Ctx) : (c.trapReturn).sent = c.sent := rfl
@[simp] theorem Ctx.trapReturn_storeFence (c : Ctx) : (c.trapReturn).storeFence = c.storeFence := rfl
@[simp] theorem Ctx.trapReturn_landed (c : Ctx) : (c.trapReturn).landed = c.landed := rfl
@[simp] theorem Ctx.trapReturn_held (c : Ctx) : (c.trapReturn).held = c.held := rfl
@[simp] theorem Ctx.trapReturn_split (c : Ctx) : (c.trapReturn).split = c.split := rfl
@[simp] theorem Ctx.trapReturn_fork (c : Ctx) : (c.trapReturn).fork = c.fork := rfl
@[simp] theorem Ctx.trapReturn_sending (c : Ctx) : (c.trapReturn).sending = c.sending := rfl
@[simp] theorem Ctx.trapReturn_mism (c : Ctx) : (c.trapReturn).mism = c.mism := rfl
@[simp] theorem Ctx.trapReturn_record (c : Ctx) : (c.trapReturn).record = c.record := rfl
@[simp] theorem Ctx.trapReturn_ordered (c : Ctx) : (c.trapReturn).ordered = c.ordered := rfl
@[simp] theorem Ctx.trapReturn_revocable (c : Ctx) : (c.trapReturn).revocable = c.revocable := rfl
@[simp] theorem Ctx.trapReturn_binding (c : Ctx) : (c.trapReturn).binding = c.binding := rfl
@[simp] theorem Ctx.trapReturn_chosenAt (c : Ctx) : (c.trapReturn).chosenAt = c.chosenAt := rfl
@[simp] theorem Ctx.trapReturn_wasOver (c : Ctx) : (c.trapReturn).wasOver = c.wasOver := rfl
@[simp] theorem Ctx.trapReturn_core (c : Ctx) : (c.trapReturn).core = c.core := rfl
@[simp] theorem Ctx.trapReturn_pos (c : Ctx) : (c.trapReturn).pos = c.pos := rfl
@[simp] theorem Ctx.trapReturn_place (c : Ctx) : (c.trapReturn).place = c.place := rfl
@[simp] theorem Ctx.trapReturn_area (c : Ctx) : (c.trapReturn).area = c.area := rfl
@[simp] theorem Ctx.trapReturn_supTask (c : Ctx) : (c.trapReturn).supTask = c.supTask := rfl

/-! ## Registers that are read back -/

/-- A bit after the bit of a register is set. -/
theorem getLsbD_setBit {w k : Nat} (x : BitVec w) (r q : BitVec k) (h : 2 ^ k ≤ w) :
    (x ||| (1#w <<< r.toNat)).getLsbD q.toNat = (x.getLsbD q.toNat || decide (q = r)) := by
  have hq := q.isLt
  have hr := r.isLt
  have h1 : (1#w <<< r.toNat).getLsbD q.toNat = decide (q = r) := by
    rw [BitVec.getLsbD_shiftLeft, BitVec.getLsbD_one]
    by_cases e : q = r
    · subst e; simp; omega
    · have : q.toNat ≠ r.toNat := fun h => e (BitVec.eq_of_toNat_eq h)
      simp only [e, decide_false]
      by_cases hl : q.toNat < r.toNat
      · simp [hl]
      · have : q.toNat - r.toNat ≠ 0 := by omega
        simp [this]
  rw [BitVec.getLsbD_or, h1]

/-- A bit after the bit of a register is cleared. -/
theorem getLsbD_clearBit {w k : Nat} (x : BitVec w) (r q : BitVec k) (h : 2 ^ k ≤ w) :
    (x &&& ~~~(1#w <<< r.toNat)).getLsbD q.toNat = (x.getLsbD q.toNat && decide (q ≠ r)) := by
  have hq := q.isLt
  have h1 := getLsbD_setBit (0#w) r q h
  rw [BitVec.zero_or, BitVec.getLsbD_zero, Bool.false_or] at h1
  have hw : q.toNat < w := by omega
  rw [BitVec.getLsbD_and, BitVec.getLsbD_not, h1]
  simp [hw]

/-- x[r] after a write of a register. -/
theorem Ctx.getX_setX (c : Ctx) (r q : Reg) (w : Word) : (c.setX r w).getX q = if q = r ∧ r ≠ 0#5 then w else c.getX q := by
  by_cases hr : r = 0#5
  · subst hr; simp [Ctx.setX]
  · by_cases hq : q = r
    · subst hq; simp [Ctx.setX, Ctx.getX, hr]
    · have hn : r.toNat ≠ q.toNat := fun h => hq (BitVec.eq_of_toNat_eq h).symm
      simp only [Ctx.setX, Ctx.getX, if_neg hr, hq, false_and, if_false]
      rw [Vector.getElem_set_ne _ _ hn]

/-- A written register is full, and every other keeps its bit. -/
theorem Ctx.fullX_setX (c : Ctx) (r q : Reg) (w : Word) : (c.setX r w).fullX q = (c.fullX q || decide (q = r)) := by
  by_cases hr : r = 0#5
  · subst hr
    by_cases hq : q = 0#5
    · subst hq; rfl
    · simp [Ctx.setX, hq]
  · simp only [Ctx.setX, Ctx.fullX, if_neg hr, getLsbD_setBit _ r q (Nat.le_refl 32), Bool.or_assoc]

theorem Ctx.getX_awaitX (c : Ctx) (r q : Reg) : (c.awaitX r).getX q = c.getX q := by
  by_cases hr : r = 0#5 <;> simp [Ctx.awaitX, Ctx.getX, hr]

/-- A register that is made empty is empty, but for x0. -/
theorem Ctx.fullX_awaitX (c : Ctx) (r q : Reg) : (c.awaitX r).fullX q = (q == 0#5 || c.fullX q && decide (q ≠ r)) := by
  by_cases hr : r = 0#5
  · subst hr
    by_cases hq : q = 0#5
    · subst hq; rfl
    · simp [Ctx.awaitX, Ctx.fullX, hq]
  · simp only [Ctx.awaitX, Ctx.fullX, if_neg hr, getLsbD_clearBit _ r q (Nat.le_refl 32)]
    cases q == 0#5 <;> simp

theorem Ctx.getV_setV (c : Ctx) (r q : VReg) (w : VWord) : (c.setV r w).getV q = if q = r then w else c.getV q := by
  by_cases hq : q = r
  · subst hq; simp [Ctx.setV, Ctx.getV]
  · have hn : r.toNat ≠ q.toNat := fun h => hq (BitVec.eq_of_toNat_eq h).symm
    simp only [Ctx.setV, Ctx.getV, hq, if_false]
    rw [Vector.getElem_set_ne _ _ hn]

theorem Ctx.fullV_setV (c : Ctx) (r q : VReg) (w : VWord) : (c.setV r w).fullV q = (c.fullV q || decide (q = r)) :=
  getLsbD_setBit _ r q (Nat.le_refl 16)

theorem Ctx.getV_awaitV (c : Ctx) (r q : VReg) : (c.awaitV r).getV q = c.getV q := rfl

theorem Ctx.fullV_awaitV (c : Ctx) (r q : VReg) : (c.awaitV r).fullV q = (c.fullV q && decide (q ≠ r)) :=
  getLsbD_clearBit _ r q (Nat.le_refl 16)

theorem Ctx.getM_setM (c : Ctx) (r q : MReg) (w : MWord) : (c.setM r w).getM q = if q = r ∧ r ≠ 0#2 then w else c.getM q := by
  by_cases hr : r = 0#2
  · subst hr; simp [Ctx.setM]
  · by_cases hq : q = r
    · subst hq; simp [Ctx.setM, Ctx.getM, hr]
    · have hn : r.toNat ≠ q.toNat := fun h => hq (BitVec.eq_of_toNat_eq h).symm
      simp only [Ctx.setM, Ctx.getM, if_neg hr, hq, false_and, if_false]
      rw [Vector.getElem_set_ne _ _ hn]

theorem Ctx.fullM_setM (c : Ctx) (r q : MReg) (w : MWord) : (c.setM r w).fullM q = (c.fullM q || decide (q = r)) := by
  by_cases hr : r = 0#2
  · subst hr
    by_cases hq : q = 0#2
    · subst hq; rfl
    · simp [Ctx.setM, hq]
  · simp only [Ctx.setM, Ctx.fullM, if_neg hr, getLsbD_setBit _ r q (Nat.le_refl 4), Bool.or_assoc]

/-! ## Registers that an update does not reach -/

@[simp] theorem Ctx.getV_setX (c : Ctx) (r : Reg) (w : Word) (q : VReg) : (c.setX r w).getV q = c.getV q := by unfold Ctx.setX; split <;> rfl
@[simp] theorem Ctx.fullV_setX (c : Ctx) (r : Reg) (w : Word) (q : VReg) : (c.setX r w).fullV q = c.fullV q := by unfold Ctx.setX; split <;> rfl
@[simp] theorem Ctx.getM_setX (c : Ctx) (r : Reg) (w : Word) (q : MReg) : (c.setX r w).getM q = c.getM q := by unfold Ctx.setX; split <;> rfl
@[simp] theorem Ctx.fullM_setX (c : Ctx) (r : Reg) (w : Word) (q : MReg) : (c.setX r w).fullM q = c.fullM q := by unfold Ctx.setX; split <;> rfl
@[simp] theorem Ctx.getV_awaitX (c : Ctx) (r : Reg) (q : VReg) : (c.awaitX r).getV q = c.getV q := by unfold Ctx.awaitX; split <;> rfl
@[simp] theorem Ctx.fullV_awaitX (c : Ctx) (r : Reg) (q : VReg) : (c.awaitX r).fullV q = c.fullV q := by unfold Ctx.awaitX; split <;> rfl
@[simp] theorem Ctx.getM_awaitX (c : Ctx) (r : Reg) (q : MReg) : (c.awaitX r).getM q = c.getM q := by unfold Ctx.awaitX; split <;> rfl
@[simp] theorem Ctx.fullM_awaitX (c : Ctx) (r : Reg) (q : MReg) : (c.awaitX r).fullM q = c.fullM q := by unfold Ctx.awaitX; split <;> rfl
@[simp] theorem Ctx.getV_awaitCall (c : Ctx) (r : Reg) (q : VReg) : (c.awaitCall r).getV q = c.getV q := by unfold Ctx.awaitCall; split <;> simp [Ctx.getV]
@[simp] theorem Ctx.fullV_awaitCall (c : Ctx) (r : Reg) (q : VReg) : (c.awaitCall r).fullV q = c.fullV q := by unfold Ctx.awaitCall; split <;> simp [Ctx.fullV]
@[simp] theorem Ctx.getM_awaitCall (c : Ctx) (r : Reg) (q : MReg) : (c.awaitCall r).getM q = c.getM q := by unfold Ctx.awaitCall; split <;> simp [Ctx.getM]
@[simp] theorem Ctx.fullM_awaitCall (c : Ctx) (r : Reg) (q : MReg) : (c.awaitCall r).fullM q = c.fullM q := by unfold Ctx.awaitCall; split <;> simp [Ctx.fullM]
@[simp] theorem Ctx.getX_setV (c : Ctx) (r : VReg) (w : VWord) (q : Reg) : (c.setV r w).getX q = c.getX q := rfl
@[simp] theorem Ctx.fullX_setV (c : Ctx) (r : VReg) (w : VWord) (q : Reg) : (c.setV r w).fullX q = c.fullX q := rfl
@[simp] theorem Ctx.getM_setV (c : Ctx) (r : VReg) (w : VWord) (q : MReg) : (c.setV r w).getM q = c.getM q := rfl
@[simp] theorem Ctx.fullM_setV (c : Ctx) (r : VReg) (w : VWord) (q : MReg) : (c.setV r w).fullM q = c.fullM q := rfl
@[simp] theorem Ctx.getX_awaitV (c : Ctx) (r : VReg) (q : Reg) : (c.awaitV r).getX q = c.getX q := rfl
@[simp] theorem Ctx.fullX_awaitV (c : Ctx) (r : VReg) (q : Reg) : (c.awaitV r).fullX q = c.fullX q := rfl
@[simp] theorem Ctx.getM_awaitV (c : Ctx) (r : VReg) (q : MReg) : (c.awaitV r).getM q = c.getM q := rfl
@[simp] theorem Ctx.fullM_awaitV (c : Ctx) (r : VReg) (q : MReg) : (c.awaitV r).fullM q = c.fullM q := rfl
@[simp] theorem Ctx.getX_setM (c : Ctx) (r : MReg) (w : MWord) (q : Reg) : (c.setM r w).getX q = c.getX q := by unfold Ctx.setM; split <;> rfl
@[simp] theorem Ctx.fullX_setM (c : Ctx) (r : MReg) (w : MWord) (q : Reg) : (c.setM r w).fullX q = c.fullX q := by unfold Ctx.setM; split <;> rfl
@[simp] theorem Ctx.getV_setM (c : Ctx) (r : MReg) (w : MWord) (q : VReg) : (c.setM r w).getV q = c.getV q := by unfold Ctx.setM; split <;> rfl
@[simp] theorem Ctx.fullV_setM (c : Ctx) (r : MReg) (w : MWord) (q : VReg) : (c.setM r w).fullV q = c.fullV q := by unfold Ctx.setM; split <;> rfl
@[simp] theorem Ctx.getX_raise (c : Ctx) (f : VFlags) (q : Reg) : (c.raise f).getX q = c.getX q := rfl
@[simp] theorem Ctx.fullX_raise (c : Ctx) (f : VFlags) (q : Reg) : (c.raise f).fullX q = c.fullX q := rfl
@[simp] theorem Ctx.getV_raise (c : Ctx) (f : VFlags) (q : VReg) : (c.raise f).getV q = c.getV q := rfl
@[simp] theorem Ctx.fullV_raise (c : Ctx) (f : VFlags) (q : VReg) : (c.raise f).fullV q = c.fullV q := rfl
@[simp] theorem Ctx.getM_raise (c : Ctx) (f : VFlags) (q : MReg) : (c.raise f).getM q = c.getM q := rfl
@[simp] theorem Ctx.fullM_raise (c : Ctx) (f : VFlags) (q : MReg) : (c.raise f).fullM q = c.fullM q := rfl
@[simp] theorem Ctx.getX_takeTrap (c : Ctx) (t : TrapInfo) (tvec : Word) (q : Reg) : (c.takeTrap t tvec).getX q = c.getX q := rfl
@[simp] theorem Ctx.fullX_takeTrap (c : Ctx) (t : TrapInfo) (tvec : Word) (q : Reg) : (c.takeTrap t tvec).fullX q = c.fullX q := rfl
@[simp] theorem Ctx.getV_takeTrap (c : Ctx) (t : TrapInfo) (tvec : Word) (q : VReg) : (c.takeTrap t tvec).getV q = c.getV q := rfl
@[simp] theorem Ctx.fullV_takeTrap (c : Ctx) (t : TrapInfo) (tvec : Word) (q : VReg) : (c.takeTrap t tvec).fullV q = c.fullV q := rfl
@[simp] theorem Ctx.getM_takeTrap (c : Ctx) (t : TrapInfo) (tvec : Word) (q : MReg) : (c.takeTrap t tvec).getM q = c.getM q := rfl
@[simp] theorem Ctx.fullM_takeTrap (c : Ctx) (t : TrapInfo) (tvec : Word) (q : MReg) : (c.takeTrap t tvec).fullM q = c.fullM q := rfl
@[simp] theorem Ctx.getX_trapReturn (c : Ctx) (q : Reg) : (c.trapReturn).getX q = c.getX q := rfl
@[simp] theorem Ctx.fullX_trapReturn (c : Ctx) (q : Reg) : (c.trapReturn).fullX q = c.fullX q := rfl
@[simp] theorem Ctx.getV_trapReturn (c : Ctx) (q : VReg) : (c.trapReturn).getV q = c.getV q := rfl
@[simp] theorem Ctx.fullV_trapReturn (c : Ctx) (q : VReg) : (c.trapReturn).fullV q = c.fullV q := rfl
@[simp] theorem Ctx.getM_trapReturn (c : Ctx) (q : MReg) : (c.trapReturn).getM q = c.getM q := rfl
@[simp] theorem Ctx.fullM_trapReturn (c : Ctx) (q : MReg) : (c.trapReturn).fullM q = c.fullM q := rfl

/-! ## What parking, retiring and trapping leave -/

@[simp] theorem State.setX_mem (s : State) (r : Reg) (w : Word) : (s.setX r w).mem = s.mem := rfl
@[simp] theorem State.setX_empty (s : State) (r : Reg) (w : Word) : (s.setX r w).empty = s.empty := rfl
@[simp] theorem State.setX_poison (s : State) (r : Reg) (w : Word) : (s.setX r w).poison = s.poison := rfl
@[simp] theorem State.setX_poss (s : State) (r : Reg) (w : Word) : (s.setX r w).poss = s.poss := rfl
@[simp] theorem State.setX_cores (s : State) (r : Reg) (w : Word) : (s.setX r w).cores = s.cores := rfl
@[simp] theorem State.setX_devs (s : State) (r : Reg) (w : Word) : (s.setX r w).devs = s.devs := rfl
@[simp] theorem State.setX_net (s : State) (r : Reg) (w : Word) : (s.setX r w).net = s.net := rfl
@[simp] theorem State.setX_waiters (s : State) (r : Reg) (w : Word) : (s.setX r w).waiters = s.waiters := rfl
@[simp] theorem State.setX_inj (s : State) (r : Reg) (w : Word) : (s.setX r w).inj = s.inj := rfl
@[simp] theorem State.setX_ej (s : State) (r : Reg) (w : Word) : (s.setX r w).ej = s.ej := rfl
@[simp] theorem State.setX_agenda (s : State) (r : Reg) (w : Word) : (s.setX r w).agenda = s.agenda := rfl
@[simp] theorem State.setX_free (s : State) (r : Reg) (w : Word) : (s.setX r w).free = s.free := rfl
@[simp] theorem State.setX_cur (s : State) (r : Reg) (w : Word) : (s.setX r w).cur = s.cur := rfl
@[simp] theorem State.setX_canonical (s : State) (r : Reg) (w : Word) : (s.setX r w).canonical = s.canonical := rfl

@[simp] theorem State.retire_mem (s : State) : (s.retire).mem = s.mem := rfl
@[simp] theorem State.retire_empty (s : State) : (s.retire).empty = s.empty := rfl
@[simp] theorem State.retire_poison (s : State) : (s.retire).poison = s.poison := rfl
@[simp] theorem State.retire_poss (s : State) : (s.retire).poss = s.poss := rfl
@[simp] theorem State.retire_cores (s : State) : (s.retire).cores = s.cores := rfl
@[simp] theorem State.retire_devs (s : State) : (s.retire).devs = s.devs := rfl
@[simp] theorem State.retire_net (s : State) : (s.retire).net = s.net := rfl
@[simp] theorem State.retire_waiters (s : State) : (s.retire).waiters = s.waiters := rfl
@[simp] theorem State.retire_inj (s : State) : (s.retire).inj = s.inj := rfl
@[simp] theorem State.retire_ej (s : State) : (s.retire).ej = s.ej := rfl
@[simp] theorem State.retire_agenda (s : State) : (s.retire).agenda = s.agenda := rfl
@[simp] theorem State.retire_free (s : State) : (s.retire).free = s.free := rfl
@[simp] theorem State.retire_cur (s : State) : (s.retire).cur = s.cur := rfl
@[simp] theorem State.retire_canonical (s : State) : (s.retire).canonical = s.canonical := rfl

@[simp] theorem State.park_mem (s : State) (on : WaitOn) : (s.park on).mem = s.mem := rfl
@[simp] theorem State.park_empty (s : State) (on : WaitOn) : (s.park on).empty = s.empty := rfl
@[simp] theorem State.park_poison (s : State) (on : WaitOn) : (s.park on).poison = s.poison := rfl
@[simp] theorem State.park_cores (s : State) (on : WaitOn) : (s.park on).cores = s.cores := rfl
@[simp] theorem State.park_devs (s : State) (on : WaitOn) : (s.park on).devs = s.devs := rfl
@[simp] theorem State.park_net (s : State) (on : WaitOn) : (s.park on).net = s.net := rfl
@[simp] theorem State.park_waiters (s : State) (on : WaitOn) : (s.park on).waiters = s.waiters := rfl
@[simp] theorem State.park_inj (s : State) (on : WaitOn) : (s.park on).inj = s.inj := rfl
@[simp] theorem State.park_ej (s : State) (on : WaitOn) : (s.park on).ej = s.ej := rfl
@[simp] theorem State.park_agenda (s : State) (on : WaitOn) : (s.park on).agenda = s.agenda := rfl
@[simp] theorem State.park_free (s : State) (on : WaitOn) : (s.park on).free = s.free := rfl
@[simp] theorem State.park_cur (s : State) (on : WaitOn) : (s.park on).cur = s.cur := rfl
@[simp] theorem State.park_canonical (s : State) (on : WaitOn) : (s.park on).canonical = s.canonical := rfl

@[simp] theorem State.parkOn_mem (s : State) (w : Wait) : (s.parkOn w).mem = s.mem := rfl
@[simp] theorem State.parkOn_empty (s : State) (w : Wait) : (s.parkOn w).empty = s.empty := rfl
@[simp] theorem State.parkOn_poison (s : State) (w : Wait) : (s.parkOn w).poison = s.poison := rfl
@[simp] theorem State.parkOn_cores (s : State) (w : Wait) : (s.parkOn w).cores = s.cores := rfl
@[simp] theorem State.parkOn_devs (s : State) (w : Wait) : (s.parkOn w).devs = s.devs := rfl
@[simp] theorem State.parkOn_net (s : State) (w : Wait) : (s.parkOn w).net = s.net := rfl
@[simp] theorem State.parkOn_waiters (s : State) (w : Wait) : (s.parkOn w).waiters = s.waiters := rfl
@[simp] theorem State.parkOn_inj (s : State) (w : Wait) : (s.parkOn w).inj = s.inj := rfl
@[simp] theorem State.parkOn_ej (s : State) (w : Wait) : (s.parkOn w).ej = s.ej := rfl
@[simp] theorem State.parkOn_agenda (s : State) (w : Wait) : (s.parkOn w).agenda = s.agenda := rfl
@[simp] theorem State.parkOn_free (s : State) (w : Wait) : (s.parkOn w).free = s.free := rfl
@[simp] theorem State.parkOn_cur (s : State) (w : Wait) : (s.parkOn w).cur = s.cur := rfl
@[simp] theorem State.parkOn_canonical (s : State) (w : Wait) : (s.parkOn w).canonical = s.canonical := rfl

@[simp] theorem State.noteTrap_mem (s : State) (d cid : Nat) : (s.noteTrap d cid).mem = s.mem := rfl
@[simp] theorem State.noteTrap_empty (s : State) (d cid : Nat) : (s.noteTrap d cid).empty = s.empty := rfl
@[simp] theorem State.noteTrap_poison (s : State) (d cid : Nat) : (s.noteTrap d cid).poison = s.poison := rfl
@[simp] theorem State.noteTrap_ctxs (s : State) (d cid : Nat) : (s.noteTrap d cid).ctxs = s.ctxs := rfl
@[simp] theorem State.noteTrap_poss (s : State) (d cid : Nat) : (s.noteTrap d cid).poss = s.poss := rfl
@[simp] theorem State.noteTrap_cores (s : State) (d cid : Nat) : (s.noteTrap d cid).cores = s.cores := rfl
@[simp] theorem State.noteTrap_devs (s : State) (d cid : Nat) : (s.noteTrap d cid).devs = s.devs := rfl
@[simp] theorem State.noteTrap_net (s : State) (d cid : Nat) : (s.noteTrap d cid).net = s.net := rfl
@[simp] theorem State.noteTrap_waiters (s : State) (d cid : Nat) : (s.noteTrap d cid).waiters = s.waiters := rfl
@[simp] theorem State.noteTrap_inj (s : State) (d cid : Nat) : (s.noteTrap d cid).inj = s.inj := rfl
@[simp] theorem State.noteTrap_ej (s : State) (d cid : Nat) : (s.noteTrap d cid).ej = s.ej := rfl
@[simp] theorem State.noteTrap_agenda (s : State) (d cid : Nat) : (s.noteTrap d cid).agenda = s.agenda := rfl
@[simp] theorem State.noteTrap_free (s : State) (d cid : Nat) : (s.noteTrap d cid).free = s.free := rfl
@[simp] theorem State.noteTrap_canonical (s : State) (d cid : Nat) : (s.noteTrap d cid).canonical = s.canonical := rfl

@[simp] theorem State.trap_mem (s : State) (t : TrapInfo) : (s.trap t).mem = s.mem := rfl
@[simp] theorem State.trap_empty (s : State) (t : TrapInfo) : (s.trap t).empty = s.empty := rfl
@[simp] theorem State.trap_poison (s : State) (t : TrapInfo) : (s.trap t).poison = s.poison := rfl
@[simp] theorem State.trap_cores (s : State) (t : TrapInfo) : (s.trap t).cores = s.cores := rfl
@[simp] theorem State.trap_devs (s : State) (t : TrapInfo) : (s.trap t).devs = s.devs := rfl
@[simp] theorem State.trap_net (s : State) (t : TrapInfo) : (s.trap t).net = s.net := rfl
@[simp] theorem State.trap_waiters (s : State) (t : TrapInfo) : (s.trap t).waiters = s.waiters := rfl
@[simp] theorem State.trap_inj (s : State) (t : TrapInfo) : (s.trap t).inj = s.inj := rfl
@[simp] theorem State.trap_ej (s : State) (t : TrapInfo) : (s.trap t).ej = s.ej := rfl
@[simp] theorem State.trap_agenda (s : State) (t : TrapInfo) : (s.trap t).agenda = s.agenda := rfl
@[simp] theorem State.trap_free (s : State) (t : TrapInfo) : (s.trap t).free = s.free := rfl
@[simp] theorem State.trap_canonical (s : State) (t : TrapInfo) : (s.trap t).canonical = s.canonical := rfl

@[simp] theorem State.undoSend_mem (s : State) (d cid : Nat) : (s.undoSend d cid).mem = s.mem := by
  unfold State.undoSend; split
  · rfl
  · dsimp only; split <;> rfl
@[simp] theorem State.undoSend_empty (s : State) (d cid : Nat) : (s.undoSend d cid).empty = s.empty := by
  unfold State.undoSend; split
  · rfl
  · dsimp only; split <;> rfl
@[simp] theorem State.undoSend_poison (s : State) (d cid : Nat) : (s.undoSend d cid).poison = s.poison := by
  unfold State.undoSend; split
  · rfl
  · dsimp only; split <;> rfl
@[simp] theorem State.undoSend_poss (s : State) (d cid : Nat) : (s.undoSend d cid).poss = s.poss := by
  unfold State.undoSend; split
  · rfl
  · dsimp only; split <;> rfl
@[simp] theorem State.undoSend_devs (s : State) (d cid : Nat) : (s.undoSend d cid).devs = s.devs := by
  unfold State.undoSend; split
  · rfl
  · dsimp only; split <;> rfl
@[simp] theorem State.undoSend_net (s : State) (d cid : Nat) : (s.undoSend d cid).net = s.net := by
  unfold State.undoSend; split
  · rfl
  · dsimp only; split <;> rfl
@[simp] theorem State.undoSend_waiters (s : State) (d cid : Nat) : (s.undoSend d cid).waiters = s.waiters := by
  unfold State.undoSend; split
  · rfl
  · dsimp only; split <;> rfl
@[simp] theorem State.undoSend_inj (s : State) (d cid : Nat) : (s.undoSend d cid).inj = s.inj := by
  unfold State.undoSend; split
  · rfl
  · dsimp only; split <;> rfl
@[simp] theorem State.undoSend_ej (s : State) (d cid : Nat) : (s.undoSend d cid).ej = s.ej := by
  unfold State.undoSend; split
  · rfl
  · dsimp only; split <;> rfl
@[simp] theorem State.undoSend_agenda (s : State) (d cid : Nat) : (s.undoSend d cid).agenda = s.agenda := by
  unfold State.undoSend; split
  · rfl
  · dsimp only; split <;> rfl
@[simp] theorem State.undoSend_free (s : State) (d cid : Nat) : (s.undoSend d cid).free = s.free := by
  unfold State.undoSend; split
  · rfl
  · dsimp only; split <;> rfl
@[simp] theorem State.undoSend_cur (s : State) (d cid : Nat) : (s.undoSend d cid).cur = s.cur := by
  unfold State.undoSend; split
  · rfl
  · dsimp only; split <;> rfl
@[simp] theorem State.undoSend_canonical (s : State) (d cid : Nat) : (s.undoSend d cid).canonical = s.canonical := by
  unfold State.undoSend; split
  · rfl
  · dsimp only; split <;> rfl

@[simp] theorem State.trapCtx_mem (s : State) (d cid : Nat) (t : TrapInfo) : (s.trapCtx d cid t).mem = s.mem := State.undoSend_mem s d cid
@[simp] theorem State.trapCtx_empty (s : State) (d cid : Nat) (t : TrapInfo) : (s.trapCtx d cid t).empty = s.empty := State.undoSend_empty s d cid
@[simp] theorem State.trapCtx_poison (s : State) (d cid : Nat) (t : TrapInfo) : (s.trapCtx d cid t).poison = s.poison := State.undoSend_poison s d cid
@[simp] theorem State.trapCtx_devs (s : State) (d cid : Nat) (t : TrapInfo) : (s.trapCtx d cid t).devs = s.devs := State.undoSend_devs s d cid
@[simp] theorem State.trapCtx_net (s : State) (d cid : Nat) (t : TrapInfo) : (s.trapCtx d cid t).net = s.net := State.undoSend_net s d cid
@[simp] theorem State.trapCtx_waiters (s : State) (d cid : Nat) (t : TrapInfo) : (s.trapCtx d cid t).waiters = s.waiters := State.undoSend_waiters s d cid
@[simp] theorem State.trapCtx_inj (s : State) (d cid : Nat) (t : TrapInfo) : (s.trapCtx d cid t).inj = s.inj := State.undoSend_inj s d cid
@[simp] theorem State.trapCtx_ej (s : State) (d cid : Nat) (t : TrapInfo) : (s.trapCtx d cid t).ej = s.ej := State.undoSend_ej s d cid
@[simp] theorem State.trapCtx_agenda (s : State) (d cid : Nat) (t : TrapInfo) : (s.trapCtx d cid t).agenda = s.agenda := State.undoSend_agenda s d cid
@[simp] theorem State.trapCtx_free (s : State) (d cid : Nat) (t : TrapInfo) : (s.trapCtx d cid t).free = s.free := State.undoSend_free s d cid
@[simp] theorem State.trapCtx_canonical (s : State) (d cid : Nat) (t : TrapInfo) : (s.trapCtx d cid t).canonical = s.canonical := State.undoSend_canonical s d cid

@[simp] theorem State.thread_setX (s : State) (r : Reg) (w : Word) : (s.setX r w).thread = s.thread.setX r w := State.thread_onThread _ _
@[simp] theorem State.thread_retire (s : State) : s.retire.thread = 
    { s.thread with pc := s.thread.pc + 4, enTested := false, sending := none, mism := 0 } := State.thread_onThread _ _
@[simp] theorem State.thread_park (s : State) (on : WaitOn) :
    (s.park on).thread = { s.thread with wait := some (.again on s.cur.words), parkedAt := s.cur.since.getD s.now, enTested := s.atMap } :=
  State.thread_onThread _ _
@[simp] theorem State.thread_parkOn (s : State) (w : Wait) : (s.parkOn w).thread = 
    { s.thread with wait := some w, parkedAt := s.now, mism := 0 } :=
  State.thread_onThread _ _
@[simp] theorem State.thread_trap (s : State) (t : TrapInfo) : (s.trap t).thread = s.thread.takeTrap t s.here.tvec :=
  State.thread_onThread (s.setPos s.cur.dev s.cur.vcn s.cur.pos ⟨.running, s.cur.cid⟩) fun c => c.takeTrap t s.here.tvec

end Sys2Proof.Machine
end

