-- ==== Sys2Proof/Laws/Ops.lean ====
section
/-! SUPPORT. Laws of the shared operations: what each check, gate and access answers when nothing stands in its way. -/

namespace Sys2Proof.Machine

/-! ## Checks and gates: each goes on with its continuation -/

theorem State.ready_of {s : State} {l : List Opnd} (h : s.fullAll l) (k : State → State) : s.ready l k = k s := by
  have : l.find? (fun o => !s.thread.full o) = none := List.find?_eq_none.2 fun o ho => by simp [h o ho]
  simp only [State.ready, this]

theorem State.fullAll_mono {s : State} {l l' : List Opnd} (h : s.fullAll l) (hs : ∀ o ∈ l', o ∈ l) : s.fullAll l' := fun o ho => h o (hs o ho)

theorem State.supervisor_of {s : State} (h : s.thread.sup = true) (k : State → State) : s.supervisor k = k s := if_pos h
theorem State.supervisor_not {s : State} (h : s.thread.sup = false) (k : State → State) : s.supervisor k = s.illegal := by
  simp [State.supervisor, h]
theorem State.irrevocable_of {s : State} (h : s.thread.revocable = false) (k : State → State) : s.irrevocable k = k s := by
  simp [State.irrevocable, h]
theorem State.aligned_of {s : State} {va : VA} {n : Nat} (h : va.toNat % n = 0) (k : State → State) : s.aligned va n k = k s := if_pos h
theorem State.peer_of {s : State} {xp : Reg} (h : xp = 0#5) (va : VA) (k : Nat → State → State) : s.peer xp va k = k s.cur.dev s := by
  simp [State.peer, h]
theorem State.resolve_of {s : State} {va : VA} {p : Perm} {n : Nat} {t : Target} (h : s.resolveAt s.cur.dev s.issuer va p n false = .ok t)
    (k : Option Target → State → State) : s.resolve s.cur.dev va p n k = k (some t) s := by
  simp [State.resolve, h]
theorem State.storeGate_of {s : State} (h : s.thread.storeFence = none) (k : State → State) : s.storeGate k = k s := by
  simp [State.storeGate, h]
theorem State.anyEntry_and {s : State} {d : Nat} {f g : JEntry → Bool} (h : s.anyEntry d f = false) (hg : ∀ e, g e = true → f e = true) :
    s.anyEntry d g = false := by
  unfold State.anyEntry at *
  rw [List.any_eq_false] at *
  intro p hp hx
  apply h p hp
  rw [Bool.and_eq_true] at *
  refine ⟨hx.1, ?_⟩
  obtain ⟨q, hq, hq'⟩ := List.any_eq_true.1 hx.2
  exact List.any_eq_true.2 ⟨q, hq, hg _ hq'⟩
theorem State.matching_of {s : State} (h : s.atRest) (d : Nat) (va : VA) : s.matching d va = false :=
  State.anyEntry_and h.2.2.1 fun e he => by simp [Bool.and_eq_true] at he; exact he.1.1.1
theorem State.unacked_of {s : State} (h : s.atRest) (sc : Scope) : s.unacked sc = false :=
  State.anyEntry_and h.2.2.1 fun e he => by simp [Bool.and_eq_true] at he; exact he.1.1
theorem State.inOrder_of {s : State} (h : s.atRest) (d : Nat) (va : VA) (k : State → State) : s.inOrder d va k = k s := by
  simp [State.inOrder, State.matching_of h, h.1]
theorem State.inOrderN_of {s : State} (h : s.atRest) (d : Nat) (va : VA) (n : Nat) (k : State → State) : s.inOrderN d va n k = k s := by
  simp [State.inOrderN, State.inOrder_of h]
theorem State.refusedIn_of {s : State} (h : s.atRest) (sc : Scope) : s.refusedIn sc = false := by
  have h' := h.2.2.2
  unfold State.refusedIn at *
  cases hs : s.thread.sup
  · rfl
  · simp only [hs, Bool.true_and, List.any_eq_false, Bool.and_eq_true, not_and] at *
    intro p hp hd hx
    obtain ⟨q, hq, hq'⟩ := List.any_eq_true.1 hx
    refine h' p hp hd (List.any_eq_true.2 ⟨q, hq, ?_⟩)
    simp only [Bool.and_eq_true] at *
    exact ⟨⟨hq'.1.1, by simp [State.inScope, homeInScope]⟩, hq'.2⟩
theorem State.complete_of {s : State} (h : s.atRest) (sc : Scope) (k : State → State) : s.complete sc k = k s := by
  simp [State.complete, State.unacked_of h, h.1]
theorem State.release_of {s : State} (h : s.atRest) (sc : Scope) (k : State → State) : s.release sc k = k s := by
  simp [State.release, State.complete_of h, State.refusedIn_of h]
theorem State.alone_of {s : State} (h : s.thread.split = none) (k : State → State) : s.alone k = k s := by
  simp [State.alone, h]

/-! ## Serving a word: without a waiter nothing happens (R104) -/

theorem State.serveOne_of {s : State} {l : Nat} (ws : List Waiter) (h : ∀ w ∈ ws, ∀ k, w.req.loc = some k → wordOf k ≠ wordOf l) (pre) :
    s.serveOne l pre ws = none := by
  induction ws generalizing pre with
  | nil => rfl
  | cons w t ih =>
    have ht := ih (fun w hw => h w (List.mem_cons_of_mem _ hw))
    simp only [State.serveOne]
    cases hl : w.req.loc with
    | none => exact ht _
    | some k => simp only; rw [if_neg (h w List.mem_cons_self k hl)]; exact ht _

theorem State.serveUpTo_of {s : State} {l : Nat} (h : s.noWaiterAt l) (n : Nat) : s.serveUpTo l n = s := by
  cases n with
  | zero => rfl
  | succ n => simp only [State.serveUpTo, State.serveOne_of s.waiters h]
theorem State.serve_of {s : State} {l : Nat} (h : s.noWaiterAt l) : s.serve l = s := State.serveUpTo_of h _

theorem State.noWaiterAt_congr {s u : State} (h : u.waiters = s.waiters) {l : Nat} (hs : s.noWaiterAt l) : u.noWaiterAt l := by
  intro w hw; rw [h] at hw; exact hs w hw

/-! ## Accesses of the own core's local storage -/

theorem isOwn_region {d v l : Nat} (h : isOwn d v l = true) : regionOf l = .ls := by
  simp [isOwn] at h; exact h.1.1

/-- Local storage holds no header of a checkpoint log (R358). -/
theorem State.isHeader_ls {s : State} {l : Nat} (h : regionOf l = .ls) (k : Nat) : s.isHeader k l = false := by
  simp [State.isHeader, h]

/-- A word of local storage is seen as it is, and written as an access gives it. -/
theorem State.seen_ls {s : State} {l : Nat} (h : regionOf l = .ls) (r : Req) : s.seen r l = s.readWord l := by
  simp [State.seen, State.isHeader_ls h]
theorem State.put_ls {s : State} {l : Nat} (h : regionOf l = .ls) (w : Word) : s.put l w = s.writeWord l w := by
  simp [State.put, State.isHeader_ls h]

/-- The state after an answer's value has come to rd of the thread (R96): the thread runs, rd is full and the instruction has retired. -/
theorem State.finish_reg {s : State} (h : s.seated) (va : VA) (rd : Reg) (x : Word) :
    s.finish s.cur.dev s.cur.cid va (.reg rd) (.vals [x])
      = (s.setPos s.cur.dev s.cur.vcn s.cur.pos ⟨.running, s.cur.cid⟩).onThread
          fun c => { c.setX rd x with pc := c.pc + 4, wait := none } := by
  obtain ⟨h1, h2⟩ := h
  simp only [State.finish, State.finMemory, Fin.apply, List.headD]
  unfold State.thread at h1 h2
  rw [h1, h2]; rfl

/-- An access of the own core's local storage is performed at once. -/
theorem State.access_own {s : State} (hr : s.atRest) {va : VA} {t : Target} (ho : isOwn s.cur.dev s.cur.vcn t.loc = true) (a : Acc) (f : Fin)
    (e : Ctx → Ctx) : s.access s.cur.dev va (some t) a f e = s.localAccess (s.reqOf s.cur.dev va (some t) a) t.loc f := by
  unfold State.access
  cases a.isStore
  · simp only [Bool.false_eq_true, if_false, State.inOrderN_of hr, ho, if_true]
  · simp only [if_true, State.storeGate_of hr.2.1, State.inOrderN_of hr, ho]

/-- A load of a word that is no header reads its bytes and changes nothing. -/
theorem State.perform_load {s : State} {r : Req} {n : Nat} {sgn : Bool} (h : r.acc = .load n sgn) {loc : Nat} (hl : s.isHeader 1 loc = false) :
    s.perform r loc = some (s, .vals [extendBytes n sgn (s.readData loc n)]) := by unfold State.perform; rw [h]; simp [hl]

/-- A load of the own core's local storage. -/
theorem State.access_load {s : State} (hr : s.atRest) (hs : s.seated) {va : VA} {t : Target} {n : Nat} {sgn : Bool} {rd : Reg} {e : Ctx → Ctx}
    (ho : isOwn s.cur.dev s.cur.vcn t.loc = true) (hp : s.poisoned t.loc n = false) :
    s.access s.cur.dev va (some t) (.load n sgn) (.reg rd) e
      = (s.setPos s.cur.dev s.cur.vcn s.cur.pos ⟨.running, s.cur.cid⟩).onThread
          fun c => { c.setX rd (extendBytes n sgn (s.readMem t.loc n)) with pc := c.pc + 4, wait := none } := by
  have hreg : s.readData t.loc n = s.readMem t.loc n := by simp [State.readData, isOwn_region ho]
  rw [State.access_own hr ho]
  unfold State.localAccess
  rw [State.perform_load rfl (State.isHeader_ls (isOwn_region ho) 1)]
  show (if (true && s.poisoned t.loc n) = true then _ else _) = _
  rw [hp, hreg]
  exact State.finish_reg hs va rd _

/-- Poisoning a word keeps the canonical form (R336). -/
theorem State.canonical_poison {s : State} (w : Nat) (h : s.canonical = true) : ({ s with poison := putNat s.poison w } : State).canonical = true := by
  rw [State.canonical_iff] at h ⊢
  exact ⟨h.1, h.2.1, rising_putNat h.2.2⟩

end Sys2Proof.Machine
end

