-- ==== Sys2Proof/Tests/Slice0.lean ====
section
/-! SUPPORT. Tests: well-formedness, decoding of words written out from the encodings, worked examples of the manual, single
steps on small states, and states that meet the hypotheses of the statements. -/

namespace Sys2Proof.Tests

open Sys2Proof Sys2Proof.Machine

set_option Elab.async false

/-! ## Well-formedness (R57 step 2): a term that each check refuses, and its neighbour that passes -/

/-- A tile command with zero fields (R227). -/
def cmd : TileCmd :=
  { ctrap := false, shadow := false, ec := 0, base := 1, xd := 2, kb := 0, pm1 := 0, off1 := 0, pm2 := 0, off2 := 0, off3 := 0, off4 := 0,
    tile := 0, sat := false, ofmt := 0, ifmt := 0, s1 := 0, s2 := 0 }

theorem test_wf_int_only : Instr.wf (.vshl .f32 1 2 3 0) = false ∧ Instr.wf (.vshl .i32 1 2 3 0) = true := by decide
theorem test_wf_vcmp_m0 : Instr.wf (.vcmp .eq .i32 0 2 3 0) = false ∧ Instr.wf (.vcmp .eq .i32 1 2 3 0) = true := by decide
theorem test_wf_vcmp_unsigned_float : Instr.wf (.vcmp .ltu .f32 1 2 3 0) = false ∧ Instr.wf (.vcmp .lt .f32 1 2 3 0) = true := by decide
theorem test_wf_vcvt_same : Instr.wf (.vcvt .f32 .f32 false 2 4 0) = false ∧ Instr.wf (.vcvt .i8 .i32 false 2 4 0) = false
    ∧ Instr.wf (.vcvt .bf16 .f32 false 2 4 0) = true := by decide
theorem test_wf_float_only : Instr.wf (.vsqrt .i32 1 2 0) = false ∧ Instr.wf (.vsqrt .bf16 1 2 0) = true := by decide
theorem test_wf_vmovaw : Instr.wf (.vmovaw .i8 0 1 2) = false ∧ Instr.wf (.vmovaw .i32 0 1 2) = true := by decide
theorem test_wf_planes : Instr.wf (.mma { cmd with kb := 1, pm1 := 16 }) = false ∧ Instr.wf (.mma { cmd with kb := 1, pm1 := 15 }) = true := by
  decide
theorem test_wf_mma_kb : Instr.wf (.mma cmd) = false ∧ Instr.wf (.mmaz { cmd with kb := 1, sat := true }) = false := by decide
theorem test_wf_mma_stride : Instr.wf (.mma { cmd with kb := 1, pm1 := 3, s1 := 3 }) = false
    ∧ Instr.wf (.mma { cmd with kb := 1, pm1 := 3, s1 := 4 }) = true := by decide
theorem test_wf_mma_shadow : Instr.wf (.mma { cmd with kb := 1, shadow := true, pm1 := 1 }) = false
    ∧ Instr.wf (.mma { cmd with kb := 1, shadow := true }) = true := by decide
theorem test_wf_maccst_format : Instr.wf (.maccst { cmd with ofmt := 5 }) = false ∧ Instr.wf (.maccst { cmd with ofmt := 12 }) = true := by
  decide
theorem test_wf_maccst_sat : Instr.wf (.maccst { cmd with ofmt := 3, sat := true }) = false
    ∧ Instr.wf (.maccst { cmd with ofmt := 1, sat := true }) = true := by decide
theorem test_wf_maccst_stride : Instr.wf (.maccst { cmd with s1 := 15 }) = false ∧ Instr.wf (.maccst { cmd with s1 := 16 }) = true := by
  decide
theorem test_wf_maccld : Instr.wf (.maccld { cmd with off2 := 8 }) = false ∧ Instr.wf (.maccld { cmd with off1 := 8 }) = true := by decide
theorem test_wf_mpack : Instr.wf (.mpack cmd) = false ∧ Instr.wf (.mpack { cmd with pm1 := 3, off4 := 8 }) = false
    ∧ Instr.wf (.mpack { cmd with pm1 := 3 }) = true := by decide
theorem test_wf_mxpose : Instr.wf (.mxpose { cmd with pm1 := 1 }) = false ∧ Instr.wf (.mxpose { cmd with pm1 := 1, ifmt := 11 }) = true := by
  decide
theorem test_wf_mzero : Instr.wf (.mzero { cmd with off1 := 8 }) = false ∧ Instr.wf (.mzero cmd) = true := by decide

/-! ## Decoding: words written out from the encodings of R58 to R65, and words that the manual prints -/

theorem test_decode_lui : decodeWords [0b00010010001101000101_00101_0110111] = .ok (.lui 5 0x12345) := rfl
theorem test_decode_jal : decodeWords [0b0_0000000100_0_00000000_00001_1101111] = .ok (.jal 1 4) := rfl
theorem test_decode_load : decodeWords [0b111111111000_00010_011_00101_0000011] = .ok (.ld 5 2 0xFF8) := rfl
theorem test_decode_store : decodeWords [0b0000000_00101_00010_010_01000_0100011] = .ok (.sw 5 2 8) := rfl
theorem test_decode_branch : decodeWords [0b0000000_00010_00001_101_01000_1100011] = .ok (.bge 1 2 4) := rfl
theorem test_decode_shift : decodeWords [0b010000_111111_00110_101_00101_0010011] = .ok (.srai 5 6 63) := rfl
theorem test_decode_zba_zbb : decodeWords [0b0010000_00111_00110_010_00101_0110011] = .ok (.sh1add 5 6 7)
    ∧ decodeWords [0b0110000_00001_00110_001_00101_0010011] = .ok (.ctz 5 6) := ⟨rfl, rfl⟩
/-- R106, R107, R109, R82, R294, R198, R225: words printed there. -/
theorem test_decode_printed : decodeWords [0x0A09450B] = .ok (.amoAdd true 1 0 18 10) ∧ decodeWords [0xA002C60B] = .ok (.amoCas2 false 0 0 5 12)
    ∧ decodeWords [0x0152D58B] = .ok (.redAdd 0 21 5 11) ∧ decodeWords [0x0001E00B] = .ok (.fenceS .dv)
    ∧ decodeWords [0x0006600B] = .ok (.fenceSSt .dm) ∧ decodeWords [0x2000202B] = .ok .irrev
    ∧ decodeWords [0x526062AB] = .ok (.nput 10 .e 6 5) ∧ decodeWords [0xFC7283DB] = .ok (.vmova .f32 7 2 5) := ⟨rfl, rfl, rfl, rfl, rfl, rfl, rfl, rfl⟩
theorem test_decode_map : decodeWords [0b00011_00_00111_00110_000_00101_0101011] = .ok (.kbind 5 6 7) := rfl
theorem test_decode_vector : decodeWords [0b00000_01_00011_00010_101_00001_1011011] = .ok (.vadd .i32 1 2 3 1) := rfl
theorem test_decode_refuses : decodeWords [0] = .error .lowBits ∧ decodeWords [0b0000010_00000_00000_000_00000_0000111] = .error .majorOpcode := ⟨rfl, rfl⟩
/-- An MMAZ whose fields fill w1 to w5 (R65, R227). -/
def mmazCmd : TileCmd :=
  { cmd with ec := 2, base := 11, xd := 10, kb := 1, pm1 := 3, off1 := 256, pm2 := 3, off2 := 512, off3 := 768, off4 := 832, tile := 1 }

theorem test_decode_tile : decodeWords [0b000_0_0_10_00010_01011_000_01010_1111011, 0b000_000001_00011_000000000100000000,
    0b00011_000000001000000000, 0x300, 0x340, 1, 0, 0] = .ok (.mmaz mmazCmd) := rfl

/-- R198, R200, R201, R207, R209, R211, R215, R39, R191: words printed there. -/
theorem test_decode_printed_vectors : decodeWords [0xF0A081DB] = .ok (.vnput .e 2 3 1) ∧ decodeWords [0x003150DB] = .ok (.vadd .i32 1 2 3 0)
    ∧ decodeWords [0xF802815B] = .ok (.vsqrt .f32 2 5 0) ∧ decodeWords [0x783104DB] = .ok (.vcmp .lt .f32 1 2 3 0)
    ∧ decodeWords [0x8811025B] = .ok (.vcvt .bf16 .f32 false 4 2 0) ∧ decodeWords [0xB80912DB] = .ok (.vld 1 5 18 0)
    ∧ decodeWords [0x28B5762B] = .ok (.tlbi 0 12 10 11) ∧ decodeWords [0x0104B503] = .ok (.ld 10 9 16) :=
  ⟨rfl, rfl, rfl, rfl, rfl, rfl, rfl, rfl⟩

/-! ## Worked examples of the manual -/

/-- R13, R14: core 100 of cluster 13. -/
theorem test_example_vcn : vcnAt 16 40 = 2596 ∧ meshOf 2596 = some (16, 40) ∧ clusterOf 2596 = 13 := by decide

/-- R168: the exact sum 4, and then 4 − 3·2^40. -/
theorem test_example_round96 : (A96.zero.addScaled 8 (-1)).1.int = 2 ^ 94 ∧ (A96.zero.addScaled 8 (-1)).1.exp = -92
    ∧ ((A96.zero.addScaled 8 (-1)).1.addScaled (-3) 40).1.int = -(3 * 2 ^ 93 - 2 ^ 55)
    ∧ ((A96.zero.addScaled 8 (-1)).1.addScaled (-3) 40).1.exp = -53 := by decide +kernel

/-- R158: the tree over 1, 2^24, 1, −2^24 and 28 disabled lanes gives 1.0 with NX. -/
theorem test_example_vredsum : reduceTree (fun x y => fp32.add (fp32.decode x) (fp32.decode y)) 5
    ([0x3F800000, 0x4B800000, 0x3F800000, 0xCB800000] ++ List.replicate 28 0x80000000) = (0x3F800000, 1#5) := by decide +kernel

/-- R211: 0x3F80_8000 lies midway between two bf16 numbers and goes to the even one. -/
theorem test_example_vcvt : (cvtLane .bf16 .f32 .ne 0x3F808000).1 = 0x3F80 := by decide +kernel

/-- The example of chapter 10 for E4M3: the largest magnitude 100 of an E4M3 group gives scale byte 0x7D and code 0x7C. -/
theorem test_example_e4m3 : (quantBlock 3 ((List.range 32).map fun k => if k = 0 then fp32.decode 0x42C80000 else FVal.zero)).2.1 = 0x7D
    ∧ (quantBlock 3 ((List.range 32).map fun k => if k = 0 then fp32.decode 0x42C80000 else FVal.zero)).1.getD 0 0 = 0x7C := by decide +kernel

/-! ## Single steps -/

/-- The state of the thread after a step, when there is one. -/
def after (o : Out) (p : State → Bool) : Bool :=
  match o with
  | .next t => p t
  | _ => false

/-- `addi x1, x0, 5`, placed where the machine fetches, is what the next step runs. -/
theorem test_step_addi : after (step (State.reset.withFetchWord 32 0x00500093)) (fun t => t.thread.getX 1 == 5 && t.thread.pc == 0x10004) = true := by
  decide +kernel

/-- `ecall` enters the trap handler: cause 0x0B, tepc at the instruction, level supervisor. -/
theorem test_step_ecall : after (step (State.reset.withFetchWord 32 0x00000073))
    (fun t => t.thread.tcause == 0x0B && t.thread.tepc == 0x10000 && t.thread.sup && t.thread.pc == 0) = true := by decide +kernel

/-- The machine after reset: its thread is CID 0 in position 0 of VCN 0, at task level, with every register full. -/
def z : State := State.reset

/-- With registers x1 to x4 and the data of local storage as given. -/
def zx (a b c d : Word) : State := z.onThread fun k => (((k.setX 1 a).setX 2 b).setX 3 c).setX 4 d

/-- R196: −2^63 ÷ −1 gives the dividend, and a division by zero all ones. -/
theorem test_div_corner : after (exec (.div 5 1 2) (zx 0x8000000000000000#64 (BitVec.allOnes 64) 0 0)) (fun t => t.thread.getX 5 == 0x8000000000000000#64)
    = true ∧ after (exec (.div 5 1 2) (zx 7 0 0 0)) (fun t => t.thread.getX 5 == BitVec.allOnes 64) = true := by decide +kernel

/-- R191: sraw sign-extends its word. -/
theorem test_sraw : after (exec (.sraw 5 1 2) (zx 0x80000000#64 4 0 0)) (fun t => t.thread.getX 5 == 0xFFFFFFFFF8000000#64) = true := by decide +kernel

/-- R192, R100: a stored halfword comes back sign-extended, and its neighbour is untouched. -/
theorem test_store_load : after (exec (.xst .h 1 0 1 2) (zx 0x100 0xFFFF8001#64 0 0)) (fun t =>
    t.byteAt (lsLoc 0 0 0x102) == 0#8 && after (exec (.xld .h 1 0 1 3) t) fun u => u.thread.getX 3 == 0xFFFFFFFFFFFF8001#64) = true := by
  decide +kernel

/-- R103: LDFE takes the word and empties it; a second LDFE waits. -/
theorem test_ldfe : after (exec (.ldfe .dv 1 0 1 3) (zx 0x100 0 0 0)) (fun t => !t.full (lsLoc 0 0 0x100)
    && after (exec (.ldfe .dv 1 0 1 3) t) fun u => u.thread.wait.isSome) = true := by decide +kernel

/-- R106: CAS of an equal word stores x[rd + 1] and returns the old word. -/
theorem test_cas : after (exec (.amoCas false 1 0 1 2) (zx 0x100 0 9 0)) (fun t => t.readWord (lsLoc 0 0 0x100) == 9 && t.thread.getX 2 == 0) = true := by
  decide +kernel

/-- R90: the worked example of KVIXA, and KVIX after it. -/
theorem test_kvixa : after (exec (.kvixa 5 1 2) ((zx 21 0x0010000800120000#64 0 0).onCore fun k => { k with kmcfg := 1#64 <<< 63 })) (fun t =>
    t.readWord (lsLoc 0 0 0x20280) == 0x8000000000000002#64 && t.thread.getX 5 == 0x20288#64) = true := by decide +kernel

/-- R57: a task may not read a supervisor CSR. -/
theorem test_csr_level : after (exec (.csrrs 5 0 0x5C1) z) (fun t => t.thread.tcause == 0 && t.thread.sup) = true := by decide +kernel

/-! ## States that meet the hypotheses of the statements

Each theorem names the statement, and shows concrete values that meet its hypotheses together, clause by clause. -/

/-- A thread in the small states below meets what most statements ask: nothing stands in its way, and its registers are full. -/
theorem test_hyp_quiet : z.quiet ∧ (zx 0x100 1 2 3).quiet := by unfold State.quiet State.atRest State.seated; decide +kernel

/-- Every register of the state after reset is full. -/
theorem test_hyp_full : ∀ o, z.thread.full o = true := by
  have hx : ∀ r : Reg, z.thread.full (.x r) = true := by decide +kernel
  have hv : ∀ r : VReg, z.thread.full (.v r) = true := by decide +kernel
  have hm : ∀ r : MReg, z.thread.full (.m r) = true := by decide +kernel
  intro o; cases o with
  | x r => exact hx r
  | v r => exact hv r
  | m r => exact hm r

theorem test_hyp_fullAll (l : List Opnd) : z.fullAll l := fun o _ => test_hyp_full o

/-- No access waits anywhere after reset. -/
theorem test_hyp_noWaiter (l : Nat) : z.noWaiterAt l := fun _ h => nomatch h

/-- The supervisor thread after reset. -/
def boss : State := z.onThread fun c => { c with sup := true }

theorem test_hyp_boss : boss.quiet ∧ boss.thread.sup = true ∧ boss.fullAll [.x 1, .x 2, .x 3] ∧ boss.thread.sent = 0 := by
  unfold State.quiet State.atRest State.seated State.fullAll; decide +kernel

/-- A thread whose windows 0 and 1 name local storage, with x1 = 0x100. -/
def zo : State := (zx 0x100 0x140 0 0).onThread fun c => { c with aw := c.aw.set 0 0x80#8 }

theorem test_hyp_zo : zo.quiet ∧ zo.fullAll [.x 1, .x 2, .x 0, .x 3] ∧ zo.noWaiterAt (lsLoc 0 0 0x100) ∧ zo.poisoned (lsLoc 0 0 0x100) 16 = false := by
  refine ⟨?_, ?_, (fun w h => nomatch (show w ∈ [] from h)), ?_⟩
  · unfold State.quiet State.atRest State.seated; decide +kernel
  · unfold State.fullAll; decide +kernel
  · decide +kernel

/-- The VA in x1 under window 0 or 1 is the own place 0x100, for every kind of access. -/
theorem test_hyp_own (p : Perm) (n : Nat) (hn : n ∈ [1, 2, 4, 8, 16]) :
    zo.ownPlace ((zo.thread.aw[0]) ++ zo.thread.getX 1) p n ⟨lsLoc 0 0 0x100, true⟩
    ∧ zo.ownPlace ((zo.thread.aw[1]) ++ zo.thread.getX 1) p n ⟨lsLoc 0 0 0x100, true⟩ := by
  have h : zo.thread.aw[0] ++ zo.thread.getX 1 = (0x80#8 ++ 0x100#64 : VA) := by decide +kernel
  have h' : zo.thread.aw[1] ++ zo.thread.getX 1 = (0x80#8 ++ 0x100#64 : VA) := by decide +kernel
  rw [h, h']
  have g : zo.ownPlace (0x80#8 ++ 0x100#64 : VA) p n ⟨lsLoc 0 0 0x100, true⟩ := by
    refine ⟨?_, rfl, by decide +kernel⟩
    revert n; decide +kernel
  exact ⟨g, g⟩

/-- A resolution that is the target given. -/
def okIs (e : Except VaFault Target) (t : Target) : Bool :=
  match e with
  | .ok u => decide (u = t)
  | .error _ => false

theorem okIs_iff {e : Except VaFault Target} {t : Target} : okIs e t = true ↔ e = .ok t := by
  cases e <;> simp [okIs]

theorem okIs_eq {e : Except VaFault Target} {t : Target} (h : okIs e t = true) : e = .ok t := okIs_iff.1 h

/-- ControlTransfers: targets that are multiples of 4 and targets that are not; a return from a trap. -/
theorem test_hyp_ControlTransfers : (z.thread.pc + 2 * (2#20).signExtend 64).toNat % 4 = 0 ∧ (z.thread.pc + 2 * (1#20).signExtend 64).toNat % 4 ≠ 0
    ∧ ((z.thread.getX 1 + (6#12).signExtend 64) &&& ~~~1#64).toNat % 4 ≠ 0 ∧ (z.thread.pc + 2 * (1#12).signExtend 64).toNat % 4 ≠ 0
    ∧ z.thread.getX 1 = z.thread.getX 2 ∧ (zx 0 1 0 0).thread.getX 1 ≠ (zx 0 1 0 0).thread.getX 2 := by decide +kernel

/-- SupervisorLevel: both levels, and both kinds of return address. -/
theorem test_hyp_SupervisorLevel : boss.thread.sup = true ∧ boss.thread.tepc.toNat % 4 = 0 ∧ z.thread.sup = false
    ∧ ((boss.onThread fun c => { c with tepc := 2 }).thread.tepc.toNat % 4 ≠ 0) := by decide +kernel

/-- SynchronousTraps: a refused store and a refused split word pending at task level, at a boundary of a running position. -/
theorem test_hyp_SynchronousTraps : ∀ x ∈ [AsyncTrap.postrefuse 0 3 2, .splitNack 0x20008 3],
    (let s := (z.onThread fun c => { c with pend := [x] }).setPos 0 0 0 ⟨.running, 0⟩
     s.thread.pend = x :: [] ∧ s.thread.sup = false ∧ s.thread.wait = none ∧ (s.pos s.cur.dev s.cur.vcn s.cur.pos).st = .running) := by
  decide +kernel

/-- CsrInstructions: the levels and numbers of the clauses, and a thread without queued work. -/
theorem test_hyp_CsrInstructions : z.busy z.cur.dev z.cur.vcn z.cur.cid = false ∧ boss.busy boss.cur.dev boss.cur.vcn boss.cur.cid = false
    ∧ 0x5C0 ≤ (0x5D1#12).toNat ∧ (0x5D1#12).toNat ≤ 0x5D1 ∧ 0x804 ≤ (0x806#12).toNat ∧ (0x806#12).toNat ≤ 0x806 ∧ (0xCC7#12).toNat ≤ 0xCC7 := by
  decide +kernel

/-- CsrInstructions: numbers that are not in the map, read-only numbers, a thread whose vector work is queued, and one without it. -/
theorem test_hyp_CsrNumbers : (let any := fun (k : Nat) => 0x800 ≤ k ∧ k ≤ 0x80C ∨ k = 0xC00 ∨ 0xCC0 ≤ k ∧ k ≤ 0xCC7
     any (0xCC7#12).toNat ∧ any (0xC00#12).toNat ∧ any (0x80C#12).toNat ∧ ¬ any (0xCC8#12).toNat ∧ ¬ (0x5C0 ≤ (0x5BF#12).toNat)
     ∧ ¬ (0x5D2#12).toNat ≤ 0x5D1) ∧ (1#5 : Reg) ≠ 0 ∧ boss.thread.sup = true
    ∧ (z.onCore fun k => { k with vq := [.vqapp 0 0 0 3] }).busy 0 0 0 = true := by decide +kernel

/-- CsrEffects: a kmcfg of 16 slots of 256 bytes, one that does not fit, and the bounds of CAP and PER. -/
theorem test_hyp_CsrEffects :
    (let v : Word := 0x800000000000000F#64
     16 ≤ (v.extractLsb' 0 8).toNat + 1 ∧ ((v.extractLsb' 0 8).toNat + 1) * (256 * ((v.extractLsb' 8 7).toNat + 1)) ≤ 196608
       ∧ 256 * (v.extractLsb' 16 10).toNat + ((v.extractLsb' 0 8).toNat + 1) * (256 * ((v.extractLsb' 8 7).toNat + 1)) ≤ 262144)
    ∧ ¬ 16 ≤ ((0x8000000000000000#64).extractLsb' 0 8).toNat + 1 ∧ (1 ≤ ((256#64).extractLsb' 0 9).toNat ∧ ((256#64).extractLsb' 0 9).toNat ≤ 256)
    ∧ ¬ ((257#64).extractLsb' 0 9).toNat ≤ 256 ∧ (2 ≤ ((64#64).extractLsb' 0 7).toNat ∧ ((64#64).extractLsb' 0 7).toNat ≤ 64)
    ∧ ¬ ((65#64).extractLsb' 0 7).toNat ≤ 64 ∧ z.thread.held = [] := by decide +kernel

/-- Every register of zo is full. -/
theorem test_hyp_zo_full : ∀ o, zo.thread.full o = true := by
  have hx : ∀ r : Reg, zo.thread.full (.x r) = true := by decide +kernel
  have hv : ∀ r : VReg, zo.thread.full (.v r) = true := by decide +kernel
  have hm : ∀ r : MReg, zo.thread.full (.m r) = true := by decide +kernel
  intro o; cases o with
  | x r => exact hx r
  | v r => exact hv r
  | m r => exact hm r

/-- LoadResults: a peer register that holds the own device number. -/
theorem test_hyp_LoadResults : zo.thread.getX 3 = BitVec.ofNat 64 zo.cur.dev ∧ zo.cur.dev < 2 ^ 12 ∧ zo.poisoned (lsLoc 0 0 0x100) 8 = false
    ∧ zo.thread.core = zo.cur.vcn ∧ zo.thread.pos = zo.cur.pos := by decide +kernel

/-- FullEmptyForms: the word at zo's place full, and emptied. -/
theorem test_hyp_FullEmptyForms : zo.full (lsLoc 0 0 0x100) = true ∧ (zo.setFull (lsLoc 0 0 0x100) false).full (lsLoc 0 0 0x100) = false
    ∧ (zo.setFull (lsLoc 0 0 0x100) false).quiet := by
  refine ⟨by decide +kernel, by decide +kernel, ?_⟩
  unfold State.quiet State.atRest State.seated; decide +kernel

/-- AtomicForms: groups that are well formed and groups that are not; a word that CAS finds equal; a VA for CAS2. -/
theorem test_hyp_AtomicForms : (4#5 ≠ 0#5 ∧ (4#5).toNat % 2 = 0 ∧ (4#5).toNat % 4 = 0) ∧ (3#5).toNat % 2 ≠ 0 ∧ (2#5).toNat % 4 ≠ 0
    ∧ ((zo.thread.aw[0]) ++ zo.thread.getX 1 : VA).toNat % 16 = 0 ∧ zo.poisoned (lsLoc 0 0 0x100) 16 = false ∧ zo.thread.revocable = false := by
  decide +kernel

/-- An access to no place waits anywhere in a state without waiters. -/
theorem noWaiterAt_nil {s : State} (h : s.waiters = []) (l : Nat) : s.noWaiterAt l := by
  intro w hw; rw [h] at hw; cases hw

theorem test_hyp_noWaiter8 : zo.noWaiterAt (lsLoc 0 0 0x100 + 8) := noWaiterAt_nil rfl _

/-- Clusters 0 and 23 have cached tenant 0's leaf for VA 0 to 4 TiB, in HBM. -/
def paged (s : State) : State := s.onDevice fun v => { v with tlb := [⟨0, 0, 0, 42, tableEntry true 0⟩, ⟨23, 0, 0, 42, tableEntry true 0⟩] }

/-- Tenant 0's tables map VA 0 to 4 TiB onto HBM. -/
def zt : State := (zx 0x20000 0x40 5 6).withTables 0

theorem test_hyp_zt : zt.quiet ∧ zt.fullAll [.x 1, .x 0, .x 2] := by
  refine ⟨?_, ?_⟩
  · unfold State.quiet State.atRest State.seated; decide +kernel
  · unfold State.fullAll; decide +kernel

/-- PostedStores: a place in HBM, for each permission; a free entry; a journal full of another context's entries. -/
theorem test_hyp_PostedStores (p : Perm) : zt.farPlace ((zt.thread.aw[0]) ++ zt.thread.getX 1) p 8 ⟨hbmLoc 0 0x20000, true⟩
    ∧ zt.here.freeEntry = some 0 := by
  refine ⟨⟨by decide +kernel, okIs_eq ?_, by decide +kernel⟩, by decide +kernel⟩
  cases p <;> decide +kernel

/-- An open entry of a context. -/
def entry (cid : Nat) : JEntry := ⟨none, cid, 0x20000, 0, false, some (hbmLoc 0 0x20000), 0, 0, 3, 0, 7, 0, 0, false, false, false, false⟩

/-- zt with every journal entry taken by context 5. -/
def ztFull : State := zt.onCore fun k => { k with journal := (List.range 64).map fun i => (i, entry 5) }

theorem test_hyp_PostedStores_full : ztFull.atRest ∧ ztFull.here.freeEntry = none
    ∧ ztFull.farPlace ((ztFull.thread.aw[0]) ++ ztFull.thread.getX 1) .write 8 ⟨hbmLoc 0 0x20000, true⟩ := by
  refine ⟨?_, by decide +kernel, by decide +kernel, okIs_eq (by decide +kernel), by decide +kernel⟩
  unfold State.atRest; decide +kernel

/-- FenceResults: with and without an unacknowledged store to HBM, which .dv holds and .co does not. -/
theorem test_hyp_FenceResults :
    (let s := zt.onCore fun k => { k with journal := [(0, entry 0)] }
     s.unacked .dv = true ∧ s.unacked .co = false ∧ s.thread.split = none ∧ s.thread.storeFence = none) ∧ zt.unacked .dv = false := by
  decide +kernel

/-- A key map of 16 slots: key 7 VALID in slot 2, key 8 PENDING in slot 3 with a full pin count, key 9 PENDING with one pin in slot 15. -/
def zk (a b : Word) : State := (zx a b 0 0).onCore fun k =>
  { k with kmcfg := 0x800000000000000F#64, kmap := [(2, ⟨7, .valid, 0⟩), (3, ⟨8, .pending, 255⟩), (15, ⟨9, .pending, 1⟩)] }

/-- MapOperations: each clause of the lookups and the updates. -/
theorem test_hyp_MapOperations : (zk 7 2).quiet ∧ (zk 7 2).here.kmcfg.getLsbD 63 = true ∧ z.here.kmcfg.getLsbD 63 = false
    ∧ (zk 6 0).here.kfind 6 = none ∧ (zk 6 0).thread.getX 1 ≠ BitVec.allOnes 64 ∧ ((zk 6 0).here.kent 0).st = .free
    ∧ (zk 7 2).here.kfind 7 = some (2, ⟨7, .valid, 0⟩) ∧ (zk 8 3).here.kfind 8 = some (3, ⟨8, .pending, 255⟩)
    ∧ ((zk 7 2).here.kent 2).st ≠ .free ∧ ((zk 7 2).here.kent 2).pin = 0 ∧ ((zk 9 15).here.kent 15).pin ≠ 0 ∧ ((zk 9 15).here.kent 15).st = .pending
    ∧ ((zk 9 15).thread.getX 2).toNat < ((zk 9 15).here.kmcfg.extractLsb' 0 8).toNat + 1 := by
  unfold State.quiet State.atRest State.seated; decide +kernel

/-- MapOperations: a lookup that waited keeps the test of EN it made, also when kmcfg is written meanwhile. -/
theorem test_hyp_MapTested : (let s := ((zk 8 3).onThread fun c => { c with enTested := true }).onCore fun k => { k with kmcfg := 0, kmap := [] }
     s.here.kmcfg.getLsbD 63 = false ∧ s.thread.enTested = true ∧ s.here.kfind (s.thread.getX 1) = none ∧ s.thread.getX 1 ≠ BitVec.allOnes 64
     ∧ s.thread.revocable = false)
    ∧ z.thread.enTested = false ∧ (zk 7 2).thread.revocable = false ∧ ((zk 8 3).here.kent 3).st = .pending := by decide +kernel

/-- RingWindow: the first and the last ring position, a sink, and a header that is stored. -/
theorem test_hyp_RingWindow :
    (let d : Word := 0x0010000800120000#64
     let base := (d.extractLsb' 0 18).toNat
     let sinks := (d.extractLsb' 18 14).toNat
     let ring := (d.extractLsb' 32 16).toNat
     let size := 8 * (d.extractLsb' 48 8).toNat
     d.extractLsb' 56 8 = 0#8 ∧ base % 8 = 0 ∧ ring ≠ 0 ∧ 16 ≤ size ∧ 3 < sinks ∧ sinks ≤ 4 ∧ base + size * (sinks + (11 - sinks) % ring) + size ≤ 0x40000)
    ∧ (zk 21 0).quiet ∧ (zk 21 0).cur.dev < 2 ^ 30 ∧ (zk 21 0).cur.vcn < 8192 ∧ (zk 21 0).poisoned (lsLoc 0 0 0x20280) 8 = false := by
  unfold State.quiet State.atRest State.seated; decide +kernel

/-- Sends: a target word for core 5, a record at 0x40, a free entry and room. -/
theorem test_hyp_Sends :
    (let s := zx 5 0x40 0 0
     let t := s.thread.getX 1
     s.quiet ∧ s.thread.sending = none ∧ s.here.freeEntry = some 0 ∧ s.here.inbox.length + s.here.resv < (s.here.inbase.extractLsb' 0 9).toNat
       ∧ wellTargeted t ∧ t.getLsbD 31 = false ∧ (s.thread.getX 2).toNat % 64 = 0
       ∧ (s.thread.getX 2).toNat + 64 ≤ 0x40000 ∧ s.poisoned (lsLoc 0 0 0x40) 64 = false)
    ∧ z.thread.fork = none ∧ (8#64).toNat % 64 ≠ 0 ∧ (0x40000#64).toNat % 64 = 0 ∧ 0x40000 < (0x40000#64).toNat + 64 := by
  unfold State.quiet State.atRest State.seated wellTargeted; decide +kernel

/-- Sends: no place in the inbox, no journal entry; a target on a peer of the domain that is down, one outside the domain, the idle core's
number, malformed targets, and victims at the end of the range and beyond it. -/
theorem test_hyp_SendWaits :
    (let s := zx 5 0x40 0 0
     let full := s.onCore fun k => { k with inbase := 0 }
     let taken := s.onCore fun k => { k with journal := (List.range 64).map fun i => (i, entry 5) }
     full.quiet ∧ full.thread.sending = none ∧ ¬ full.here.inbox.length + full.here.resv < (full.here.inbase.extractLsb' 0 9).toNat
     ∧ taken.quiet ∧ taken.here.freeEntry = none)
    ∧ (let t : Word := 0x80080005#64
       let s := (zx t 0x40 0 0).onDevice fun v => { v with down := [1], flash := { v.flash with cfg := { v.flash.cfg with ex := 2 } } }
       wellTargeted t ∧ t.getLsbD 31 = true ∧ targetDevice 0 t = 1 ∧ s.inDomain 0 1 = true ∧ 1 ∈ s.device.down ∧ z.inDomain 0 1 = false)
    ∧ wellTargeted 0x1FFF#64 ∧ ¬ wellTargeted (1#64 <<< 32) ∧ ¬ wellTargeted 4608#64 ∧ (4607#64).toNat ≤ 4607 ∧ 4607 < (4608#64).toNat := by
  unfold State.quiet State.atRest State.seated wellTargeted; decide +kernel

/-- DequeAndChannels: a deque with room, one without, one with a record to take; the last channel and the first number beyond. -/
theorem test_hyp_DequeAndChannels :
    (let s := zx 0x40 0x80 0 0
     let full := s.onCore fun k => { k with deqbase := 1, deque := [Rec.zero] }
     s.quiet ∧ (s.thread.getX 1).toNat % 64 = 0 ∧ (s.thread.getX 1).toNat + 64 ≤ 0x40000 ∧ s.poisoned (lsLoc 0 0 0x40) 64 = false
       ∧ s.here.deque.length < (s.here.deqbase.extractLsb' 0 9).toNat ∧ full.quiet
       ∧ (full.here.deqbase.extractLsb' 0 9).toNat ≤ full.here.deque.length ∧ s.here.deque = [] ∧ full.here.deque = [] ++ [Rec.zero]
       ∧ (s.thread.getX 1).toNat ≤ 4607 ∧ (s.thread.getX 2).toNat % 64 = 0 ∧ s.here.dqTick ≠ some s.now
       ∧ (s.onCore fun k => { k with dqTick := some s.now }).here.dqTick = some s.now)
    ∧ (63#64).toNat ≤ 63 ∧ 63 < (64#64).toNat := by
  unfold State.quiet State.atRest State.seated; decide +kernel

/-- The thread of z as a resident context. -/
def zr : State := z.onThread fun c => { c with place := .resident }

/-- TaskCompletions: a resident task whose record asks for a reply, and one that does not; ordered tasks before and after the GVT key. -/
theorem test_hyp_TaskCompletions :
    (let s := zr.onThread fun c => { c with record := { Rec.zero with d0 := 1#64 <<< 62 } }
     zr.quiet ∧ zr.thread.place = .resident ∧ zr.thread.pend = [] ∧ zr.thread.record.d0.getLsbD 62 = false ∧ s.quiet
       ∧ s.thread.record.d0.getLsbD 62 = true ∧ (s.thread.record.d3.extractLsb' 42 12).toNat = s.cur.dev)
    ∧ (let s := (zr.onThread fun c => { c with ordered := true, revocable := true }).onCore fun k =>
         { k with chans := [(0, { Chan.reset with tasks := [⟨Rec.zero, some 0, 0, false, 0, 0, 0, 0, 0, 0, 0, [], (0, false)⟩] })] }
       let early := s.onThread fun c => { c with record := { Rec.zero with d1 := 9 } }
       s.thread.ordered = true ∧ s.thread.revocable = true ∧ s.thread.record.key ≤ s.device.gvtKey ∧ s.here.jubilee = false
       ∧ s.here.tasksBelow s.thread.record.key = [] ∧ (s.here.chan s.thread.chan.toNat).taskOf s.cur.cid ≠ none
       ∧ ¬ early.thread.record.key ≤ early.device.gvtKey) := by
  unfold State.quiet State.atRest State.seated; decide +kernel

/-- A record for channel 0 that waits in the inbox, and a channel bound to another context. -/
def zi : State := (zx 0x40 0 0 0).onCore fun k =>
  { k with inbox := [⟨Rec.zero, 0, 0, false, 0, none, none, false⟩], chans := [(0, { Chan.reset with d0 := 1, en := true, bound := some 7 })] }

/-- YieldAndReceive: with and without a candidate's record, free and bound channels. -/
theorem test_hyp_YieldAndReceive :
    (z.candidates z.cur.dev z.cur.vcn (some z.cur.pos)).isEmpty = true ∧ zi.quiet
    ∧ indexOf (fun (q : InRec) => q.waits 0) zi.here.inbox = some 0 ∧ (zi.here.chan 0).isOrd = false ∧ ((zi.thread.getX 1) &&& ~~~63#64).toNat + 64 ≤ 0x40000
    ∧ zi.cur.dev < 2 ^ 30 ∧ zi.cur.vcn < 8192 ∧ indexOf (fun (q : InRec) => q.waits 1) zi.here.inbox = none ∧ (zi.here.chan 1).bound = none
    ∧ indexOf (fun (q : InRec) => q.waits 0) (zi.onCore fun k => { k with inbox := [] }).here.inbox = none
    ∧ (zi.here.chan 0).bound ≠ none ∧ (zi.here.chan 0).bound ≠ some zi.cur.cid := by
  unfold State.quiet State.atRest State.seated; decide +kernel

/-- A fork descriptor at 0x40: no work, grain 1, scope cluster, the join cell at VA 0x20000 in HBM. -/
def zf : State :=
  ((((paged (zx 0x40 0 0 0)).writeWord (lsLoc 0 0 0x50) 0x0000000200000001#64).writeWord (lsLoc 0 0 0x58) 0x20000#64))

/-- ForkAndJoin: the start of a FORKR, its wait and its end. -/
theorem test_hyp_ForkResults : zf.quiet ∧ zf.fullAll [.x 1, .x 2] ∧ zf.thread.fork = none ∧ zf.poisoned (lsLoc 0 0 0x40) 64 = false
    ∧ (zf.readWord (lsLoc 0 0 0x40)).extractLsb' 60 4 = 0#4 ∧ (zf.readWord (lsLoc 0 0 0x40)).extractLsb' 54 6 ≠ 63#6
    ∧ zf.readWord (lsLoc 0 0 0x48) = 0 ∧ (zf.readWord (lsLoc 0 0 0x50)).extractLsb' 0 32 ≠ 0#32
    ∧ (zf.readWord (lsLoc 0 0 0x50)).extractLsb' 32 3 = 2#3 ∧ (zf.readWord (lsLoc 0 0 0x50)).extractLsb' 35 29 = 0#29
    ∧ zf.readWord (lsLoc 0 0 0x70) = 0 ∧ zf.readWord (lsLoc 0 0 0x78) = 0 ∧ zf.here.freeEntry = some 0
    ∧ zf.farPlace (0#8 ++ zf.readWord (lsLoc 0 0 0x58)) .write 8 ⟨hbmLoc 0 0x20000, true⟩ := by
  unfold State.quiet State.atRest State.seated State.fullAll State.farPlace
  simp only [← okIs_iff]
  decide +kernel

theorem test_hyp_ForkEnd : (zf.onThread fun c => { c with fork := some ⟨[], 0, 5⟩ }).thread.fork = some ⟨[], 0, 5⟩
    ∧ (zf.onThread fun c => { c with fork := some ⟨[], 1, 5⟩ }).thread.fork = some ⟨[], 0 + 1, 5⟩
    ∧ (zf.onThread fun c => { c with fork := some ⟨[], 1, 5⟩ }).unacked .dv = false := by decide +kernel

/-- zo as a resident context, with the word at its place as given. -/
def zj (w : Word) : State := (zo.onThread fun c => { c with place := .resident }).writeWord (lsLoc 0 0 0x100) w

/-- ForkAndJoin: join cells of 0, 1 and 2. -/
theorem test_hyp_JoinResults : (zj 2).quiet ∧ (zj 2).thread.place = .resident ∧ (zj 2).thread.pend = []
    ∧ (zj 2).poisoned (lsLoc 0 0 0x100) 8 = false ∧ (zj 0).readWord (lsLoc 0 0 0x100) = 0 ∧ (zj 1).readWord (lsLoc 0 0 0x100) = 1
    ∧ 1 < ((zj 2).readWord (lsLoc 0 0 0x100)).toNat
    ∧ (zj 2).ownPlace (((zj 2).thread.aw[0]) ++ (zj 2).thread.getX 1) .amo 8 ⟨lsLoc 0 0 0x100, true⟩ := by
  unfold State.quiet State.atRest State.seated State.ownPlace
  simp only [← okIs_iff]
  decide +kernel

/-- A barrier of 2 parties in phase 4 with one arrival, bound by combiner 1, and the thread's arrival in a phase. -/
def zb (ph : Option (BitVec 13)) (arr : BitVec 23) : State :=
  ((zj (BarWord.word ⟨3, 4, false, 2, false, arr⟩)).onCore fun k => { k with comb := [(1, (0x80#8 ++ 0x100#64, 3#3))] }).onThread fun c =>
    { c with arrival := ph.map fun p => ⟨0x80#8 ++ 0x100#64, p⟩ }

/-- BarriersAndPuts: an arrival before and at the last party, waits for an open and a completed phase, a drop, and a registration. -/
theorem test_hyp_BarrierResults :
    (let va : VA := (zb none 0).thread.aw[0] ++ (zb none 0).thread.getX 1
     let w := fun (s : State) => BarWord.of (s.readWord (lsLoc 0 0 0x100))
     (zb none 0).quiet ∧ (zb none 0).here.combiner va = some (1, 3) ∧ (zb none 0).thread.arrival = none
     ∧ ((w (zb none 0)).arr + 1).toNat < (w (zb none 0)).count.toNat ∧ (w (zb none 1)).count.toNat ≤ ((w (zb none 1)).arr + 1).toNat
     ∧ (zb (some 3) 0).thread.arrival = some ⟨va, 3⟩ ∧ (w (zb (some 3) 0)).phase = 3 + 1 ∧ (w (zb (some 4) 0)).phase = 4
     ∧ zo.here.combiner va = none ∧ zo.here.freeComb = some 0
     ∧ (0x0000000003000002#64).extractLsb' 23 41 = 0x6#41 ∧ (0x0000000003000002#64).extractLsb' 0 23 ≠ 0#23) := by
  unfold State.quiet State.atRest State.seated; decide +kernel

theorem test_hyp_BarrierPlace : (zb none 0).ownPlace (((zb none 0).thread.aw[0]) ++ (zb none 0).thread.getX 1) .amo 8 ⟨lsLoc 0 0 0x100, true⟩ :=
  ⟨by decide +kernel, okIs_eq (by decide +kernel), by decide +kernel⟩

/-- BarriersAndPuts: an empty link to the east, and one with eight fills. -/
theorem test_hyp_NeighbourPuts : z.quiet ∧ z.cur.vcn < 4608 ∧ z.linkLoad 0 1 .e < 8
    ∧ 8 ≤ ({ z with net := List.replicate 8 (.nfill 0 1 .e 0 false 1 0 0 3) } : State).linkLoad 0 1 .e := by
  unfold State.quiet State.atRest State.seated; decide +kernel

/-- WaitsAndWakings: ticks and promises that have and have not come, and parked threads of each kind. -/
theorem test_hyp_TimedWaits : (0#64).toNat ≤ z.device.cycle ∧ z.device.cycle < (1#64).toNat ∧ 95 < ((96#64 <<< 57).extractLsb' 57 7).toNat
    ∧ ((95#64 <<< 57).extractLsb' 57 7).toNat ≤ 95 ∧ (z.device.cycle + 2 ^ 48 - (0#64).toNat % 2 ^ 48) % 2 ^ 48 < 2 ^ 47
    ∧ ¬ (z.device.cycle + 2 ^ 48 - (1#64).toNat % 2 ^ 48) % 2 ^ 48 < 2 ^ 47 ∧ z.thread.split = none := by decide +kernel

theorem test_hyp_Wakings :
    (let s := ((zk 6 0).onThread fun c => { c with wait := some (.again (.key 6) [0x000080AB#32]) }).setPos 0 0 0 ⟨.parked, 0⟩
     s.pos s.cur.dev s.cur.vcn s.cur.pos = ⟨.parked, s.cur.cid⟩ ∧ s.thread.fullX 1 = true ∧ s.thread.split = none
     ∧ s.thread.wait = some (.again (.key 6) (0x000080AB#32 :: [])) ∧ s.thread.fullX ((0x000080AB#32).extractLsb' 7 5) = true
     ∧ (0x000080AB#32).extractLsb' 15 5 = 1#5 ∧ s.here.kmcfg.getLsbD 63 = true ∧ s.here.kfind (s.thread.getX 1) = none
     ∧ s.thread.getX 1 ≠ BitVec.allOnes 64)
    ∧ (let s := ((zx 0 0 0 0).onThread fun c => { c with wait := some (.again (.tick 0) [0x0000A02B#32]) }).setPos 0 0 0 ⟨.parked, 0⟩
       s.thread.wait = some (.again (.tick 0) (0x0000A02B#32 :: [])) ∧ (s.thread.getX 1).toNat ≤ s.device.cycle)
    ∧ (let s := ((zx 0 0 0 0).onThread fun c => { c with wait := some (.again (.promise 0) [0x0000A02B#32]) }).setPos 0 0 0 ⟨.parked, 0⟩
       s.thread.wait = some (.again (.promise 0) (0x0000A02B#32 :: [])) ∧ ((s.thread.getX 1).extractLsb' 57 7).toNat ≤ 95) := by decide +kernel

/-- ViewRequests: a FRESH header of version 5 and a poisoned one at zo's place, versions below and above, and the place of a descriptor. -/
theorem test_hyp_ViewRequests :
    (let f := zj 0x0000100000000005#64
     let p := zj 0x0012300000000005#64
     let b := zj 0x0000200000000005#64
     let h := fun (s : State) => s.readWord (lsLoc 0 0 0x100)
     f.quiet ∧ p.quiet ∧ f.poisoned (lsLoc 0 0 0x100) 8 = false ∧ (h f).extractLsb' 41 2 = 0#2 ∧ (h p).extractLsb' 41 2 ≠ 3#2
     ∧ ((h f).extractLsb' 44 4).toNat = 1 ∧ ((h p).extractLsb' 44 4).toNat = 3 ∧ ((h b).extractLsb' 44 4).toNat = 2 ∧ b.quiet ∧ 5 ≤ ((h f).extractLsb' 0 40).toNat
     ∧ ((h f).extractLsb' 0 40).toNat < 6 ∧ ((0x80#8 ++ 0x100#64 : VA)).toNat % 64 = 0
     ∧ okIs (f.resolveAt 0 f.issuer (0x80#8 ++ 0x100#64) .readOnly 8 false) ⟨lsLoc 0 0 0x100, true⟩ = true
     ∧ okIs (p.resolveAt 0 p.issuer (0x80#8 ++ 0x100#64) .readOnly 8 false) ⟨lsLoc 0 0 0x100, true⟩ = true) := by
  unfold State.quiet State.atRest State.seated; decide +kernel

/-- VectorIntegerResults, VectorFloatResults, LanesAndTrees, Conversions: types of both kinds, an empty queue, indexes at the last lane and
beyond it, and conversions with even and odd registers. -/
theorem test_hyp_Vectors : z.here.vqFull = false ∧ VTy.i8.isFloat = false ∧ VTy.f32.isFloat = true ∧ (1#2 : MReg) ≠ 0#2
    ∧ (31#64).toNat < VTy.f32.lanes ∧ VTy.f32.lanes ≤ (32#64).toNat ∧ vcvtOk .f32 .bf16 = true ∧ vcvtOk .bf16 .f32 = true
    ∧ (VTy.bf16.width ≤ VTy.f32.width ∧ (4#4 : VReg).toNat % 2 = 0) ∧ ¬ (VTy.f32.width ≤ VTy.bf16.width ∨ (5#4 : VReg).toNat % 2 = 0) := by
  decide +kernel

/-- FloatRounding: the value 1, a signalling and a quiet NaN, and the code of 1. -/
theorem test_hyp_FloatRounding : 0 < (⟨false, 1, 0⟩ : Ex).n ∧ (FVal.nan false).snan = false ∧ 0x3F800000 < 2 ^ (fp32.signBit + 1)
    ∧ (∃ x, fp32.decode 0x3F800000 = .fin x) := ⟨by decide, rfl, by decide, _, rfl⟩

/-- Local storage through window 0, with lane i of v2 at 8·i and every lane enabled. -/
def zv : State := zo.onThread fun c => c.setV 2 (BitVec.ofNat 1024 ((List.range 16).foldl (fun a i => a + 8 * i * 2 ^ (64 * i)) 0))

/-- The place of lane i. -/
def place (i : Nat) : Target := ⟨lsLoc 0 0 (0x100 + 8 * i), true⟩

/-- VectorMemory: 16 dwords from an aligned VA, a VA that is not aligned and one too near the end of its 64 KiB, and 16 offset lanes. -/
theorem test_hyp_VectorMemory : zv.quiet ∧ zv.thread.sent = 0 ∧ zv.here.vqFull = false
    ∧ (let va : VA := zv.thread.aw[0] ++ zv.thread.getX 1
       va.toNat % 8 = 0 ∧ va.toNat % 2 ^ 16 + 128 ≤ 2 ^ 16
         ∧ (∀ i < 16, isOwn zv.cur.dev zv.cur.vcn ((place 0).loc + 8 * i) = true ∧ zv.poisoned ((place 0).loc + 8 * i) 8 = false)
         ∧ okIs (zv.resolveAt zv.cur.dev zv.issuer va .readOnly 8 false) (place 0) = true
         ∧ okIs (zv.resolveAt zv.cur.dev zv.issuer va .writeOnly 8 false) (place 0) = true)
    ∧ (0x80#8 ++ 0x104#64 : VA).toNat % 8 ≠ 0 ∧ 2 ^ 16 < (0x80#8 ++ 0xFF88#64 : VA).toNat % 2 ^ 16 + 128 := by
  unfold State.quiet State.atRest State.seated; decide +kernel

theorem test_hyp_VectorLanes : ∀ i < 16,
    (let va : VA := zv.thread.aw[0] ++ (zv.thread.getX 1 + ((zv.thread.getV 2).extractLsb' (64 * i) 64).signExtend 64)
     va.toNat % 8 = 0 ∧ okIs (zv.resolveAt zv.cur.dev zv.issuer va .readOnly 8 false) (place i) = true
       ∧ okIs (zv.resolveAt zv.cur.dev zv.issuer va .writeOnly 8 false) (place i) = true
       ∧ isOwn zv.cur.dev zv.cur.vcn (place i).loc = true ∧ zv.poisoned (place i).loc 8 = false
       ∧ ∀ j < 16, i ≠ j → (place i).loc + 8 ≤ (place j).loc ∨ (place j).loc + 8 ≤ (place i).loc) := by decide +kernel

/-- BlockFormats: the codes at the ends of each clause's range, and the last record offset. -/
theorem test_hyp_BlockFormats :
    (let f := fun (n : BitVec 4) => (((zx 0 0 0 0).onThread fun c => { c with fmt := n.setWidth 64 <<< 24 }).thread.fmt.extractLsb' 24 4).toNat
     f 2 < 3 ∧ f 3 = 3 ∧ f 9 = 9 ∧ f 10 = 10 ∧ 10 < f 11) ∧ (0x3FBC0#64).toNat % 64 = 0 ∧ (0x3F7C0#64).toNat % 64 = 0
    ∧ (0x3F7C0#64).toNat + 64 + 128 * 8 ≤ 0x40000 := by decide +kernel

/-- QuantisedBlocks: a block of zeros, and one whose largest value is 100, with the exponents of their scales; the first largest element. -/
theorem test_hyp_ScaleOf : scaleOf 8 (List.replicate 32 FVal.zero) (-127) false
    ∧ scaleOf 8 (fp32.decode 0x42C80000 :: List.replicate 31 FVal.zero) (-2) false := by
  have zero : ∀ {n k}, ¬ (∃ y : Ex, FVal.fin y ∈ List.replicate n FVal.zero ∧ y.n ≠ 0 ∧ y.e + Nat.log2 y.n = k) := by
    rintro n k ⟨y, hy, hn, -⟩
    have e := List.eq_of_mem_replicate hy
    injection e with e
    exact hn (e ▸ rfl)
  refine ⟨⟨fun _ => ⟨rfl, rfl⟩, fun k hk => absurd hk.1 zero⟩, ?_⟩
  have d : fp32.decode 0x42C80000 = .fin ⟨false, 0xC80000, -17⟩ := by decide +kernel
  rw [d]
  have top : ∀ {k}, topLog (.fin ⟨false, 0xC80000, -17⟩ :: List.replicate 31 FVal.zero) k → k = 6 := by
    rintro k ⟨⟨y, hy, hn, rfl⟩, -⟩
    cases List.mem_cons.1 hy with
    | inl e => injection e with e; subst e; decide +kernel
    | inr e => exact absurd ⟨y, e, hn, rfl⟩ zero
  have six : topLog (.fin ⟨false, 0xC80000, -17⟩ :: List.replicate 31 FVal.zero) 6 := by
    refine ⟨⟨_, List.mem_cons_self, by decide, by decide +kernel⟩, fun y hy hn => ?_⟩
    cases List.mem_cons.1 hy with
    | inl e => injection e with e; subst e; decide +kernel
    | inr e => exact absurd ⟨y, e, hn, rfl⟩ zero
  exact ⟨fun h => absurd six (h 6), fun k hk => by rw [top hk]; decide⟩

theorem test_hyp_LargestElement : (let l := fp32.decode 0x42C80000 :: List.replicate 31 FVal.zero
     l.length = 32 ∧ l[0]? = some (.fin ⟨false, 0xC80000, -17⟩) ∧ (∀ k < 32, FVal.absLess (.fin ⟨false, 0xC80000, -17⟩) (l.getD k FVal.zero) = false)
     ∧ (l.eraseIdx 0).any (fun v => v.log?.isSome) = false) ∧ (126 : Nat) < 255 ∧ ¬ ((126 : Int) - 127 < -6) := by decide +kernel

/-- UnitCompletions: a record of E4M3 columns that is empty, full, and poisoned, and the last place of one. -/
theorem test_hyp_Appends :
    (let s := fun (h : Word) (p : List Nat) => (z.onCore fun k => { k with vq := [.vqapp 0 0 0x100 3] }).writeWord (lsLoc 0 0 0x100) h |> fun s =>
       { s with poison := p }
     (s 0 []).here.vq = .vqapp 0 0 0x100 3 :: [] ∧ (s 0 []).waiters = [] ∧ (s 0 []).canonical = true ∧ 3 ≤ (3#4).toNat ∧ (3#4).toNat ≤ 9
     ∧ 0x100 % 64 = 0 ∧ 0x3FBC0 + 64 + 128 * 8 = 0x40000 ∧ (s 0 []).poisoned (lsLoc 0 0 0x100) (64 + 128 * 8) = false
     ∧ 32 ≤ ((s 32 []).readWord (lsLoc 0 0 0x100)).toNat ∧ ((s 31 []).readWord (lsLoc 0 0 0x100)).toNat < 32
     ∧ (s 0 [lsLoc 0 0 0x100]).poisoned (lsLoc 0 0 0x100) (64 + 128 * 8) = true
     ∧ (z.modCtx 0 0 fun c => { c with place := .resident, wait := some (.reply 0 .none) }).thread.wait = some (.reply 0 .none)) := by decide +kernel

/-- A tile command without operands in the completions, and a vector result in the queue. -/
theorem test_hyp_UnitCompletions :
    (let s := z.onCore fun k => { k with vq := [.result 0 3 9 1 Counts.satOnce], mdone := [⟨0, true, 5, .mma, 0, Counts.satOnce⟩] }
     s.here.vq = .result 0 3 9 1 Counts.satOnce :: [] ∧ s.here.mdone = ⟨0, true, 5, .mma, 0, Counts.satOnce⟩ :: [] ∧ 0 ≠ noCid)
    ∧ crossing 0 (1#64 ||| 1#64 <<< 32) Counts.satOnce ≠ none := by decide +kernel

/-- TilePushes: every operand inside local storage; one unaligned; one too long; budgets of each kind. -/
theorem test_hyp_TilePushes :
    (let s := zx 0x100 0 0 0
     let ok := fun (p : Nat × Nat × Nat) => p.1 % p.2.1 = 0 ∧ p.1 + p.2.2 ≤ 0x40000
     let ops := fun (x : State) => (x.thread.resolveTile 0 .maccld cmd).operands
     s.here.counting s.cur.cid = false ∧ s.thread.mcp = none ∧ cmd.shadow = false ∧ s.here.mq.length < 2
     ∧ (∀ p ∈ ops s, ok p) ∧ (s.here.erefill.extractLsb' 0 32).toNat = 0
     ∧ ops (zx 1 0 0 0) = [] ++ (1, 8, 14336) :: [] ∧ 1 % 8 ≠ 0
     ∧ ops (zx 0x40000 0 0 0) = [] ++ (0x40000, 8, 14336) :: [] ∧ 0x40000 % 8 = 0 ∧ 0x40000 < 0x40000 + 14336) := by decide +kernel

theorem test_hyp_TileEnergy :
    (let s := (zx 0x100 0 0 0).onCore fun k => { k with erefill := 100000 }
     let cost := 2 ^ cmd.ec.toNat * (s.thread.resolveTile 0 .maccld cmd).occ
     cost ≤ (s.here.erefill.extractLsb' 0 32).toNat ∧ cost ≤ ((s.onThread fun c => { c with ebudget := 99999 }).thread.ebudget.extractLsb' 0 32).toNat)
    ∧ (let s := ((zx 0x100 0 0 0).onCore fun k => { k with erefill := 1 }).onThread fun c => { c with ebudget := 1 }
       (s.here.erefill.extractLsb' 0 32).toNat < 2 ^ cmd.ec.toNat * (s.thread.resolveTile 0 .maccld cmd).occ
         ∧ (s.thread.ebudget.extractLsb' 0 32).toNat = (s.here.erefill.extractLsb' 0 32).toNat) := by decide +kernel

/-- MatrixArithmetic: a command at the head of the queue, of each kind the clauses name, and the ends of round96's ranges. -/
theorem test_hyp_MatrixArithmetic :
    (let j := fun (op : TileOp) => { z.thread.resolveTile 0 op { cmd with kb := 1 } with op := op }
     (∀ op ∈ [TileOp.mzero, .maccld, .mmaz, .mma], (z.onCore fun k => { k with mq := [.tile (j op)] }).here.mq = .tile (j op) :: []
       ∧ (j op).op = op ∧ 1 ≤ (j op).pa ∧ 1 ≤ (j op).pb ∧ (j op).kb = 1)
     ∧ z.here.accBad = [] ∧ z.poison = [] ∧ rising (z.here.acc.map (·.1)) = true ∧ z.cur.part = [] ∧ z.waiters = [] ∧ z.canonical = true)
    ∧ (let ok := fun (c : TileCmd) (op : TileOp) => (let j := (zx 0x100 0 0 0).thread.resolveTile 0 op c
         j.stores = [] ∧ j.split = false ∧ j.got = [] ∧ j.out = none ∧ ∀ p ∈ j.operands, p.1 % p.2.1 = 0 ∧ p.1 + p.2.2 ≤ 0x40000)
       ok { cmd with kb := 1, off2 := 0x80 } .mma ∧ ok { cmd with ofmt := 12 } .maccst ∧ ok { cmd with ifmt := 3, off2 := 0x400 } .mxpose
       ∧ elemBits 3 = 8 * 1 ∧ elemBits 0 = 8 * 4 ∧ ok { cmd with pm1 := 3, off2 := 0x400, off3 := 0x200 } .mpack ∧ 0x100 + 128 * 4 ≤ 0x100 + 0x200)
    ∧ ((1 : Int) ≠ 0 ∧ -(2 ^ 95 : Int) ≤ -(2 ^ 95) ∧ (2 ^ 95 - 1 : Int) < 2 ^ 95 ∧ (-32000 : Int) ≤ -32000 ∧ (32000 : Int) ≤ 32000) := by
  decide +kernel

/-- AccumulatorRows: the last visible core and the first engine hart, the last row and the first number beyond. -/
theorem test_hyp_AccumulatorRows : z.cur.vcn < 4608 ∧ 4608 ≤ ({ z with cur := { z.cur with vcn := 4608 } } : State).cur.vcn
    ∧ (zx 31 0 0 0).fullAll [.x 1, .v 3] ∧ ((zx 31 0 0 0).thread.getX 1).toNat ≤ 31 ∧ 31 < ((zx 32 0 0 0).thread.getX 1).toNat
    ∧ (zx 31 0 0 0).here.mq.length < 2
    ∧ 2 ≤ ((zx 31 0 0 0).onCore fun k => { k with mq := List.replicate 2 (.mova 0 .f32 0 0 0) }).here.mq.length := by
  unfold State.fullAll; decide +kernel

/-- A supervisor with the page of paged, x1 and x2 as given. -/
def zs (a b : Word) : State := paged ((zx a b 0 0).onThread fun c => { c with sup := true })

/-- zs with journal entry 63 of another context, open or refused. -/
def zsj (a b : Word) (ref : Option Nat) : State := (zs a b).onCore fun k => { k with journal := [(63, { entry 5 with ref := ref })] }

/-- ContextSaves: malformed descriptors, JRETIRE and JREAD of entry 63 free, open and refused, and the far place of an area. -/
theorem test_hyp_ContextSaves : (zs 0 0x20000).thread.sup = true ∧ (zs 0 0x20000).quiet ∧ (zs 0 0x20000).thread.sent = 0
    ∧ (zs 0 0x20000).fullAll [.x 1, .x 2, .x 5] ∧ (1#64 <<< 22).extractLsb' 22 42 ≠ 0#42 ∧ (0#64).toNat = (zs 0 0).cur.pos
    ∧ Table.find (zs 0 0).here.journal 63 = none ∧ (zsj 0 0x20000 none).quiet ∧ (zsj 0 0x20000 (some 2)).quiet
    ∧ Table.find (zsj 0 0x20000 (some 2)).here.journal 63 = some { entry 5 with ref := some 2 } ∧ (entry 5).kind < 5
    ∧ (∀ k < 8, isOwn 0 0 (hbmLoc 0 0x20000 + 8 * k) = false)
    ∧ 8 ≤ ((List.range 64).filter fun k => (Table.find (zsj 0 0x20000 none).here.journal k).isNone).length
    ∧ okIs ((zsj 0 0x20000 none).resolveAt 0 (zsj 0 0x20000 none).issuer (0x00#8 ++ 0x20000#64) .write 8 false) ⟨hbmLoc 0 0x20000, true⟩ = true := by
  unfold State.quiet State.atRest State.seated State.fullAll; decide +kernel

/-- The outcome of a save is done. -/
def saved (r : SaveRes) : Bool :=
  match r with
  | .done _ => true
  | .fail _ _ _ | .wait => false

theorem saved_iff {r : SaveRes} : saved r = true ↔ ∃ u, r = .done u := by
  cases r <;> simp [saved]

/-- zs with context 9 parked in position 7. -/
def zp (a b : Word) : State := (zs a b).setPos 0 0 7 ⟨.parked, 9⟩

theorem test_hyp_ContextSaves_area : (zp 7 0x20000).quiet ∧ (zp 7 0x20000).pos 0 0 7 = ⟨.parked, 9⟩ ∧ (zp 7 0x20000).busy 0 0 9 = false
    ∧ ((zs 7 0).pos 0 0 7).st = .empty
    ∧ ∃ u, (zp 7 0x20000).saveImage 0 0 (0x00#8 ++ 0x20000#64) (((zp 7 0x20000).ctx 0 9).image 9 true false 0) 48 = .done u := by
  simp only [← saved_iff]
  unfold State.quiet State.atRest State.seated; decide +kernel

/-- YieldAndReceive: a thread whose core has context 77 on its run queue, and whose record can be written. -/
def zy : State := ((zs 0 0).modCtx 0 77 fun c => { c with place := .runq 0 }).onCore fun k => { k with runq := [77] }

theorem test_hyp_Yields : zy.quiet ∧ zy.candidates 0 0 (some zy.cur.pos) ≠ [] ∧ zy.busy 0 0 0 = false ∧ zy.waiters = [] ∧ zy.thread.wait = none
    ∧ ∃ u, zy.retire.saveImage 0 0 (zy.recordVa 0 0 0) (zy.retire.thread.image 0 true false 0) 48 = .done u := by
  simp only [← saved_iff]
  unfold State.quiet State.atRest State.seated; decide +kernel

/-- YieldAndReceive: saves that fault, the tenant having no tables, and that wait for a walk in progress. -/
theorem test_hyp_YieldSaves :
    (let s := zy.onDevice fun v => { v with tlb := [] }
     let t := s.onDevice fun v => { v with walks := [⟨0, 0, 0, [0, 1, 2, 3, 4], some (hbmLoc 0 0x100000), false, [], none⟩] }
     let save := fun (s : State) => s.retire.saveImage 0 0 (s.recordVa 0 0 0) (s.retire.thread.image 0 true false 0) 48
     s.quiet ∧ (match save s with | .fail _ _ _ => true | _ => false) = true ∧ (match save t with | .wait => true | _ => false) = true
     ∧ s.here.supChan = none ∧ (s.onCore fun k => { k with chans := [(0, { Chan.reset with d0 := 5, en := true })] }).here.supChan = some 0) := by
  unfold State.quiet State.atRest State.seated; decide +kernel

/-- ContextSaves: an area that is not a multiple of 64, one outside global space, and a position with vector work. -/
theorem test_hyp_SaveAreas : ((0x00#8 ++ 0x20008#64 : VA).toNat % 64 ≠ 0) ∧ ((0x80#8 ++ 0x20000#64 : VA).getLsbD 71 = true)
    ∧ ((zp 7 0x20000).onCore fun k => { k with vq := [.vqapp 9 0 0 3] }).busy 0 0 9 = true := by decide +kernel

/-- ContextMoves: context 9, SAVED at VA 0x20000, whose image names a wait of that kind for tick 1,000. -/
def zimg (kind : Word) : State :=
  (((zs 0x20000 0).modCtx 0 9 fun x => { x with place := .saved, area := 0x00#8 ++ 0x20000#64 }).writeWord (hbmLoc 0 0x20000)
    0x8000000000000009#64).writeWord (hbmLoc 0 0x20018) (kind <<< 60) |>.writeWord (hbmLoc 0 0x20020) 1000

theorem test_hyp_SavedImages :
    (let s := zimg 0
     let t := zimg 4
     let load := fun (s : State) => s.reqOf 0 (0x00#8 ++ 0x20000#64) (some ⟨hbmLoc 0 0x20000, true⟩) (.load 8 false)
     (s.readWord (s.atPort (hbmLoc 0 0x20000))).getLsbD 63 = true ∧ ((s.readWord (hbmLoc 0 0x20000)).extractLsb' 0 24).toNat = 9
     ∧ s.savedHere 9 (0x00#8 ++ 0x20000#64) = true ∧ s.refusal (load s) (hbmLoc 0 0x20000) = none ∧ s.moveHolds (load s) (hbmLoc 0 0x20000) = none
     ∧ (s.fromImage 0 9).wait = none ∧ (t.fromImage 0 9).wait = some (.again (.tick 1000) []) ∧ t.device.cycle < (1000#64).toNat
     ∧ 9 ≠ s.cur.cid) := by decide +kernel

/-- ContextMoves: an image without V, one of a context that is not SAVED there, and one of context 9 SAVED there. -/
theorem test_hyp_ContextMoves :
    (let s := (zs 0x20000 0).writeWord (hbmLoc 0 0x20000) 0x8000000000000009#64
     let t := s.modCtx 0 9 fun c => { c with place := .saved, area := 0x00#8 ++ 0x20000#64 }
     s.quiet ∧ t.quiet ∧ (0x00#8 ++ 0x20000#64 : VA).toNat % 64 = 0 ∧ (s.readWord (hbmLoc 0 0x20000)).getLsbD 63 = true
     ∧ ((zs 0x20000 0).readWord (hbmLoc 0 0x20000)).getLsbD 63 = false ∧ s.savedHere 9 (0x00#8 ++ 0x20000#64) = false
     ∧ t.savedHere 9 (0x00#8 ++ 0x20000#64) = true ∧ (t.getImage 0 9 24).extractLsb' 60 4 = 0#4
     ∧ okIs (t.resolveAt 0 t.issuer (0x00#8 ++ 0x20000#64) .read 8 false) ⟨hbmLoc 0 0x20000, true⟩ = true) := by
  unfold State.quiet State.atRest State.seated; decide +kernel

/-- ContextMoves: targets that refuse and that take a context, a full table of forwarding entries, and a context that may not move. -/
theorem test_hyp_Migrations :
    (let s := zp 7 5
     let c := s.ctx 0 9
     let fenced := s.modCore 0 5 fun k => { k with fenced := true }
     let full := s.onCore fun k => { k with fwd := List.replicate 16 ⟨1, 2, 1⟩ }
     s.quiet ∧ (s.thread.getX 1).toNat < 8 ∧ (s.thread.getX 2).toNat ≤ 4607 ∧ (s.thread.getX 2).toNat ≠ s.cur.vcn ∧ (s.pos 0 0 7).st = .parked
     ∧ fenced.migrRefused 0 5 c = true ∧ s.migrRefused 0 5 c = false ∧ 16 ≤ full.here.fwd.length ∧ s.here.fwd.length < 16
     ∧ c.pinned = false ∧ ({ c with revocable := true } : Ctx).pinned = true ∧ 8 ≤ (8#64).toNat ∧ 4607 < (4608#64).toNat) := by
  unfold State.quiet State.atRest State.seated; decide +kernel

/-- CachesAndScrubs: descriptors of each kind with the widest scope, lengths 0 and 64 of a SCRUB of own local storage, and marks. -/
theorem test_hyp_CachesAndScrubs :
    (let s := zo.onThread fun c => { c with sup := true }
     s.quiet ∧ s.thread.sup = true ∧ s.thread.sent = 0 ∧ (0x13#64).extractLsb' 16 48 = 0#48 ∧ (0x13#64).extractLsb' 4 2 ≠ 3#2 ∧ ((0x13#64).extractLsb' 0 3).toNat ≤ 3
     ∧ (0x80#8 ++ 0x100#64 : VA).toNat % 64 = 0 ∧ lsLoc 0 0 0x100 % 8 = 0
     ∧ (∀ k < 8, okIs (s.resolveAt 0 s.issuer ((0x80#8 ++ 0x100#64 : VA) + BitVec.ofNat 72 (8 * k)) .writeOnly 8 false) ⟨lsLoc 0 0 0x100 + 8 * k, true⟩ = true
         ∧ isOwn 0 0 (lsLoc 0 0 0x100 + 8 * k) = true)
     ∧ rising (s.devs.map (·.1)) = true
     ∧ (let w := fun (stale : Bool) => [(⟨clusterOf s.cur.vcn, 0, 0, [0], some 0, stale, [], none⟩ : Walk)]
        let walking := fun (l : List Walk) => l.any fun x => x.stale && x.ended.isNone
        walking (w true) = true ∧ walking (w false) = false ∧ ((s.onThread fun c => { c with sent := 1 }).onDevice fun v => { v with walks := w true }).thread.sent = 1)
     ∧ s.here.obs.marking = false ∧ (s.onCore fun k => { k with obs := { k.obs with samp := 1#64 <<< 5, tbuf := 0x20000 } }).here.obs.marking = true) := by
  unfold State.quiet State.atRest State.seated; decide +kernel

/-- A record of SEQ 4 from context 0 of core 0 that waits in an unordered channel of core 2. -/
def waiting : InRec := ⟨{ Rec.zero with d2 := 4#39 ++ 0#12 ++ 0#13 }, 0, 0, false, 0, none, none, false⟩

/-- WithdrawalsAndSteals: handles of a reached core, of an idle core and of a device outside the domain; the request at its target; and the
deques and tenants of a steal. -/
theorem test_hyp_Withdrawals :
    (let h : Word := 4#39 ++ 0#12 ++ 2#13
     let s := ({ zx h 0 0 0 with net := [.cancel z.issuer h] } : State).modCore 0 2 fun k => { k with inbox := [waiting] }
     s.turnDue 0 2 = false ∧ s.turnDue z.issuer.dev z.issuer.vcn = false
     ∧ (s.modCore 0 2 fun k => { k with chans := [(0, { Chan.reset with d0 := 1, en := true })] }).turnDue 0 2 = true
     ∧ s.quiet ∧ (h.extractLsb' 0 13).toNat ≠ 0x1FFF ∧ s.inDomain 0 0 = true ∧ s.reachable 0 0 = true ∧ s.inDomain 0 1 = false
     ∧ s.net[0]? = some (.cancel z.issuer h) ∧ (s.core 0 2).fenced = false ∧ (s.core 0 2).failed = false
     ∧ (s.core 0 2).inbox[0]? = some waiting ∧ waiting.record.seq = (h.extractLsb' 25 39).toNat ∧ waiting.record.sdev = z.issuer.dev
     ∧ waiting.record.svcn = z.issuer.vcn ∧ waiting.mark = none ∧ waiting.trap = false ∧ waiting.record.anti = false
     ∧ waiting.record.reply = false ∧ waiting.ch < 63 ∧ ((s.core 0 2).chan waiting.ch).isOrd = false) := by
  unfold State.quiet State.atRest State.seated; decide +kernel

theorem test_hyp_Steals :
    (let who : Issuer := ⟨0, 0, 0, false, 3⟩
     let s := fun (t : Option Nat) (l : List Rec) (f : Bool) =>
       ({ z with net := [.steal who 2] } : State).modCore 0 2 fun k => { k with tenant := t, deque := l, fenced := f }
     (s none [] false).turnDue 0 2 = false ∧ ((s none [] false).core 0 2).dqTick ≠ some z.device.cycle
     ∧ (((s none [] false).modCore 0 2 fun k => { k with dqTick := some z.device.cycle }).core 0 2).dqTick = some z.device.cycle
     ∧ (s none [] false).net[0]? = some (.steal who 2) ∧ ((s none [] true).core 0 2).fenced = true ∧ ((s none [] false).core 0 2).failed = false
     ∧ ((s none [] false).core 0 2).tenant ≠ some who.tenant ∧ ((s (some 3) [] false).core 0 2).tenant = some who.tenant
     ∧ ((s (some 3) [] false).core 0 2).deque = [] ∧ ((s (some 3) [Rec.zero] false).core 0 2).deque = Rec.zero :: []) := by decide +kernel

/-- HomeServices: a load and a store that core 1 serves for its own tenant, and one that a fence refuses. -/
theorem test_hyp_HomeServices :
    (let r := fun (a : Acc) => (⟨⟨0, 0, 0, true, 0⟩, 0, 0, some (lsLoc 0 1 0x100), true, a, .reply⟩ : Req)
     let s := fun (a : Acc) (f : Bool) => ({ z with net := [.req (r a)] } : State).modCore 0 1 fun k => { k with fenced := f }
     (s (.load 8 false) false).canonical = true ∧ (s (.load 8 false) false).net[0]? = some (.req (r (.load 8 false)))
     ∧ regionOf (lsLoc 0 1 0x100) = .ls ∧ (r (.store 8 5)).route ≠ .nowhere ∧ (s (.load 8 false) true).refusal (r (.load 8 false)) (lsLoc 0 1 0x100) = some 3
     ∧ (∀ a ∈ [Acc.load 8 false, .store 8 5], (s a false).refusal (r a) (lsLoc 0 1 0x100) = none ∧ (s a false).moveHolds (r a) (lsLoc 0 1 0x100) = none)) := by
  decide +kernel

/-- An access of a supervisor to a place of HBM, on its way to its home. -/
def hreq (l : Nat) (a : Acc) : Req := ⟨⟨0, 0, 0, true, 0⟩, 0, 0, some l, true, a, .reply⟩

/-- HomeServices: accesses to HBM that a page move and a full checkpoint log hold back, to an empty and a full word, to the last word of
low-power DRAM, to the CXL tier and to an engine register. -/
theorem test_hyp_HomeForms :
    (let h := hbmLoc 0 0x20000
     let moving := z.modCopy 0 95 fun q => { q with move := some ⟨hbmLoc 0 0x60000, 0x81#64, 0x40001#64, h, 64, hbmLoc 0 0x40000, [], false⟩ }
     let logging := fun (n : Nat) => z.onDevice fun v => { v with chcore := [(channelCore h, ⟨true, 0, 0, [], []⟩)], obs := { v.obs with ckpt := (1#64 <<< 63) ||| BitVec.ofNat 64 (2 ^ 24 * n + 16) } }
     z.refusal (hreq h (.store 8 5)) h = none ∧ (moving.moveHolds (hreq h (.store 8 5)) h).isSome = true ∧ moving.refusal (hreq h (.store 8 5)) h = none
     ∧ ((logging 0).ckpt h).isNone = true ∧ ((logging 1).ckpt h).isSome = true ∧ ((logging 1).ckpt h).any (·.canonical) = true
     ∧ (logging 1).isHeader 0 h = false ∧ (logging 1).isHeader 1 (h + 8) = false ∧ (z.ckpt h).isSome = true
     ∧ z.full h = true ∧ (z.setFull h false).full h = false ∧ z.canonical = true)
    ∧ (∀ l ∈ [hbmLoc 0 0x20000, lpLoc 0 0x20000, tierLoc 0 2 0x20000, engLoc 0 0x200000000], (∀ a ∈ [Acc.load 8 false, .store 8 5, .amo .cas2 1 2 3 4, .red .add 5, .ldfe, .stef 5, .femark false],
        z.refusal (hreq l a) l = none ∧ (z.moveHolds (hreq l a) l).isNone = true) ∧ z.isHeader 0 l = false) := by decide +kernel

/-- Answers: a value and a refusal for a context parked on its reply, an acknowledgement and a refusal of an open entry. -/
theorem test_hyp_Answers :
    (let who : Issuer := ⟨0, 0, 0, false, 0⟩
     let s := fun (a : Ans) => ({ z with net := [.ans 9 who .reply a] } : State).modCtx 0 0 fun c =>
       { c with place := .resident, wait := some (.reply 0x20000 (.reg 5)) }
     let t := fun (a : Ans) => (({ z with net := [.ans 9 who (.journal 63) a] } : State).modCore 0 0 fun k => { k with journal := [(63, entry 0)] }).modCtx 0 0
       fun c => { c with place := .resident }
     (∀ a ∈ [Ans.vals [7], .nack 2], (s a).net[0]? = some (.ans 9 who .reply a) ∧ ((s a).core 0 0).fwd = [] ∧ ((s a).ctx 0 0).place = .resident
       ∧ ((s a).ctx 0 0).wait = some (.reply 0x20000 (.reg 5)))
     ∧ (∀ a ∈ [Ans.vals [], .nack 2], (t a).net[0]? = some (.ans 9 who (.journal 63) a) ∧ Table.find ((t a).core 0 0).journal 63 = some (entry 0)
       ∧ (entry 0).ref = none ∧ (entry 0).kind < 5 ∧ (entry 0).fork = false ∧ rising (((t a).core 0 0).journal.map (·.1)) = true
       ∧ (entry 0).gone = false ∧ (entry 0).jubilee = false ∧ ((t a).ctx 0 0).alive = true ∧ ((t a).ctx 0 0).place.outside = false)) := by decide +kernel

/-- Answers: a context that is SAVED at an area, with an image whose register 5 is empty, and with one whose register is full; one whose
position a save has paused. -/
theorem test_hyp_AnswersAway :
    (let who : Issuer := ⟨0, 0, 0, false, 0⟩
     let s := fun (a : Ans) (f : Word) => (({ paged z with net := [.ans 9 who .reply a] } : State).modCtx 0 0 fun c =>
       { c with place := .saved, area := 0x00#8 ++ 0x20000#64, wait := some (.reply 0x20000 (.reg 5)) }).writeWord (hbmLoc 0 (0x20000 + 2432)) f
     let p := (z.modCtx 0 0 fun c => { c with place := .resident }).modCore 0 (z.ctx 0 0).core fun k => { k with paused := [(z.ctx 0 0).pos] }
     (∀ a ∈ [Ans.vals [7], .nack 2], (s a 0).heldBack 0 0 = false ∧ ((s a 0).ctx 0 0).place.outside = true ∧ ((s a 0).core 0 0).fwd = []
       ∧ ((s a 0).ctx 0 0).wait = some (.reply 0x20000 (.reg 5)) ∧ (s a 0).net[0]? = some (.ans 9 who .reply a) ∧ ((s a 0).ctx 0 0).alive = true)
     ∧ (s (.nack 2) 0).imageEmpty 0 0 false 5 = true ∧ (s (.nack 2) 0x20).imageEmpty 0 0 false 5 = false ∧ p.heldBack 0 0 = true) := by decide +kernel

/-- Answers: the last and an earlier word of a split load, with and without a refused word before it. -/
theorem test_hyp_SplitWordsLand :
    (let who : Issuer := ⟨0, 0, 0, false, 0⟩
     let q := fun (n : Nat) (bad : Option (VA × Nat)) => (⟨3, 0, n, [(0, 0x20000), (8, 0x20008)], bad⟩ : Split)
     let s := fun (n : Nat) (a : Ans) => ({ z with net := [.ans 9 who (.split 8 8 true) a] } : State).modCtx 0 0 fun c => { c with split := some (q n none) }
     (∀ a ∈ [Ans.vals [7], .nack 2], (s 1 a).net[0]? = some (.ans 9 who (.split 8 8 true) a) ∧ ((s 1 a).ctx 0 0).split = some (q 1 none)
       ∧ ((s 1 a).core 0 0).fwd = [])
     ∧ (q 1 none).left = 1 ∧ 1 < (q 2 none).left ∧ (q 1 none).vaAt 8 = 0x20008 ∧ (q 1 (some (0x20000, 3))).bad = some (0x20000, 3)
     ∧ ¬ (q 1 none).vaAt 8 < 0x20000 ∧ (q 1 none).vaAt 0 < 0x20008) := by decide +kernel

/-- Answers: fills of an empty and of a full register, a TRET's fill, and a neighbour's fill. -/
theorem test_hyp_FillsLand :
    (let f := fun (m : Msg) (r : BitVec 32) => ((({ z with net := [m] } : State).modCtx 0 0 fun c => { c with place := .resident, xf := ~~~(1#32 <<< 5), xr := r }).setPos
       0 0 2 ⟨.running, 0⟩)
     (∀ m ∈ [Msg.fill 0 0 0 0 false 5 7 false, .nfill 0 0 .e 2 false 5 7 0 3], (f m 0).net[0]? = some m ∧ ((f m 0).ctx 0 0).place = .resident
       ∧ ((f m 0).ctx 0 0).fullX 5 = false ∧ ((f m 0).ctx 0 0).xr.getLsbD 5 = false ∧ ((f m 0).pos 0 0 2).st ≠ .empty ∧ ((f m 0).pos 0 0 2).cid = 0
       ∧ ((f m 0).ctx 0 0).tenant.toNat = 0 ∧ ((f m 0).core 0 0).fenced = false ∧ (f m 0).heldBack 0 0 = false ∧ ((f m 0).core 0 0).fwd = [])
     ∧ ((f (.fill 0 0 0 0 false 6 7 false) 0).ctx 0 0).fullX 6 = true ∧ ((f (.fill 0 0 0 0 false 5 7 false) (1#32 <<< 5)).ctx 0 0).xr.getLsbD 5 = true
     ∧ (f (.fill 0 0 0 0 false 5 7 true) 0).net[0]? = some (.fill 0 0 0 0 false 5 7 true)
     ∧ (((f (.fill 0 0 0 0 false 5 7 true) (1#32 <<< 5)).modCtx 0 0 fun c => { c with xc := 1#32 <<< 5 }).ctx 0 0).xc.getLsbD 5 = true
     ∧ ((f (.nfill 0 0 .e 3 false 5 7 0 3) 0).pos 0 0 3).st = .empty
     ∧ Msg.onLink 0 0 .e (.nfill 0 0 .e 2 false 5 7 0 3) = true ∧ Msg.onLink 0 0 .e (.nfill 0 0 .w 2 false 5 7 0 3) = false
     ∧ z.device.cycle < 3 ∧ (z.onDevice fun v => { v with cycle := 3 }).device.cycle = 3) := by decide +kernel

/-- A core whose channel 0 is enabled. -/
def open0 (k : Core) : Core := { k with chans := [(0, { Chan.reset with d0 := 1, en := true })] }

/-- A record from core 0 for channel 0 of core 1, or its anti-message. -/
def recMsg (anti : Bool) : RecMsg :=
  ⟨⟨0, 0, 0, true, 0⟩, 0, 1, { Rec.zero with d0 := if anti then 1#64 <<< 61 else 0 }, if anti then .anti else .tsend 4, false, false⟩

/-- RecordArrivals: a record that is accepted, a rollback that has ended, and a bounced record whose time has come. -/
theorem test_hyp_RecordArrivals :
    (let s := ({ z with net := [.record (recMsg false)] } : State).modCore 0 1 open0
     let m := recMsg false
     s.net[0]? = some (.record m) ∧ s.arrivalFault m.dst m.vcn m = none ∧ m.record.anti = false ∧ m.vcn ≠ 0x1FFF ∧ m.kind = .tsend 4 ∧ m.counted = false
     ∧ ((s.core 0 1).chan m.record.chan).bound = none ∧ ((s.core 0 1).chan m.record.chan).isOrd = false ∧ (s.core 0 1).inboxRoom = true)
    ∧ (let s := z.onCore fun k => { k with chans := [(0, { Chan.reset with rollback := some 0 })], bounced := [(recMsg false, 0)] }
       (s.here.chan 0).rollback = some 0 ∧ 0 ≤ s.device.cycle ∧ (s.here.chan 0).straggler = none ∧ (s.here.chan 0).waiting = []
       ∧ s.here.bounced[0]? = some (recMsg false, 0) ∧ s.reachable 0 (recMsg false).dst = true) := by decide +kernel

/-- RecordArrivals: an anti-message whose twin waits in an ordered channel. -/
theorem test_hyp_AntiMessage :
    (let m := recMsg true
     let s := ({ z with net := [.record m] } : State).modCore 0 1 fun k => { k with
       chans := [(0, { Chan.reset with d0 := 3, en := true })], inbox := [⟨Rec.zero, 0, 0, false, 0, none, none, false⟩] }
     s.net[0]? = some (.record m) ∧ s.arrivalFault m.dst m.vcn m = none ∧ m.record.anti = true ∧ ((s.core 0 1).chan m.record.chan).rollback = none
     ∧ (s.core 0 1).twin m.record.chan m.record = some 0) := by decide +kernel

/-- DispatchAndEviction: an EMPTY position without a candidate, and with a record of channel 0 to take. -/
theorem test_hyp_Dispatches :
    (z.pos z.cur.dev z.cur.vcn z.cur.pos).st = .empty ∧ chooseFrom z.here.rr.toNat (z.candidates 0 0 (some 0)) = none
    ∧ (let r : InRec := ⟨Rec.zero, 0, 0, false, 0, none, none, false⟩
       let s := z.onCore fun k => { open0 k with inbox := [r] }
       chooseFrom s.here.rr.toNat (s.candidates 0 0 (some 0)) = some (.record 0 0) ∧ s.here.inbox[0]? = some r ∧ s.freeCid 0 0 = some 0 ∧ r.trap = false
       ∧ s.here.tenant = none) := by decide +kernel

/-- Eight parked contexts, a record that waits, pages to save to, and a limit that position 0 has passed. -/
def zev : State :=
  ((List.range 8).foldl (fun s p => (s.setPos 0 0 p ⟨.parked, p⟩).modCtx 0 p fun c => { c with place := .resident, parkedAt := p }) (paged z)).onCore
    (fun k => { open0 k with inbox := [⟨Rec.zero, 0, 0, false, 0, none, none, false⟩], vigmax := 5, ctxbase := 0x20000 }) |>.onDevice fun v => { v with cycle := 1400 }

theorem test_hyp_Evictions : zev.victim 0 0 = some 0 ∧ (zev.pos 0 0 0).cid = 0 ∧ zev.busy 0 0 0 = false ∧ (zev.ctx 0 0).onBudget = false
    ∧ (∃ u, zev.saveImage 0 0 (zev.recordVa 0 0 0) (zev.imageOf 0 0) 48 = .done u) ∧ zev.device.cycle % 1400 = 0
    ∧ (let s := z.modCtx 0 3 fun c => { c with place := .evicted, wait := some (.again (.tick 0) []) }
       (s.ctx 0 3).place = .evicted ∧ s.waitOver 0 3 = true) := by
  simp only [← saved_iff]
  decide +kernel

/-- A device on which one context waits at an empty register, and nothing else. -/
def zdead : State := (z.setPos 0 0 0 ⟨.parked, 0⟩).modCtx 0 0 fun c =>
  { c with place := .resident, wait := some (.again (.reg 5) [0x00028293#32]), xf := ~~~(1#32 <<< 5) }

theorem zdead_pos (n q : Nat) : (n = 0 ∧ q = 0) ∨ zdead.pos 0 n q = Pos.reset := by
  have h : zdead.poss = [(0, ⟨.parked, 0⟩)] := rfl
  have k : posKey 0 n q = n * 8 + q := by simp [posKey, coreKey]
  rcases Nat.eq_zero_or_pos (n * 8 + q) with e | e
  · omega
  · right
    have e' : ¬ 0 = n * 8 + q := by omega
    simp only [State.pos, h, k, Table.find, Nat.not_lt_zero, if_false, e', Option.getD_none]

/-- Deadlocks: that device meets the conditions, its lowest occupied position being position 0 of VCN 0; the state after reset has no occupied
position. -/
theorem test_hyp_Deadlocks : rising (zdead.poss.map (·.1)) = true ∧ atDeadlock zdead 0 ∧ lowestOccupied zdead 0 0 0
    ∧ ∀ n q, z.pos 0 n q = Pos.reset := by
  have p0 : (zdead.pos 0 0 0).st = .parked ∧ zdead.stuck 0 0 (zdead.pos 0 0 0).cid = true ∧ zdead.wakes 0 0 0 zdead.device.cycle = false := by
    decide +kernel
  have core (n : Nat) : zdead.core 0 n = Core.reset := rfl
  refine ⟨rfl, ⟨fun n _ => ⟨fun p _ => ?_, ?_, ?_⟩, ?_⟩, ⟨by decide, by decide, by decide +kernel, fun n _ q _ h => ?_⟩, fun _ _ => rfl⟩
  · rcases zdead_pos n p with ⟨rfl, rfl⟩ | e
    · exact .inr p0
    · exact .inl (by rw [e]; rfl)
  · rw [core]; decide +kernel
  · rw [core]; rfl
  · decide +kernel
  · rcases zdead_pos n q with ⟨rfl, rfl⟩ | e
    · omega
    · rw [e]; rfl

/-- VirtualTime: a tick that starts a round, passes of each kind, and jubilees with and without a task. -/
theorem test_hyp_VirtualTime :
    (let o := fun (f : Core → Core) => (z.onCore f).onDevice fun v => { v with round := some ⟨false, [0], 0⟩ }
     z.roundOf 0 = [0] ∧ z.device.round = none ∧ z.device.cycle % max 1 (z.gvtPeriod 0) = 0
     ∧ (o id).device.round = some ⟨false, [0], 0⟩
     ∧ (((o fun k => { k with min1 := 5 }).coresOf 0).flatMap fun k => k.reported true).foldl min keyTop = 5 ∧ (o id).device.gvtKey < 5 ∧ 5 ≠ keyTop
     ∧ (((o id).coresOf 0).flatMap fun k => k.reported true).foldl min keyTop = keyTop
     ∧ ((o fun k => { k with sent0 := 1 }).coresOf 0).foldl (fun a k => a + k.recv0) 0 ≠ ((o fun k => { k with sent0 := 1 }).coresOf 0).foldl (fun a k => a + k.sent0) 0)
    ∧ (let t : OTask := ⟨Rec.zero, none, 0, false, 0, 0, 0, 0, 0, 0, 0, [], (0, false)⟩
       let s := z.onCore fun k => { k with jubilee := true }
       let u := (z.onCore fun k => { k with jubilee := true, chans := [(0, { Chan.reset with tasks := [t] })] }).onDevice fun v => { v with gvtKey := 2 ^ 70 }
       s.here.jubilee = true ∧ s.here.lowestTask s.device.gvtKey = none ∧ u.here.lowestTask u.device.gvtKey = some (0, t) ∧ t.nDef ≤ t.done
         ∧ (u.coresOf 0).flatMap (fun k => k.chans.flatMap fun p => (p.2.tasks.filter fun t => t.cid.isNone).map (·.record.key)) = [0]
         ∧ (z.device.gvtKey < 1 ∧ 0 + 1 < keyTop)) := by decide +kernel

/-- The value of an engine's access, and the state of one that writes. -/
def gotIs (g : Got Nat) (v : Nat) : Bool :=
  match g with
  | .ok w => decide (w = v)
  | _ => false

theorem gotIs_eq {g : Got Nat} {v : Nat} (h : gotIs g v = true) : g = .ok v := by
  cases g with
  | ok w => exact congrArg _ (of_decide_eq_true h)
  | fault _ _ => cases h
  | wait => cases h

def gotAny (g : Got State) : Bool :=
  match g with
  | .ok _ => true
  | _ => false

theorem gotAny_ok {g : Got State} (h : gotAny g = true) : ∃ u, g = .ok u := by
  cases g with
  | ok u => exact ⟨u, rfl⟩
  | fault _ _ => cases h
  | wait => cases h

/-- A copy command of a supervisor: type, dwords 2, 3 and 4; from 0x20000 to 0x30000 (DEAL: to local storage), index list at 0x28000. -/
def ccmd (ty : Nat) (d2 d3 d4 : Word) : CopyCmd :=
  ⟨⟨0, 0, 0, true, 0⟩, [BitVec.ofNat 64 ty, 0, d2, d3, d4, 0, 0, 0], 0x20000, if ty = 1 then 0x80#8 ++ 0x100#64 else 0x30000, 0, 0, 0x28000, 0, 8⟩

/-- zt with that command at the head of copy hart 95's queue. -/
def zc (c : CopyCmd) : State := zt.onDevice fun v => { v with copy := [(95, { CopyHart.reset with queue := [c] })] }

theorem test_hyp_runs (ty : Nat) (h : ty < 8) (d2 d3 d4 : Word) : runs (zc (ccmd ty d2 d3 d4)) 95 (ccmd ty d2 d3 d4) [] ty
    ∧ goesOn (zc (ccmd ty d2 d3 d4)) 95 ∧ (zc (ccmd ty d2 d3 d4)).cur.part = [] := by
  refine ⟨⟨rfl, by decide, rfl, ?_⟩, ⟨rfl, rfl⟩, rfl⟩
  match ty, h with
  | 0, _ | 1, _ | 2, _ | 3, _ | 4, _ | 5, _ | 6, _ | 7, _ => rfl

/-- zc with the hart changed. -/
def zq (c : CopyCmd) (f : CopyHart → CopyHart) : State := (zc c).modCopy 0 95 f

/-- A COPY with a mailbox and a barrier, and one whose mailbox no page holds. -/
def cmail (mb : VA) : CopyCmd := { ccmd 0 0 8 0 with mb := mb, bar := 0x26000 }

/-- A translation fault, not a walk that is held. -/
def faults (e : Except VaFault Target) : Bool :=
  match e with
  | .ok _ => false
  | .error f => decide (f ≠ walkHeld)

/-- CommandCompletion: the events of each type; an answer to come; a command that stopped at byte 8; and the stages of a completion with and
without mailbox and barrier. -/
theorem test_hyp_CommandCompletion :
    (let c := cmail 0x24000
     let s := fun (n : Nat) => zq c fun q => { q with ending := some ⟨0, 8, 0, n⟩ }
     let b := zq c fun q => { q with bad := some (8, 1, 5, 2) }
     let who := c.issuer 95
     runs (s 3) 95 c [] 0 ∧ runs b 95 c [] 0 ∧ serves (.copy 95 1) 0 95 ∧ (b.device.copyHart 95).out = [] ∧ (b.device.copyHart 95).ending = none
     ∧ (b.device.copyHart 95).bad = some (8, 1, 5, 2) ∧ ((b.modCopy 0 95 fun q => { q with out := [(0, 0)] }).device.copyHart 95).out ≠ []
     ∧ (∀ n ≤ 3, ((s n).device.copyHart 95).ending = some ⟨0, 8, 0, n⟩ ∧ ((s n).device.copyHart 95).out = [])
     ∧ c.mb ≠ 0 ∧ c.bar ≠ 0 ∧ (ccmd 0 0 8 0).mb = 0 ∧ (ccmd 0 0 8 0).bar = 0
     ∧ okIs ((s 0).resolveAt 0 who (vaAdd c.mb 8) .write 8 false) ⟨hbmLoc 0 0x24008, true⟩ = true
     ∧ okIs ((s 1).resolveAt 0 who c.mb .sync 8 false) ⟨hbmLoc 0 0x24000, true⟩ = true
     ∧ okIs ((s 2).resolveAt 0 who c.bar .amo 8 false) ⟨hbmLoc 0 0x26000, true⟩ = true
     ∧ faults ((s 1).resolveAt 0 who (2 ^ 60) .sync 8 false) = true) := by unfold runs serves; decide +kernel

/-- CopyCommands: COPY, FILL and DEAL at their first and at a later word, with operands that overlap or a pattern that is invalid, and with
every byte issued and answered. -/
theorem test_hyp_CopyCommands :
    (let c := ccmd 0 0 16 0
     let f := ccmd 6 0 8 7
     let e := ccmd 1 0 8 0x8100#64
     let who : Issuer := ⟨0, 4703, 0, true, 0⟩
     (0 < blkLen c.blk * blkRows c.blk ∧ 8 ≤ blkLen c.blk - 8 % blkLen c.blk) ∧ c.overlaps = false ∧ ({ c with dst := 0x20000 } : CopyCmd).overlaps = true
     ∧ Table.find ((zc c).device.copyHart 95).pre 8 = none ∧ (vaAdd c.src 8).toNat % 8 = 0 ∧ (vaAdd c.dst 8).toNat % 8 = 0 ∧ c.issuer 95 = who
     ∧ gotIs ((zc c).engRead 0 who (vaAdd c.src 8) 8) 0 = true
     ∧ okIs ((zc c).resolveAt 0 who (vaAdd c.dst 8) .writeOnly 8 false) ⟨hbmLoc 0 0x30008, true⟩ = true
     ∧ (match (zc c).engRead 0 who (2 ^ 60) 8 with | .fault _ _ => true | _ => false) = true
     ∧ ((zq c fun q => { q with moved := 16 }).device.copyHart 95).moved = c.total ∧ (zq c id).cur.part = []
     ∧ blkLen f.blk = 8 ∧ okIs ((zc f).resolveAt 0 who (vaAdd f.dst 0) .writeOnly 8 false) ⟨hbmLoc 0 0x30000, true⟩ = true
     ∧ blkLen e.blk = 8 ∧ dealOk (dw e.blk 4) e.dst 8 = true ∧ dealOk (dw (ccmd 1 0 8 0).blk 4) e.dst 8 = false
     ∧ ((dealPat (dw e.blk 4) e.dst).dest 0).toNat % 8 = 0 ∧ 8 ≤ (dealPat (dw e.blk 4) e.dst).b - 0 % (dealPat (dw e.blk 4) e.dst).b
     ∧ gotIs ((zc e).engRead 0 who e.src 8) 0 = true
     ∧ okIs ((zc e).resolveAt 0 who (vaAdd ((dealPat (dw e.blk 4) e.dst).dest 0) 0) .writeOnly 8 false) ⟨lsLoc 0 0 0x100, true⟩ = true) := by decide +kernel

/-- CopyCommands: the index of a GATHER below and at the limit, its row, and a POOL without rows. -/
theorem test_hyp_GatherPool :
    (let g := ccmd 2 0 8 0x0000000100000001#64
     let s := zq g fun q => { q with idx := some (0, 0) }
     let who : Issuer := ⟨0, 4703, 0, true, 0⟩
     blkLen g.blk % 8 = 0 ∧ 0 < blkCount g.blk * blkLen g.blk ∧ ((zc g).device.copyHart 95).idx = none
     ∧ (vaAdd g.aux (4 * (0 / blkLen g.blk))).toNat % 4 = 0 ∧ gotIs ((zc g).engRead 0 who (vaAdd g.aux 0) 4) 0 = true ∧ 0 < blkLimit g.blk
     ∧ blkLimit (ccmd 2 0 8 1).blk ≤ 0 ∧ (s.device.copyHart 95).idx = some (0, 0) ∧ (vaAdd g.src (0 * 8 + 0 % 8)).toNat % 8 = 0
     ∧ gotIs (s.engRead 0 who (vaAdd g.src 0) 8) 0 = true ∧ okIs (s.resolveAt 0 who (vaAdd g.dst 0) .writeOnly 8 false) ⟨hbmLoc 0 0x30000, true⟩ = true
     ∧ blkRowLen (ccmd 3 0 0 0).blk = 0 ∧ ((zc (ccmd 3 0 0 0)).device.copyHart 95).hold = none) := by decide +kernel

/-- A POOL of one element of one bag, over the table registered as entry 0, whose header names version 0 in buffer 0. -/
def zpool (f : CopyHart → CopyHart) : State :=
  ((zq { ccmd 3 0 0 0x0000000100010001#64 with src := 0x38000 } f).onDevice fun v => { v with registered := [0] }).writeBytes
    (viewLoc 0 0 0) (wordsBytes [9, 0, 0x0000001000010000#64, 0, 0, 0x38000, 0x39000, 0x3A000]) |>.writeBytes
    (hbmLoc 0 0x38000) (wordsBytes [0x100000000000#64, 0])

/-- CopyCommands: a POOL before it holds a buffer, between entries, and with a sum to store. -/
theorem test_hyp_Pool :
    (let c := ccmd 3 0 0 0x0000000100010001#64
     let who : Issuer := ⟨0, 4703, 0, true, 0⟩
     let h := zpool fun q => { q with hold := some (0x38000, false) }
     let w := zpool fun q => { q with hold := some (0x38000, false), idx := some (1, 5) }
     let g := h.viewWord 0 0 2
     blkRowLen c.blk = 1 ∧ blkK c.blk = 1 ∧ 0 < 4 * blkRowLen c.blk * blkBags c.blk ∧ ((zpool id).device.copyHart 95).hold = none
     ∧ gotIs ((zpool id).engRead 0 who 0x38000 8) 0x100000000000 = true ∧ gotIs ((zpool id).engRead 0 who (vaAdd 0x38000 8) 8) 0 = true
     ∧ ((zpool id).tableAt 0 0 0x38000).isSome = true ∧ ((0x100000000000#64).extractLsb' 0 40).toNat = blkLen c.blk ∧ (0x100000000000#64).extractLsb' 44 4 = 1#4
     ∧ (h.device.copyHart 95).hold = some (0x38000, false) ∧ h.tableAt 0 0 0x38000 = some 0 ∧ (h.device.copyHart 95).idx = none
     ∧ gotIs (h.engBytes 0 who (vaAdd c.aux 0) 8) 0 = true ∧ 0 % 2 ^ 32 < (g.extractLsb' 16 20).toNat ∧ (g.extractLsb' 36 20).toNat = 1
     ∧ gotIs (h.engBytes 0 who (vaAdd (h.viewBuf 0 0 false) 0) 4) 0 = true
     ∧ (w.device.copyHart 95).idx = some (blkK c.blk, 5) ∧ (vaAdd c.dst 0).toNat % 4 = 0
     ∧ okIs (w.resolveAt 0 who (vaAdd c.dst 0) .writeOnly 4 false) ⟨hbmLoc 0 0x30000, true⟩ = true) := by decide +kernel

/-- zt as MIGRATE finds it between its steps: 64 bytes from HBM 0x20000 to 0x40000, whose leaf entry is the word at 0x60000. -/
def zmove (w : Word) : State :=
  (zq (ccmd 4 0 0 0) fun q => { q with move := some ⟨hbmLoc 0 0x60000, 0x81#64, 0x40001#64, hbmLoc 0 0x20000, 64, hbmLoc 0 0x40000, [], false⟩ }).writeWord
    (hbmLoc 0 0x60000) w

/-- MoveAndRegisterCommands: a page whose leaf has no MIG, and one that has it; the end of a move whose leaf is as it was, and is not; an empty
register of a resident context. -/
theorem test_hyp_Moves :
    (let c := ccmd 4 0 0 0
     let leaf := fun (s : State) => match s.leafOf 0 0 c.src with | .ok (e, a, b) => some (e.getLsbD 7, a, b, pteTier e) | .error _ => none
     leaf (zc c) = some (false, hbmLoc 0 0x120000, 42, 0) ∧ leaf ((zc c).writeWord (hbmLoc 0 0x120000) (tableEntry true 0 ||| 0x80#64)) = some (true, hbmLoc 0 0x120000, 42, 0)
     ∧ ((zc c).device.copyHart 95).move.isNone = true ∧ ((dw c.blk 2).extractLsb' 8 2) = 0#2
     ∧ gotAny ((zc c).leafAmo 0 95 (hbmLoc 0 0x120000) (tableEntry true 0 ||| 0x80#64)) = true
     ∧ ((dw c.blk 2).extractLsb' 16 36).toNat * 65536 < hbmSize ∧ ((dw c.blk 2).extractLsb' 16 36).toNat * 65536 % 2 ^ 42 = 0)
    ∧ (let c := ccmd 5 (31#64 <<< 24) 8 0
       let s := (zc c).modCtx 0 0 fun k => { k with place := .resident, xf := ~~~(1#32 <<< 31) }
       blkLen c.blk = 8 ∧ (dw c.blk 2).getLsbD 29 = false ∧ (dw c.blk 2).extractLsb' 24 5 = 31#5 ∧ (s.ctx 0 0).place = .resident
       ∧ (s.ctx 0 0).tenant.toNat = c.who.tenant ∧ (s.ctx 0 0).fullX 31 = false ∧ (s.ctx 0 0).xr.getLsbD 31 = false ∧ c.src.toNat % 8 = 0
       ∧ s.heldBack 0 0 = false ∧ (s.modCore 0 (s.ctx 0 0).core fun k => { k with paused := [(s.ctx 0 0).pos] }).heldBack 0 0 = true
       ∧ (s.device.copyHart 95).out = [] ∧ (s.device.copyHart 95).pre = [] ∧ gotIs (s.engRead 0 ⟨0, 4703, 0, true, 0⟩ c.src 8) 0 = true) := by decide +kernel

theorem test_hyp_MoveEnds : (zmove 5).canonical = true ∧ (zmove 5).pageFault 0 0x81#64 (hbmLoc 0 0x20000) 64 false = none
    ∧ (zmove 5).pageFault 0 0x40001#64 (hbmLoc 0 0x40000) 64 true = none ∧ (zmove 5).device.chcore = [] ∧ (zmove 5).waiters = []
    ∧ (zmove 0x81#64).readWord (hbmLoc 0 0x60000) = 0x81#64 ∧ (zmove 5).readWord (hbmLoc 0 0x60000) ≠ 0x81#64 := by decide +kernel

theorem test_hyp_MoveSwitch :
    (let s := fun (b : Bool) => (zq (ccmd 4 0 0 0) fun q => { q with move := some ⟨hbmLoc 0 0x60000, 0x81#64, 0x40001#64, 0, 64, 0, [], true⟩ }).onDevice
       fun v => { v with walks := [⟨0, 0, 0, [0], some 0, b, [], none⟩] }
     (s true).staleWalk 3 = true ∧ (s false).staleWalk 3 = false ∧ ((s true).device.copyHart 95).move.any (·.switched) = true)
    ∧ gotAny (((zmove 0x81#64).drawn.copyPage (hbmLoc 0 0x20000) (hbmLoc 0 0x40000) 64).leafAmo 0 95 (hbmLoc 0 0x60000) 0x40001#64) = true := by
  decide +kernel

theorem test_hyp_MovePlaces : hbmLoc 0 0x60000 = hbmLoc 0 (8 * 0xC000) ∧ 0x20000 + 64 ≤ hbmSize ∧ 0x40000 + 64 ≤ hbmSize
    ∧ 0x40000 + 64 ≤ 8 * 0xC000 ∧ 8 * 0xC000 < hbmSize := by decide +kernel

/-- The image of a leader of one block: f32 master at 0x40000, E4M3 view, headers at 0x30000, buffers at 0x31000 and 0x32000, version 1. -/
def viewImage : List Word := [1, 0x40000, 0x0000020000200000#64, 128, 3, 0x30000, 0x31000, 0x32000, 0, 1]

/-- zt with that image at 0x20000 and a VIEWREG of entry 0. -/
def zview : State := (zc (ccmd 7 0 0 0)).writeBytes (hbmLoc 0 0x20000) (wordsBytes viewImage)

/-- CopyHarts: an image that passes the checks and can be installed, and the empty image of an entry that is not registered. -/
theorem test_hyp_Registration :
    (let who : Issuer := ⟨0, 4703, 0, true, 0⟩
     let img := fun (k : Nat) => (viewImage.getD k 0).toNat
     let x : Entry := fun k => BitVec.ofNat 64 (((List.range 32).map fun i => img i * 2 ^ (64 * i)).sum / 2 ^ (64 * k))
     (∀ k < 32, gotIs (zview.engRead 0 who (vaAdd 0x20000 (8 * k)) 8) (img k) = true) ∧ (x 0).getLsbD 0 = true
     ∧ (zview.core 0 (4704 + x.leader % 24)).failed = false ∧ (zview.device.viewHart (x.leader % 24)).work = none ∧ zview.imageOk 0 0 x = true
     ∧ (zview.register 0 0 x).isSome = true ∧ zview.imageOk 0 0 (fun k => if k = 0 then 1 else 0) = false) := by decide +kernel

/-- The installed view, with its hart's work and block 0's header as given. -/
def zwork (b : Option Build) (h : Word) : State :=
  (((zview.register 0 0 fun k => viewImage.getD k 0).getD z).modView 0 0 fun q => { q with work := b }).writeBytes (hbmLoc 0 0x30000) (wordsBytes [h, 2 ^ 63 + 1])

/-- ViewBuilds: a hart with nothing pending; one with block 0 of an installed view; that block taken, with its header and OTHER of each kind, behind
a floor, held by a POOL, and at its end with and without a fault. -/
theorem test_hyp_ViewBuilds :
    (let b : Build := ⟨0, false, none, [], 0, none⟩
     let s := zwork (some b) (headerWord 0 1 0 false 1)
     let s0 := s.modView 0 0 fun q => { q with queued := q.queued - 1 }
     let x := s0.entry 0 0
     let e := fun (b : Build) => (((zwork (some b) 0).device.viewHart 0).work)
     (z.device.viewHart 23).pend = [] ∧ (z.device.viewHart 23).full = [] ∧ (z.device.viewHart 23).work = none ∧ (z.core 0 (4704 + 23)).failed = false
     ∧ ((zwork none 0).device.viewHart 0).pend = (0, 1) :: [] ∧ ((zwork none 0).device.viewHart 0).work = none
     ∧ (s.device.viewHart 0).work = some b ∧ Table.find (s.device.viewHart 0).pend b.key = some 1
     ∧ gotIs (s0.engRead 0 (viewIssuer 0 0 x.tenant) x.hdr 8) (headerWord 0 1 0 false 1).toNat = true
     ∧ gotIs (s0.engRead 0 (viewIssuer 0 0 x.tenant) (vaAdd x.hdr 8) 8) (2 ^ 63 + 1) = true
     ∧ ((s0.viewWord 0 x.leader 27).extractLsb' 0 40).toNat ≤ 1
     ∧ 1 < (((s0.setView 0 0 27 2).viewWord 0 x.leader 27).extractLsb' 0 40).toNat
     ∧ s.device.pooled x.hdr true = false
     ∧ (s.modCopy 0 0 fun q => { q with hold := some (x.hdr, true) }).device.pooled x.hdr true = true
     ∧ gotAny (s0.engWrite 0 (viewIssuer 0 0 x.tenant) x.hdr 8 5) = true
     ∧ e { b with begun := some (1, true), fault := 2, cleared := true } = some { b with begun := some (1, true), fault := 2, cleared := true }
     ∧ e { b with begun := some (1, false), img := some [] } = some { b with begun := some (1, false), img := some [] }) := by decide +kernel

/-- A launch record of one unit on core 1, at priority 7 on channel 0. -/
def lrec : LRec := ⟨0x20000, [0x0007000000000000#64, 1, 0, 0, 0, 11, 12, 0, 0x0000000100000129#64, 0, 0, 0, 0, 0, 0, 0], 7, 0⟩

/-- Device 0 with launch hart 3 as given, and core 1 with channel 0 enabled. -/
def zl (h : LaunchHart) : State := (zt.onDevice fun v => { v with launch := [(3, h)] }).modCore 0 1 open0

/-- Launches: stores of TAIL that fit and that do not, a record to read, and a configuration with the largest LSZ. -/
theorem test_hyp_Launches :
    (let h : LaunchHart := { LaunchHart.reset with en := true, lsz := 2, tail := 1, qbase := 0x20000 }
     let s := (zl h).writeBytes (hbmLoc 0 0x20000) (wordsBytes lrec.d)
     ((16#64).extractLsb' 0 5).toNat ≤ 16 ∧ (s.core 0 4923).failed = false ∧ ((4#64).extractLsb' 0 32 - h.head).toNat ≤ 2 ^ h.lsz.toNat
     ∧ 2 ^ h.lsz.toNat < ((5#64).extractLsb' 0 32 - h.head).toNat ∧ h.en = true ∧ h.tail ≠ h.head ∧ h.pend.length < 64
     ∧ (match s.engWords 0 (launchIssuer 0 3 0) 0x20000 16 with | .ok w => decide (w = lrec.d) | _ => false) = true
     ∧ gotIs (s.launchPrio 0 (launchIssuer 0 3 0) lrec.d) 7 = true) := by decide +kernel

/-- The delivery of the record's unit. -/
def unit0 : Delivery := ⟨1, (unitRecord 0 3 0 lrec.d [] 0).1, none⟩

theorem test_hyp_takesUnit : takesUnit (zl LaunchHart.reset) ⟨0, [], [], 0, [], false, false⟩ unit0 := by unfold takesUnit; decide +kernel

/-- Launches: the record in the pending store, a delivery that waits, and a peer's share for the hart's tenant and for another. -/
theorem test_hyp_LaunchService :
    (let s := zl { LaunchHart.reset with en := true, pend := [lrec] }
     let h := s.device.launchHart 3
     h.job.isNone = true ∧ h.next = some lrec ∧ launchBad lrec.d = false ∧ dw lrec.d 2 = 0 ∧ dw lrec.d 3 = 0 ∧ dw lrec.d 7 = 0
     ∧ (dw lrec.d 1).extractLsb' 0 40 = 1#40
     ∧ (match s.launchLevels 0 lrec.d with
        | some lv => decide (1 ≤ extentProduct lv) && decide (unitPlace (s.domainDevs 0) 0 0 lv = (0, unit0.vcn))
        | none => false) = true
     ∧ (unit0.record, unit0.binding) = unitRecord 0 3 (s.core 0 4923).seq lrec.d [] 0)
    ∧ (let j : LJob := ⟨2, 0, false, ⟨0, [], [], 0, [unit0], false, false⟩, [], 0, false⟩
       ((zl { LaunchHart.reset with job := some j }).device.launchHart 3).job = some j ∧ j.own.wait = [unit0] ∧ j.own.refused = false
         ∧ j.shares = [] ∧ j.mb = 0 ∧ j.num ≠ 3
         ∧ ({ z with net := [.shareAns 0 0 3 3 1 1] } : State).net[0]? = some (.shareAns 0 0 3 3 1 1))
    ∧ (let s := fun (t : Nat) => ({ zl { LaunchHart.reset with en := true } with net := [.share 0 0 3 7 t [] [unit0]] } : State)
       (s 0).net[0]? = some (.share 0 0 3 7 0 [] [unit0]) ∧ (s 0).reachable 0 0 = true ∧ ((s 0).device.launchHart 3).en = true ∧ ((s 0).device.launchHart 3).ten.toNat = 0
         ∧ ((s 9).device.launchHart 3).ten.toNat ≠ 9) := by decide +kernel

/-- zt with a BAR2 window on VA 0x20000 of 64 bytes. -/
def zh : State := (zt.onDevice fun v => { v with flash := { v.flash with cfg := { v.flash.cfg with bar2Base := 0x20000, bar2Size := 64 } } }).onThread fun c =>
  { c with sup := true }

/-- The place that a host access reaches, or the fault it meets. -/
def hostPlace (g : Got Req) : Option Nat :=
  match g with
  | .ok r => r.loc
  | _ => none

/-- HostRegisters: a window's last word that is reached, and one of a tenant without tables that is refused; STATUS busy and idle. -/
theorem test_hyp_HostRegisters : 56 / 8 * 8 + 8 ≤ zh.device.flash.cfg.bar2Size ∧ zh.canonical = true ∧ zh.thread.sup = true
    ∧ hostPlace (zh.hostTarget 0 (BitVec.ofNat 72 ((0x20000 + 56 / 8 * 8) % 2 ^ 71)) (.load 8 false)) = some (hbmLoc 0 0x20038)
    ∧ hostPlace (zh.hostTarget 0 (BitVec.ofNat 72 ((0x20000 + 56 / 8 * 8) % 2 ^ 71)) (.store 8 5)) = some (hbmLoc 0 0x20038)
    ∧ regionOf (hbmLoc 0 0x20038) = .hbm ∧ ((zh.dev 0).log? (channelCore (hbmLoc 0 0x20038))).on = false
    ∧ (match z.hostTarget 0 0x20000 (.load 8 false) with | .fault _ _ => true | _ => false) = true
    ∧ zh.device.host.status.getLsbD 63 = false ∧ zh.device.bootFail = false ∧ (1 ≤ (7#64).toNat ∧ (7#64).toNat ≤ 7)
    ∧ (0x8000000000000000#64).getLsbD 63 = true ∧ (1#64 <<< 44).toNat ≤ 2 ^ 44 ∧ (5#64).getLsbD 63 = false ∧ zh.cur.dev < 2 ^ 30 := by decide +kernel

/-- CommandsAndReset: each command being served, keys present and absent, tenants at the ends of their range, and a staged image. -/
theorem test_hyp_CommandsAndReset :
    (let s := fun (n t : Nat) => (z.onDevice fun v => { v with
       host := { v.host with status := BitVec.ofNat 64 (2 ^ 63 + 256 * n) }, keys := [(255, [])], flash := { v.flash with staged := [(0, ⟨t, [], [], []⟩)] } }).writeWord
         (barLoc 0 0x4100) (BitVec.ofNat 64 t)
     (∀ n ∈ [1, 2, 3, 4, 5, 6, 7], (s n 0).device.host.status.getLsbD 63 = true ∧ ((s n 0).device.host.status.extractLsb' 8 8).toNat = n)
     ∧ z.device.host.status.getLsbD 63 = false ∧ (s 2 0).canonical = true ∧ Table.find (s 3 255).device.keys 255 = some []
     ∧ Table.find (s 3 1).device.keys 1 = none ∧ rising ((s 3 255).device.keys.map (·.1)) = true
     ∧ Table.find (s 7 1).device.flash.staged ((s 7 1).request0 0 1).toNat = some ⟨1, [], [], []⟩ ∧ ((s 7 1).request0 0 0).toNat = 1
     ∧ Table.find z.device.flash.staged (z.request0 0 1).toNat = none ∧ (Table.find (s 7 1).device.flash.counters 1).getD 0 ≤ (⟨1, [], [], []⟩ : FlashImage).secver
     ∧ (s 1 0).device.flash.lmsUsed ≠ 32767) := by decide +kernel

/-- PowerAndLinks: a droop in the cluster of the moving core, and a peer of a larger domain, up and down. -/
theorem test_hyp_PowerAndLinks :
    (let s := fun (l : List Nat) => z.onDevice fun v => { v with droop := [0], down := l, flash := { v.flash with cfg := { v.flash.cfg with ex := 2 } } }
     rising (s []).device.droop = true ∧ rising (s []).device.portsOut = true ∧ (s []).device.droop.contains 0 = true ∧ (s []).device.droop.contains 23 = false ∧ (s []).device.capped = false ∧ (s []).device.hot = false
     ∧ ((s []).onDevice fun v => { v with rotOff := [0] }).device.rotOff.contains (clusterOf (s []).cur.vcn) = true
     ∧ 1 ≠ (s []).cur.dev ∧ (s []).inDomain 0 1 = true ∧ 1 ∈ (s [1]).device.down ∧ 1 ∉ (s []).device.down
     ∧ ∀ h < 4, ((s []).device.launchHart h).job.isNone = true) := by decide +kernel

/-- Observation: a mark and an almanac tick that are due and that are not, with and without a snapshot being written; heads with and without
entries; and places that an error strikes. -/
theorem test_hyp_Observation :
    (let s := z.onCore fun k => { k with obs := { k.obs with samp := 8 } }
     (s.here.obs.samp.extractLsb' 0 5).toNat ≠ 0 ∧ s.here.obs.left = 0 ∧ s.here.obs.markNext = false ∧ (z.here.obs.samp.extractLsb' 0 5).toNat = 0)
    ∧ z.device.obs.alm.getLsbD 4 = false ∧ z.device.almLatch = none ∧ (z.onDevice fun v => { v with almLatch := some ⟨0, 0, 0, [], []⟩ }).device.almLatch = some ⟨0, 0, 0, [], []⟩
    ∧ z.device.copy = [] ∧ z.device.chcore = [] ∧ z.device.walks = [] ∧ z.waiters = []
    ∧ (let t := z.onDevice fun v => { v with cycle := 2 ^ 32 * 175, obs := { v.obs with alm := 0x1F }, log := { v.log with wp := 3 } }
       t.device.obs.alm.getLsbD 4 = true ∧ t.device.cycle % (1400 * 2 ^ (t.device.obs.alm.extractLsb' 0 4).toNat) = 0
         ∧ 2 ^ 32 ≤ (t.device.cycle + 2 ^ 64 - t.device.log.headTick) % 2 ^ 64 ∧ t.device.log.wp ≠ t.device.log.headWp)
    ∧ (z.device.cycle + 2 ^ 64 - z.device.log.headTick) % 2 ^ 64 < 2 ^ 32 ∧ z.cur.vcn < 4608
    ∧ (∀ l ∈ [hbmLoc 0 (hbmSize - 1), lpLoc 0 (lpSize - 1), lsLoc 0 4923 0xFFFF], locDev l = 0 ∧ installed l = true ∧ z.inLog (wordOf l) = false)
    ∧ z.device.flash.cfg.logBase + z.device.flash.cfg.logSize ≤ hbmSize := by decide +kernel

/-- Whether a block is read, and what it holds. -/
def blockIs (b : Block) (l : List Word) : Bool :=
  match b with
  | .ok w => decide (w = l)
  | _ => false

/-- CsrEffects: a channel table and a control block that can be read, and blocks that are good and bad. -/
theorem test_hyp_LoadedBlocks :
    (let s := { paged (zx 0x20000 0x40 5 6) with cur := { (zx 0x20000 0x40 5 6).cur with vcn := 1 } }
     let bad := s.writeWord (hbmLoc 0 0x20000) 7
     blockIs (s.readBlock (0#8 ++ (0x20001#64 &&& ~~~0xFFF#64)) 512) (List.replicate 512 0) = true ∧ s.cur.vcn ≠ 0
     ∧ (0x20001#64).getLsbD 0 = true ∧ blockIs (s.readBlock (0#8 ++ (0x20001#64 &&& ~~~0x1FF#64)) 64) (List.replicate 64 0) = true
     ∧ blockIs (bad.readBlock (0#8 ++ (0x20001#64 &&& ~~~0x1FF#64)) 64) (7 :: List.replicate 63 0) = true
     ∧ ¬ (((7#64).extractLsb' 0 5).toNat = 0 ∨ 8 ≤ ((7#64).extractLsb' 0 5).toNat)) := by decide +kernel

/-- PageWalks: the tables of zt for VA 0, the last VA of HBM and the first beyond; a root entry without V; walks of a cluster that may begin, that
may not, and that have come to each level; homes that are sound and that are not. -/
theorem test_hyp_PageWalks :
    (let t0 := zt.readWord (tenantLoc 0 0)
     let at0 := hbmLoc 0 ((t0.extractLsb' 6 46).toNat * 64)
     let e0 := zt.readWord at0
     let at1 := hbmLoc 0 ((e0.extractLsb' 16 36).toNat * 65536)
     let e1 := zt.readWord at1
     let at2 := hbmLoc 0 ((e1.extractLsb' 16 36).toNat * 65536)
     let e2 := zt.readWord at2
     let w : Walk := ⟨5, 0, 0, [2, 3, 4], some at2, false, [], none⟩
     let who : Issuer := ⟨0, 960, 0, false, 0⟩
     t0.getLsbD 0 = true ∧ t0.extractLsb' 2 2 = 0#2 ∧ (t0.extractLsb' 6 46).toNat * 64 < hbmSize
     ∧ e0.extractLsb' 0 16 = 1#16 ∧ (e0.extractLsb' 16 36).toNat * 65536 < hbmSize
     ∧ e1.extractLsb' 0 16 = 1#16 ∧ (e1.extractLsb' 16 36).toNat * 65536 < hbmSize ∧ e2.getLsbD 0 = true ∧ e2.extractLsb' 8 2 = 0#2
     ∧ e2.getLsbD 10 = true ∧ e2.extractLsb' 11 5 = 0#5 ∧ e2.extractLsb' 16 36 = 0#36 ∧ (hbmSize - 1) % 2 ^ 42 < hbmSize
     ∧ hbmSize ≤ hbmSize % 2 ^ 42 ∧ (permFault e2 .read false).isNone = true ∧ (zt.readWord (at0 + 8)).getLsbD 0 = false
     ∧ zt.device.walks = [] ∧ (zt.core 0 (channelCore at2)).failed = false ∧ zt.poisoned at2 8 = false ∧ zt.device.moveOf at2 = none
     ∧ ({ zt with poison := [at2] } : State).poisoned at2 8 = true
     ∧ (([w].filter fun w => w.cluster == 5 && w.ended.isNone).take 16).find? (fun w => w.cluster == 5 && w.tenant == 0 && w.va / 65536 == 0) = some w
     ∧ at2 + 8 * (w.va / 2 ^ (levelIndex 2).1 % 2 ^ (levelIndex 2).2) = at2 ∧ ({ w with table := none } : Walk).table = none
     ∧ 16 ≤ ((List.replicate 16 { w with va := 65536 }).filter fun w => w.cluster == 5 && w.ended.isNone).length
     ∧ ((zt.onDevice fun v => { v with walks := [{ w with waiting := [(who, 0)] }] }).waitedWalk 0 5 0 who 0).isSome = true
     ∧ (zt.onDevice fun v => { v with walks := [{ w with waiting := [(who, 0)], ended := some (.fault 3 4) }] }).walkTurn
         { w with waiting := [(who, 0)], ended := some (.fault 3 4) } who = true
     ∧ ((paged zt).waitedWalk 0 0 0 who 0).isNone = true
     ∧ (paged zt).cached 0 0 0 0 = some (e2, 42)) := by decide +kernel

/-- DecodeOfEncode, IntegerFrame: well-formed instructions with words. -/
theorem test_hyp_encodings : WellFormed (.add 1 2 3) ∧ WellFormed (.mmaz mmazCmd) ∧ (encodeFields (.add 1 2 3)).isSome = true
    ∧ (encode (.mmaz mmazCmd)).length = 8 ∧ (encodeFields (.add 1 2 3)).any (fun f => f.op == 0x33#7) = true := by decide +kernel

/-- StepRunsDecoded, StepKeepsCanonical: the state that fetches `addi x1, x0, 5` next. -/
theorem test_hyp_StepRunsDecoded :
    (let s := State.reset.withFetchWord 32 0x00500093
     let m : Move := ⟨0, 0, 0, none, 0, 0, []⟩
     let e := ((({ s with agenda := [] } : State).elapse 0 0).focusOf m)
     let f := e.onCore fun k => { k with turnAt := some e.now }
     s.agenda = m :: [] ∧ s.canonical = true ∧ m.dev ≤ 3071 ∧ m.vcn < 4924 ∧ (s.dev m.dev).booting = false
     ∧ e.standsStill e.cur.dev e.cur.vcn = false ∧ e.here.turnAt ≠ some e.now ∧ e.stopped e.cur.dev e.cur.vcn e.cur.pos = false
     ∧ (f.pos f.cur.dev f.cur.vcn f.cur.pos).st = .running ∧ f.thread.wait = none ∧ f.thread.asyncReady = false
     ∧ (match f.stirred.fetchWords with | .ok ws => decide (ws = [0x00500093#32]) | .error _ => false) = true
     ∧ f.stirred.breakpoint = none ∧ (match decodeWords [0x00500093#32] with | .ok i => decide (i = .addi 1 0 5) | .error _ => false) = true
     ∧ f.stirred.here.obs.exponent = 0) := by decide +kernel

end Sys2Proof.Tests
end

section
/-! PROOFS. A step of a running thread at its turn issues the decoded instruction (R17, R55, R57). -/

namespace Sys2Proof.Machine

/-! ## The move that a step takes -/

theorem State.move_of_agenda {s : State} {m : Move} {rest : List Move} (h : s.agenda = m :: rest) : s.move = m := by
  simp [State.move, h]

theorem State.moveTaken_of_agenda {s : State} {m : Move} {rest : List Move} (h : s.agenda = m :: rest) :
    s.moveTaken = { s with agenda := rest } := by
  simp [State.moveTaken, h]

/-- A move without an event, on a part that exists of a booted device, is a turn of the core that it names. -/
theorem State.plan_of_turn {s : State} {m : Move} {rest : List Move} (h : s.agenda = m :: rest) (he : m.event = none)
    (hd : m.dev ≤ 3071) (hv : m.vcn < gatewayVcn) (hb : (s.dev m.dev).booting = false) :
    s.plan = ((({ s with agenda := rest } : State).elapse m.dev m.dt).focusOf m).turn m.ahead := by
  have hb' : (({ s with agenda := rest } : State).dev m.dev).booting = false := hb
  simp [State.plan, State.move_of_agenda h, State.moveTaken_of_agenda h, State.planMove, he, hb', Nat.not_lt.2 hd, Nat.not_le.2 hv]

/-! ## The turn of a core -/

/-- A core whose turn it is takes it, once in the tick. -/
theorem State.turn_of_ready {s : State} (hs : s.standsStill s.cur.dev s.cur.vcn = false) (ht : s.here.turnAt ≠ some s.now)
    (hp : s.stopped s.cur.dev s.cur.vcn s.cur.pos = false) (n : Nat) :
    s.turn n = (s.onCore fun k => { k with turnAt := some s.now }).posTurn n := by
  simp [State.turn, hs, ht, hp]

/-- A running position that waits for nothing and has no asynchronous trap pending fetches. -/
theorem State.posTurn_of_running {s : State} (hp : (s.pos s.cur.dev s.cur.vcn s.cur.pos).st = .running)
    (hw : s.thread.wait = none) (ha : s.thread.asyncReady = false) (n : Nat) : s.posTurn n = s.stirred.fetchTurn n := by
  simp [State.posTurn, hp, State.runTurn, hw, ha]

/-! ## The fetch -/

theorem State.sampleDue_of_off {s : State} (h : s.here.obs.exponent = 0) : s.sampleDue = s := by
  simp [State.sampleDue, h]

theorem State.sampleFetch_of_off {s : State} (h : s.here.obs.exponent = 0) (ws : List (BitVec 32)) : s.sampleFetch ws = s := by
  simp [State.sampleFetch, h]

/-- What a fetch leaves in the thread that issues: no breakpoint is stepped over any more, and the words fetched ahead are those of l. -/
def Ctx.fetching (c : Ctx) (ws : List (BitVec 32)) (l : List (Word × BitVec 32)) : Ctx :=
  { c with stepOver := false, wasOver := c.stepOver, chosenAt := none, ahead := l, enTested := c.enTested && isMapWord (ws.headD 0) }

/-- The state in which a thread issues the words that it has fetched, n words being fetched ahead. -/
def State.issuing (s : State) (ws : List (BitVec 32)) (n : Nat) : State :=
  let h := s.fetched.onThread fun c => c.fetching ws (s.aheadAfter ws n)
  { h with cur := { h.cur with words := ws } }

@[simp] theorem State.issuing_mismatches (s : State) (ws : List (BitVec 32)) (n : Nat) :
    (s.issuing ws n).cur.mismatches = s.cur.mismatches := rfl

/-- Words that are readable, match no breakpoint and decode to i are issued as i (R57), with sampling off. -/
theorem State.fetchTurn_of_decoded {s : State} {ws : List (BitVec 32)} {i : Instr} (hf : s.fetchWords = .ok ws)
    (hb : s.breakpoint = none) (hi : decodeWords ws = .ok i) (ho : s.here.obs.exponent = 0) (n : Nat) :
    s.fetchTurn n = .issue i (s.issuing ws n) := by
  have ho' : s.fetched.here.obs.exponent = 0 := ho
  simp only [State.fetchTurn, hf, hb, State.issueWords, hi, State.sampleDue_of_off ho', State.sampleFetch_of_off ho']
  rfl

/-! ## What follows the issue -/

/-- Without a mismatch nothing is checked, and only what waits at the end of the move follows. -/
theorem State.after_of_no_mismatch {s : State} (h : s.cur.mismatches = 0) (i : Instr) (t : State) : s.after i t = t.settle := by
  have hc : s.checkedWork i t = .nothing := if_pos h
  simp [State.after, hc, State.logMismatch]

section
variable {s t : State} {i : Instr} (hp : s.plan = .issue i t)
include hp

theorem step_of_next (h0 : t.cur.mismatches = 0) {u : State} (he : exec i t = .next u) : step s = .next u.settle := by
  simp [step, hp, he, State.after_of_no_mismatch h0]

theorem step_of_fault {x : Fault} (he : exec i t = .fault x) : step s = .fault x := by
  simp [step, hp, he]

theorem step_of_refused {x : Refusal} (he : exec i t = .refused x) : step s = .refused x := by
  simp [step, hp, he]
end

/-- Settles O56: the plan of the move is to issue i in the state after the fetch, and the three answers of `exec` are those of the step. -/
theorem stepRunsDecoded : Obligations.StepRunsDecoded := by
  unfold Obligations.StepRunsDecoded
  intro s m rest ws i hag hev hmis hdev hvcn hboot e f g hstill hturn hstop hrun hwait hasync hfetch hbrk hdec hoff h
  have hplan : s.plan = .issue i (g.issuing ws m.ahead) :=
    calc s.plan = e.turn m.ahead := State.plan_of_turn hag hev hdev hvcn hboot
      _ = f.posTurn m.ahead := State.turn_of_ready hstill hturn hstop _
      _ = g.fetchTurn m.ahead := State.posTurn_of_running hrun hwait hasync _
      _ = .issue i (g.issuing ws m.ahead) := State.fetchTurn_of_decoded hfetch hbrk hdec hoff _
  have h0 : (g.issuing ws m.ahead).cur.mismatches = 0 := hmis
  show step s = match exec i (g.issuing ws m.ahead) with
    | .next t => .next t.settle
    | .fault x => .fault x
    | .refused x => .refused x
  cases he : exec i (g.issuing ws m.ahead) with
  | next u => exact step_of_next hplan h0 he
  | fault x => exact step_of_fault hplan he
  | refused x => exact step_of_refused hplan he

end Sys2Proof.Machine
end

section
/-! PROOFS. Power, temperature, links and membership (R17, R335, R374 to R376), and what an entry of the corrected-error log changes. -/

namespace Sys2Proof.Machine

/-! ## Stores of the hardware: only memory and what homes hold changes (R41, R357 to R359) -/

/-- A device with other logs and held accesses at its channel cores, and other copy harts with their page moves. -/
def Device.holding (v : Device) (c : Table ChCore) (y : Table CopyHart) : Device := { v with chcore := c, copy := y }

@[simp] theorem Device.holding_down (v : Device) (c : Table ChCore) (y : Table CopyHart) : (v.holding c y).down = v.down := rfl
@[simp] theorem Device.holding_launch (v : Device) (c : Table ChCore) (y : Table CopyHart) : (v.holding c y).launch = v.launch := rfl
@[simp] theorem Device.holding_log (v : Device) (c : Table ChCore) (y : Table CopyHart) : (v.holding c y).log = v.log := rfl

/-- t differs from s at most in memory and in what channel cores and page moves hold or have logged. -/
structure SameButStores (s t : State) : Prop where
  ctxs : t.ctxs = s.ctxs
  poss : t.poss = s.poss
  cores : t.cores = s.cores
  net : t.net = s.net
  waiters : t.waiters = s.waiters
  inj : t.inj = s.inj
  ej : t.ej = s.ej
  agenda : t.agenda = s.agenda
  free : t.free = s.free
  cur : t.cur = s.cur
  devs : ∀ d, ∃ c y, t.dev d = (s.dev d).holding c y

namespace SameButStores

/-- Memory, F/E bits and poison marks are left out. -/
theorem of_memory (s : State) (m : Memory) (e p : List Nat) : SameButStores s { s with mem := m, empty := e, poison := p } :=
  ⟨rfl, rfl, rfl, rfl, rfl, rfl, rfl, rfl, rfl, rfl, fun _ => ⟨_, _, rfl⟩⟩

theorem refl (s : State) : SameButStores s s := of_memory s _ _ _

theorem trans {s t u : State} (h : SameButStores s t) (h' : SameButStores t u) : SameButStores s u where
  ctxs := h'.ctxs.trans h.ctxs
  poss := h'.poss.trans h.poss
  cores := h'.cores.trans h.cores
  net := h'.net.trans h.net
  waiters := h'.waiters.trans h.waiters
  inj := h'.inj.trans h.inj
  ej := h'.ej.trans h.ej
  agenda := h'.agenda.trans h.agenda
  free := h'.free.trans h.free
  cur := h'.cur.trans h.cur
  devs d := by
    obtain ⟨c, y, e⟩ := h.devs d
    obtain ⟨c', y', e'⟩ := h'.devs d
    exact ⟨c', y', by rw [e', e]; rfl⟩

theorem writeWord (s : State) (l : Nat) (w : Word) : SameButStores s (s.writeWord l w) := of_memory s _ _ _

theorem setFull (s : State) (l : Nat) (b : Bool) : SameButStores s (s.setFull l b) := of_memory s _ _ _

/-- A change of what a device's channel cores and page moves hold. -/
theorem modDev (s : State) (d : Nat) {f : Device → Device} (hf : ∃ c y, f (s.dev d) = (s.dev d).holding c y) :
    SameButStores s (s.modDev d f) where
  ctxs := rfl
  poss := rfl
  cores := rfl
  net := rfl
  waiters := rfl
  inj := rfl
  ej := rfl
  agenda := rfl
  free := rfl
  cur := rfl
  devs n := by
    have hd : (s.modDev d f).dev n = if n = d then f (s.dev d) else s.dev n := State.dev_setDev _ _ _ _
    by_cases hn : n = d
    · subst hn; rw [hd, if_pos rfl]; exact hf
    · exact ⟨_, _, hd.trans (if_neg hn)⟩

theorem ckptHold (s : State) (r : Req) (l : Nat) : SameButStores s (s.ckptHold r l) := by
  unfold State.ckptHold
  exact modDev _ _ ⟨_, _, rfl⟩

theorem moveHold (s : State) (r : Req) (l k : Nat) (m : PageMove) : SameButStores s (s.moveHold r l k m) := modDev s (locDev l) ⟨_, _, rfl⟩

theorem put (s : State) (l : Nat) (w : Word) : SameButStores s (s.put l w) := by
  unfold State.put
  split
  · exact refl s
  · exact writeWord s l w

theorem ckptPut (s : State) (l : Nat) (ws : List Word) : SameButStores s (s.ckptPut l ws) := by
  induction ws generalizing s l with
  | nil => exact refl s
  | cons w ws ih =>
    refine trans ?_ (ih _ (l + 8))
    split
    · exact refl s
    · exact writeWord s l w

theorem ckptHead (s : State) (base : Nat) (iv : BitVec 24) (st used : Nat) : SameButStores s (s.ckptHead base iv st used) := by
  unfold State.ckptHead
  split
  · exact refl s
  · exact (writeWord s _ _).trans (setFull _ _ _)

theorem ckpt {s t : State} {l : Nat} (h : s.ckpt l = some t) : SameButStores s t := by
  unfold State.ckpt at h
  split at h
  · exact Option.some.inj h ▸ refl s
  · dsimp only at h
    split at h
    · exact Option.some.inj h ▸ refl s
    · split at h
      · cases h
      · rw [← Option.some.inj h]
        refine trans ?_ (modDev _ _ ⟨_, _, rfl⟩)
        split
        · exact (ckptPut s _ _).trans (ckptHead _ _ _ _ _)
        · exact ckptPut s _ _

theorem hwStore (s : State) (v l : Nat) (w : Word) : SameButStores s (s.hwStore v l w) := by
  unfold State.hwStore
  dsimp only
  split
  · exact writeWord s l w
  · split
    · exact refl s
    · split
      · exact moveHold s _ _ _ _
      · split
        next hc => exact (ckpt hc).trans (put _ _ _)
        next => exact ckptHold s _ _

theorem hwStores (s : State) (v l : Nat) (ws : List Word) : SameButStores s (s.hwStores v l ws) := by
  induction ws generalizing s l with
  | nil => exact refl s
  | cons w ws ih => exact (hwStore s v l w).trans (ih _ _)

end SameButStores

/-! ## An entry of the corrected-error log (R359 to R361) -/

/-- Device d has logged an entry, or counted it as dropped, and stored what it logged; nothing else has changed. -/
def Logged (s t : State) (d : Nat) : Prop :=
  ∃ g, SameButStores (s.modDev d fun v => { v with log := g }) t
    ∧ (g.wp = (s.dev d).log.wp + 1 ∨ g.dropped = (s.dev d).log.dropped + 1)

theorem State.logged_logFor (s : State) (d kind sub vcn cid : Nat) (ten : Option Nat) (addr data : Word) :
    Logged s (s.logFor d kind sub vcn cid ten addr data) d := by
  unfold State.logFor
  dsimp only
  split
  · exact ⟨_, SameButStores.refl _, .inr rfl⟩
  · exact ⟨_, SameButStores.hwStores _ _ _ _, .inl rfl⟩

theorem State.logged_log (s : State) (d kind sub vcn cid : Nat) (addr data : Word) : Logged s (s.log d kind sub vcn cid addr data) d :=
  State.logged_logFor _ _ _ _ _ _ _ _ _

namespace Logged
variable {s t : State} {d : Nat} (h : Logged s t d)
include h

theorem ctxs : t.ctxs = s.ctxs := h.elim fun _ hg => hg.1.ctxs

theorem cur : t.cur = s.cur := h.elim fun _ hg => hg.1.cur

/-- The device that logs keeps all but its log and what it holds. -/
theorem dev_eq : ∃ g c y, t.dev d = ({ s.dev d with log := g } : Device).holding c y
    ∧ (g.wp = (s.dev d).log.wp + 1 ∨ g.dropped = (s.dev d).log.dropped + 1) := by
  obtain ⟨g, hg, hw⟩ := h
  obtain ⟨c, y, hd⟩ := hg.devs d
  rw [State.dev_modDev_self] at hd
  exact ⟨g, c, y, hd, hw⟩

theorem down : (t.dev d).down = (s.dev d).down := by
  obtain ⟨g, c, y, hd, -⟩ := h.dev_eq
  simp [hd]

theorem launch : (t.dev d).launch = (s.dev d).launch := by
  obtain ⟨g, c, y, hd, -⟩ := h.dev_eq
  simp [hd]

theorem log : (t.dev d).log.wp = (s.dev d).log.wp + 1 ∨ (t.dev d).log.dropped = (s.dev d).log.dropped + 1 := by
  obtain ⟨g, c, y, hd, hw⟩ := h.dev_eq
  simpa [hd] using hw

end Logged

/-! ## Membership (R335) -/

/-- t has the contexts of s and the thread that moves, and every device its membership bits, launch harts and log. -/
structure SameMembers (s t : State) : Prop where
  ctxs : t.ctxs = s.ctxs
  cur : t.cur = s.cur
  down : ∀ d, (t.dev d).down = (s.dev d).down
  launch : ∀ d, (t.dev d).launch = (s.dev d).launch
  log : ∀ d, (t.dev d).log = (s.dev d).log

namespace SameMembers

theorem of_devs {s t : State} (hx : t.ctxs = s.ctxs) (hu : t.cur = s.cur) (hd : t.devs = s.devs) : SameMembers s t := by
  have h : ∀ d, t.dev d = s.dev d := fun d => by simp only [State.dev, hd]
  exact ⟨hx, hu, fun d => by rw [h], fun d => by rw [h], fun d => by rw [h]⟩

theorem trans {s t u : State} (h : SameMembers s t) (h' : SameMembers t u) : SameMembers s u where
  ctxs := h'.ctxs.trans h.ctxs
  cur := h'.cur.trans h.cur
  down d := (h'.down d).trans (h.down d)
  launch d := (h'.launch d).trans (h.launch d)
  log d := (h'.log d).trans (h.log d)

theorem receipt (s : State) (d v : Nat) (m : RecMsg) : SameMembers s (s.receipt d v m) := by
  unfold State.receipt
  split <;> exact of_devs rfl rfl rfl

/-- The receipts of lost records are counted at cores alone. -/
theorem receipts (s : State) (l : List Msg) : SameMembers s (s.receipts l) := by
  induction l generalizing s with
  | nil => exact of_devs rfl rfl rfl
  | cons m l ih =>
    cases m with
    | record r => exact (receipt s _ _ r).trans (ih _)
    | _ => exact ih s

theorem sends {α : Type} (f : α → Msg) (l : List α) (s : State) : SameMembers s (l.foldl (fun s a => s.send (f a)) s) := by
  induction l generalizing s with
  | nil => exact of_devs rfl rfl rfl
  | cons a l ih => exact (of_devs rfl rfl rfl : SameMembers s (s.send (f a))).trans (ih _)

/-- The gateway's answers are messages alone. -/
theorem gatewayNacks (s : State) (d p : Nat) : SameMembers s (s.gatewayNacks d p) :=
  (sends _ _ s).trans (sends _ _ _)

/-- What a device's engines and homes hold for another has no part in its membership. -/
theorem disown (s : State) (q e : Nat) : SameMembers s (s.disown q e) := by
  let f := fun (w : Issuer) (_ : Route) => w.dev == e
  have hd (n : Nat) : (s.disown q e).dev n = if n = q then (s.dev q).reroute f else s.dev n := State.dev_setDev _ _ _ _
  refine ⟨rfl, rfl, fun n => ?_, fun n => ?_, fun n => ?_⟩ <;> rw [hd n] <;> split <;> subst_vars <;> rfl

end SameMembers

/-- A device none of whose launch harts serves a launch has no share to drop. -/
theorem State.dropShares_of_idle {s : State} {d : Nat} (h : ∀ n < 4, ((s.dev d).launchHart n).job = none) (p : Nat) : s.dropShares d p = s := by
  simp [State.dropShares, List.range, List.range.loop, h]

theorem Device.launchHart_congr {v w : Device} (h : w.launch = v.launch) (n : Nat) : w.launchHart n = v.launchHart n := by
  simp only [Device.launchHart, h]

/-- To settle what is open with a peer that goes down changes no context, membership bit, launch hart or log, when no launch is served. -/
theorem State.sameMembers_peerDown {s : State} {d : Nat} (h : ∀ n < 4, ((s.dev d).launchHart n).job = none) (p : Nat) :
    SameMembers s (s.peerDown d p) := by
  unfold State.peerDown
  extract_lets lost gone s1
  have h1 : SameMembers s s1 := .of_devs rfl rfl rfl
  have h2 := (((h1.trans (.receipts s1 gone)).trans (.disown _ p d)).trans (.disown _ d p)).trans (.gatewayNacks _ d p)
  rw [State.dropShares_of_idle fun n hn => Device.launchHart_congr (h2.launch d) n ▸ h n hn]
  exact h2

/-- A peer comes up (R335): it leaves the list of those that are down, which is one entry of the log. -/
theorem State.membership_up {s : State} {p : Nat} (hp : p ≠ s.cur.dev) (hi : s.inDomain s.cur.dev p = true) (hd : p ∈ s.device.down) :
    execMembershipChange p true s
      = .next ((s.onDevice fun v => { v with down := v.down.filter fun n => n ≠ p }).log s.cur.dev 0x0B 0 0x1FFF noCid (BitVec.ofNat 64 p) 1) := by
  simp [execMembershipChange, hp, hi, hd]

/-- A peer goes down (R335): it joins the list of those that are down, which is one entry of the log, and what is open with it is settled. -/
theorem State.membership_down {s : State} {p : Nat} (hp : p ≠ s.cur.dev) (hi : s.inDomain s.cur.dev p = true) (hd : p ∉ s.device.down) :
    execMembershipChange p false s
      = .next (((s.onDevice fun v => { v with down := p :: v.down }).log s.cur.dev 0x0B 0 0x1FFF noCid (BitVec.ofNat 64 p) 0).peerDown
          s.cur.dev p) := by
  simp [execMembershipChange, hp, hi, hd]

/-- The outcome of a membership change: the bits of the device are l, and the change is logged. -/
def State.membersSet (s : State) (l : List Nat) (u : State) : Prop :=
  u.device.down = l ∧ (u.device.log.wp = s.device.log.wp + 1 ∨ u.device.log.dropped = s.device.log.dropped + 1) ∧ u.ctxs = s.ctxs

section
variable (s : State) (f : Device → Device) (kind sub vcn cid : Nat) (addr data : Word) (hf : (f s.device).log = s.device.log)
include hf

/-- A device changes apart from its log, and logs it. -/
theorem State.membersSet_log :
    s.membersSet (f s.device).down ((s.onDevice f).log s.cur.dev kind sub vcn cid addr data) := by
  have hl := State.logged_log (s.onDevice f) s.cur.dev kind sub vcn cid addr data
  have hdev : (s.onDevice f).dev s.cur.dev = f s.device := State.device_onDevice s f
  have hdown := hl.down
  have hlog := hl.log
  rw [hdev] at hdown hlog
  rw [hf] at hlog
  unfold State.membersSet State.device
  rw [hl.cur]
  exact ⟨hdown, hlog, hl.ctxs⟩

/-- The same, when a peer then goes down and no launch is served. -/
theorem State.membersSet_peerDown (hl : (f s.device).launch = s.device.launch) (hj : ∀ h < 4, (s.device.launchHart h).job = none) (p : Nat) :
    s.membersSet (f s.device).down (((s.onDevice f).log s.cur.dev kind sub vcn cid addr data).peerDown s.cur.dev p) := by
  obtain ⟨hdown, hlog, hctxs⟩ := State.membersSet_log s f kind sub vcn cid addr data hf
  have hg := State.logged_log (s.onDevice f) s.cur.dev kind sub vcn cid addr data
  have hlaunch : (((s.onDevice f).log s.cur.dev kind sub vcn cid addr data).dev s.cur.dev).launch = s.device.launch :=
    hg.launch.trans ((congrArg Device.launch (State.device_onDevice s f)).trans hl)
  have hm := State.sameMembers_peerDown (fun n hn => Device.launchHart_congr hlaunch n ▸ hj n hn) p
  have hcur := hm.cur.trans hg.cur
  unfold State.membersSet State.device at *
  rw [hg.cur] at hdown hlog
  rw [hcur, hm.log]
  exact ⟨(hm.down _).trans hdown, hlog, hm.ctxs.trans hctxs⟩
end

/-! ## Power, temperature and links (R17, R374 to R376) -/

theorem mem_dropNat {t : List Nat} {k n : Nat} (h : rising t = true) : n ∈ dropNat t k ↔ n ≠ k ∧ n ∈ t := by
  induction t with
  | nil => simp [dropNat]
  | cons a t ih =>
    obtain ⟨ha, ht⟩ := rising_cons.1 h
    simp only [dropNat]
    split
    next hk =>
      refine ⟨fun hn => ⟨?_, hn⟩, And.right⟩
      rcases List.mem_cons.1 hn with e | hm
      · omega
      · have := ha n hm; omega
    next hk =>
      split
      next e =>
        subst e
        simp only [List.mem_cons]
        exact ⟨fun hn => ⟨by have := ha n hn; omega, .inr hn⟩, fun hn => hn.2.resolve_left hn.1⟩
      next e =>
        simp only [List.mem_cons, ih ht]
        constructor
        · rintro (rfl | hn)
          · exact ⟨e, .inl rfl⟩
          · exact ⟨hn.1, .inr hn.2⟩
        · rintro ⟨hn, e | hm⟩
          · exact .inl e
          · exact .inr ⟨hn, hm⟩

/-- An event that changes the device alone, and no membership bit of it. -/
theorem onDevice_gives {s : State} {i : Instr} {f : Device → Device} {p : Device → Prop} (he : exec i s = .next (s.onDevice f))
    (hp : p (f s.device)) (hd : (f s.device).down = s.device.down) :
    ∃ u, exec i s = .next u ∧ p u.device ∧ SameMemory s u ∧ u.ctxs = s.ctxs ∧ u.cores = s.cores ∧ u.device.down = s.device.down := by
  refine ⟨_, he, ?_, ⟨fun _ => rfl, fun _ => rfl⟩, rfl, rfl, ?_⟩
  · rwa [State.device_onDevice]
  · rwa [State.device_onDevice]

section
variable (s : State) {cl port : Nat}

/-- A droop joins those of the clusters that withhold their rotations (R374). -/
theorem exec_droop (h : cl < 24) : exec (.droop cl) s = .next (s.onDevice fun v => { v with droop := putNat v.droop cl }) := by
  show execDroop cl s = _
  simp [execDroop, h]

theorem exec_voltageRecovers : exec (.voltageRecovers cl) s = .next (s.onDevice fun v => { v with droop := dropNat v.droop cl }) := rfl

theorem exec_powerCap : exec .powerCap s = .next (s.onDevice fun v => { v with capped := true }) := rfl

theorem exec_powerBelowPcap : exec .powerBelowPcap s = .next (s.onDevice fun v => { v with capped := false }) := rfl

theorem exec_thermalLimit : exec .thermalLimit s = .next (s.onDevice fun v => { v with hot := true }) := rfl

/-- A port that retrains joins those out of service (R376). -/
theorem exec_laneRetrain (h : port < 12) :
    exec (.laneRetrain port) s = .next (s.onDevice fun v => { v with portsOut := putNat v.portsOut port }) := by
  show execLaneRetrain port s = _
  simp [execLaneRetrain, h]

theorem exec_fullRetrainingDone :
    exec (.fullRetrainingDone port) s = .next (s.onDevice fun v => { v with portsOut := dropNat v.portsOut port }) := rfl
end

/-- What a cluster withholds of the rotation that starts (R17). -/
theorem State.rotOff_startRotation (s : State) (c : Nat) (hc : c < 24) :
    (s.startRotation s.cur.dev).device.rotOff.contains c
      = (s.device.droop.contains c || s.device.capped && s.freeWord.getLsbD c || s.device.hot && s.freeWord.getLsbD 24) := by
  have hoff : (s.startRotation s.cur.dev).device.rotOff = (List.range 24).filter fun c =>
      s.device.droop.contains c || s.device.capped && s.freeWord.getLsbD c || s.device.hot && s.freeWord.getLsbD 24 := by
    unfold State.startRotation
    dsimp only
    split <;> exact congrArg Device.rotOff (State.dev_modDev_self _ _ _)
  rw [hoff, Bool.eq_iff_iff, List.contains_iff_mem, List.mem_filter, List.mem_range]
  exact and_iff_right hc

/-- A core of a cluster that withholds the rotation issues nothing (R17). -/
theorem State.turn_of_withheld {s : State} (h : s.device.rotOff.contains (clusterOf s.cur.vcn) = true) (n : Nat) : s.turn n = .rest s := by
  have hs : s.standsStill s.cur.dev s.cur.vcn = true := by
    unfold State.standsStill
    rw [show (s.dev s.cur.dev).rotOff.contains _ = true from h]
    rfl
  simp [State.turn, hs]

/-- Settles O49: each event by the device that it leaves, and a change of membership by the entry that it logs. -/
theorem powerAndLinks : Obligations.PowerAndLinks := by
  unfold Obligations.PowerAndLinks
  intro s cl port peer v gives
  -- Said of `gives` itself, so that it need not be unfolded in each case.
  have event {i : Instr} {f : Device → Device} {p : Device → Prop} (he : exec i s = .next (s.onDevice f)) (hp : p (f s.device))
      (hd : (f s.device).down = s.device.down) : gives i p := onDevice_gives he hp hd
  clear_value gives
  refine ⟨fun hcl hv => ⟨?droop, ?recovers⟩, fun hport hv => ⟨?retrain, ?retrained⟩, ?cap, ?below, ?limit, fun c hc => ⟨?off, ?on⟩,
    State.turn_of_withheld, fun hp hi => ⟨fun hd => ?up, fun hd hj => ?down⟩⟩
  case droop => exact event (exec_droop s hcl) (fun c => mem_putNat) rfl
  case recovers => exact event (exec_voltageRecovers s) (fun c => mem_dropNat hv) rfl
  case retrain => exact event (exec_laneRetrain s hport) (fun c => mem_putNat) rfl
  case retrained => exact event (exec_fullRetrainingDone s) (fun c => mem_dropNat hv) rfl
  case cap => exact event (exec_powerCap s) rfl rfl
  case below => exact event (exec_powerBelowPcap s) rfl rfl
  case limit => exact event (exec_thermalLimit s) rfl rfl
  case off =>
    intro hdroop
    rw [State.rotOff_startRotation s c hc, hdroop]
    rfl
  case on =>
    intro hdroop hcap hhot
    rw [State.rotOff_startRotation s c hc, hdroop, hcap, hhot]
    rfl
  case up =>
    obtain ⟨hdown, hrest⟩ := State.membersSet_log s (fun v => { v with down := v.down.filter fun n => n ≠ peer }) 0x0B 0 0x1FFF noCid
      (BitVec.ofNat 64 peer) 1 rfl
    exact ⟨_, State.membership_up hp hi hd, fun n => by rw [hdown]; simp [and_comm, v], hrest⟩
  case down =>
    obtain ⟨hdown, hrest⟩ := State.membersSet_peerDown s (fun v => { v with down := peer :: v.down }) 0x0B 0 0x1FFF noCid
      (BitVec.ofNat 64 peer) 0 rfl rfl hj peer
    exact ⟨_, State.membership_down hp hi hd, fun n => by rw [hdown]; exact List.mem_cons, hrest⟩

end Sys2Proof.Machine
end

section
/-! PROOFS. The push of a tile command (R229 to R232, R235, R242): the checks of its operands, the budget, and the queue. -/

namespace Sys2Proof.Machine

/-! ## The operands (R231) -/

/-- An operand that is aligned and inside local storage. -/
def operandOk (p : Nat × Nat × Nat) : Prop := p.1 % p.2.1 = 0 ∧ p.1 + p.2.2 ≤ 0x40000

theorem State.tileOperands_cons_of {s : State} {p : Nat × Nat × Nat} (h : operandOk p) (k : State → State) (t : List (Nat × Nat × Nat)) :
    s.tileOperands k (p :: t) = s.tileOperands k t := by
  obtain ⟨o, a, n⟩ := p
  obtain ⟨ha, hn⟩ := h
  simp only [State.tileOperands, ha, Nat.not_lt.2 hn, ne_eq, not_true_eq_false, if_false]

theorem State.tileOperands_append_of {s : State} {l : List (Nat × Nat × Nat)} (h : ∀ p ∈ l, operandOk p) (k : State → State)
    (t : List (Nat × Nat × Nat)) : s.tileOperands k (l ++ t) = s.tileOperands k t := by
  induction l with
  | nil => rfl
  | cons p l ih =>
    obtain ⟨hp, hl⟩ := List.forall_mem_cons.1 h
    rw [List.cons_append, State.tileOperands_cons_of hp, ih hl]

theorem State.tileOperands_of {s : State} {l : List (Nat × Nat × Nat)} (h : ∀ p ∈ l, operandOk p) (k : State → State) :
    s.tileOperands k l = k s := by
  rw [← List.append_nil l, State.tileOperands_append_of h]
  rfl

/-- The first operand that fails decides: one that is not aligned traps MISALIGN with its offset. -/
theorem State.tileOperands_misalign {s : State} {l : List (Nat × Nat × Nat)} {p : Nat × Nat × Nat} (h : ∀ q ∈ l, operandOk q)
    (hp : p.1 % p.2.1 ≠ 0) (k : State → State) (t : List (Nat × Nat × Nat)) :
    s.tileOperands k (l ++ p :: t) = s.trap { cause := 0x02, tval := BitVec.ofNat 64 p.1 } := by
  rw [State.tileOperands_append_of h, State.tileOperands, if_pos hp]
  rfl

/-- And an aligned one that ends beyond local storage traps ILLEGAL with its offset. -/
theorem State.tileOperands_illegal {s : State} {l : List (Nat × Nat × Nat)} {p : Nat × Nat × Nat} (h : ∀ q ∈ l, operandOk q)
    (ha : p.1 % p.2.1 = 0) (hn : 0x40000 < p.1 + p.2.2) (k : State → State) (t : List (Nat × Nat × Nat)) :
    s.tileOperands k (l ++ p :: t) = s.trap { cause := 0x00, tval := BitVec.ofNat 64 p.1 } := by
  rw [State.tileOperands_append_of h, State.tileOperands, if_neg fun hne => hne ha, if_pos hn]
  rfl

/-! ## The budget and the queue (R232, R242) -/

/-- The budget that the refill and the thread's budget give for d, and what is left of it. -/
theorem canCharge_iff (refill budget d : Nat) :
    canCharge refill budget d = true ↔ refill = 0 ∨ d ≤ refill ∧ d ≤ budget ∨ refill < d ∧ budget = refill := by
  unfold canCharge
  by_cases h : d ≤ refill
  · simp [h, Nat.not_lt.2 h]
  · simp [h, Nat.lt_of_not_le h]

/-- A command whose operands have been checked waits for its budget and for a place, or enters the queue. -/
def State.admitTile (s : State) (c : TileCmd) (j : TileJob) : State :=
  let d := 2 ^ c.ec.toNat * j.occ
  let b := (s.thread.ebudget.extractLsb' 0 32).toNat
  if !canCharge s.here.refill b d then s.park .budget
  else if !s.here.mqFree then s.park .queue
  else (s.onCore fun k => { k with mq := k.mq ++ [.tile (s.afterStores j)] }).onThread fun x =>
    { x.awaitX c.xd with ebudget := BitVec.ofNat 64 (charged s.here.refill b d), pc := x.pc + 32 }

theorem State.admitTile_of {s : State} {c : TileCmd} {j : TileJob}
    (hb : canCharge s.here.refill (s.thread.ebudget.extractLsb' 0 32).toNat (2 ^ c.ec.toNat * j.occ) = true) (hq : s.here.mq.length < 2) :
    s.admitTile c j = (s.onCore fun k => { k with mq := k.mq ++ [.tile (s.afterStores j)] }).onThread fun x =>
      { x.awaitX c.xd with
        ebudget := BitVec.ofNat 64 (charged s.here.refill (s.thread.ebudget.extractLsb' 0 32).toNat (2 ^ c.ec.toNat * j.occ))
        pc := x.pc + 32 } := by
  have hf : s.here.mqFree = true := decide_eq_true hq
  simp only [State.admitTile, hb, hf, Bool.not_true, Bool.false_eq_true, if_false]

/-! ## The push -/

/-- What is checked before the operands: with nothing in its way the push goes on to them. -/
theorem State.pushTile_of {s : State} {op : TileOp} {c : TileCmd} (hv : s.cur.vcn < 4608) (hf : s.fullAll [.x c.base, .x c.xd])
    (hc : s.here.counting s.cur.cid = false) (hm : s.thread.mcp = none) (hs : c.shadow = false ∨ s.thread.shadowOk op c = true) :
    s.pushTile op c = s.tileOperands (·.admitTile c (s.thread.resolveTile s.cur.cid op c)) (s.thread.resolveTile s.cur.cid op c).operands := by
  have hsh : (c.shadow && !s.thread.shadowOk op c) = false := by
    rcases hs with h | h <;> simp [h]
  rw [State.pushTile, State.matrixUnit, if_pos hv, State.ready_of hf]
  simp only [hc, hm, hsh, Bool.false_eq_true, if_false]
  rfl

/-- Each of the seven instructions is the push of its op. -/
theorem exec_tile (c : TileCmd) (s : State) :
    ∀ i ∈ [(Instr.mma c, TileOp.mma), (.mmaz c, .mmaz), (.maccst c, .maccst), (.maccld c, .maccld), (.mpack c, .mpack),
      (.mxpose c, .mxpose), (.mzero c, .mzero)], exec i.1 s = .next (s.pushTile i.2 c) := by
  simp only [List.forall_mem_cons]
  exact ⟨rfl, rfl, rfl, rfl, rfl, rfl, rfl, List.forall_mem_nil _⟩

/-- Without the shadow fields, plane counts, offsets, formats and tile are those of the command's words (R228, R231). -/
theorem Ctx.resolveTile_plain (x : Ctx) (cid : Nat) (op : TileOp) {c : TileCmd} (h : c.shadow = false) :
    (let j := x.resolveTile cid op c
     j.pa = c.pm1.toNat + 1 ∧ j.pb = c.pm2.toNat + 1 ∧ j.o1 = (x.getX c.base).toNat + c.off1.toNat
       ∧ j.o2 = (x.getX c.base).toNat + c.off2.toNat ∧ j.ofmt = c.ofmt ∧ j.ifmt = c.ifmt ∧ j.kb = c.kb.toNat ∧ j.tile = c.tile) := by
  simp [Ctx.resolveTile, h]

/-- Settles O31: the gates before the operands, then the operands in their order, then the budget and the queue. -/
theorem tilePushes : Obligations.TilePushes := by
  unfold Obligations.TilePushes
  intro s c hv hf hc hm x refill budget i hi hs j cost ok
  have hpush : exec i.1 s = .next (s.tileOperands (·.admitTile c j) j.operands) := by
    rw [exec_tile c s i hi, State.pushTile_of hv hf hc hm hs]
  refine ⟨fun hops hbudget hq => ?entered, fun l p l' hl hbefore => ⟨fun ha => ?misaligned, fun ha hn => ?tooLong⟩,
    Ctx.resolveTile_plain x s.cur.cid i.2⟩
  case entered =>
    rw [hpush, State.tileOperands_of hops, State.admitTile_of ((canCharge_iff _ _ _).2 hbudget) hq]
    rfl
  case misaligned => rw [hpush, hl, State.tileOperands_misalign hbefore ha]
  case tooLong => rw [hpush, hl, State.tileOperands_illegal hbefore ha hn]

end Sys2Proof.Machine
end

section
/-! PROOFS. round96 of an integer that 96 bits hold (R167): it is kept exactly. -/

namespace Sys2Proof.Machine

theorem bitLen_pos {n : Nat} (h : n ≠ 0) : 1 ≤ bitLen n := by simp [bitLen, h]

theorem lt_two_pow_bitLen (n : Nat) : n < 2 ^ bitLen n := by
  unfold bitLen
  split
  next h => simp [h]
  next => exact Nat.lt_log2_self

theorem bitLen_le_of_lt {n k : Nat} (h : n < 2 ^ k) : bitLen n ≤ k := by
  unfold bitLen
  split
  next => exact Nat.zero_le k
  next hn => exact (Nat.log2_lt hn).2 h

/-- A rounding to a multiple of no more than the unit is exact. -/
theorem roundAt_of_le {r : Rnd} {n : Nat} {e q : Int} (h : q ≤ e) (sticky : Bool) :
    (roundAt r n e sticky q).1 = n * 2 ^ (e - q).toNat := by
  rw [roundAt, if_pos h]

/-- One of the exponents that round96 tries, k above the least, and the integer rounded to it when it fits. -/
def try96 (z e : Int) (k : Int) : Option (Int × Int) :=
  let x := max (-32768) (e + bitLen z.natAbs - 96 + k)
  let m := (roundAt .ne z.natAbs e false x).1
  let q : Int := if z < 0 then -(m : Int) else m
  if -(2 ^ 95) ≤ q ∧ q ≤ 2 ^ 95 - 1 then some (q, x) else none

/-- round96 takes the first exponent that fits. -/
theorem round96_of_try {z e q x : Int} (hz : z ≠ 0) (h : (try96 z e 0).or ((try96 z e 1).or (try96 z e 2)) = some (q, x)) (hx : x ≤ 32767) :
    round96 z e = (A96.mk' q x, false) := by
  simp only [try96] at h
  simp only [round96, if_neg hz, h, if_neg (Int.not_lt.2 hx)]

theorem sign_natAbs (z : Int) (n : Nat) : (if z < 0 then -((z.natAbs * n : Nat) : Int) else (z.natAbs * n : Nat)) = z * n := by
  split
  next h => rw [Int.natCast_mul, Int.ofNat_natAbs_of_nonpos (Int.le_of_lt h), Int.neg_mul, Int.neg_neg]
  next h => rw [Int.natCast_mul, Int.natAbs_of_nonneg (Int.not_lt.1 h)]

/-- An exponent no greater than that of the integer is tried without a rounding. -/
theorem try96_of_exact {z e : Int} {k t : Nat} (ht : bitLen z.natAbs + k + t = 96) (he : -32000 ≤ e) :
    try96 z e k = if -(2 ^ 95) ≤ z * 2 ^ t ∧ z * 2 ^ t ≤ 2 ^ 95 - 1 then some (z * 2 ^ t, e - t) else none := by
  have hx : max (-32768) (e + bitLen z.natAbs - 96 + k) = e - t := by omega
  have hm : (roundAt .ne z.natAbs e false (e - t)).1 = z.natAbs * 2 ^ t := by
    rw [roundAt_of_le (by omega), show (e - (e - t)).toNat = t by omega]
  have hq : (if z < 0 then -((roundAt .ne z.natAbs e false (e - t)).1 : Int) else (roundAt .ne z.natAbs e false (e - t)).1) = z * 2 ^ t := by
    rw [hm, sign_natAbs]
    exact congrArg (z * ·) (Int.natCast_pow 2 t)
  simp only [try96, hx, hq]

theorem A96.int_mk' {q : Int} (x : Int) (h : -(2 ^ 95) ≤ q) (h' : q ≤ 2 ^ 95 - 1) : (A96.mk' q x).int = q := by
  simp only [A96.mk', A96.int, BitVec.toInt_ofInt]
  exact Int.bmod_eq_of_le (by omega) (by omega)

theorem A96.exp_mk' (q : Int) {x : Int} (h : -(2 ^ 15) ≤ x) (h' : x < 2 ^ 15) : (A96.mk' q x).exp = x := by
  simp only [A96.mk', A96.exp, BitVec.toInt_ofInt]
  exact Int.bmod_eq_of_le (by omega) (by omega)

/-- An integer with room for a bit above it fits when its highest bit comes to the place below that. -/
theorem fits_of_bitLen {z : Int} {t : Nat} (h : bitLen z.natAbs + t = 95) : -(2 ^ 95) ≤ z * 2 ^ t ∧ z * 2 ^ t ≤ 2 ^ 95 - 1 := by
  have hlt : z.natAbs * 2 ^ t < 2 ^ 95 := by
    rw [← h, Nat.pow_add]
    exact Nat.mul_lt_mul_of_pos_right (lt_two_pow_bitLen _) (Nat.two_pow_pos t)
  have habs : (z * 2 ^ t).natAbs = z.natAbs * 2 ^ t := by rw [Int.natAbs_mul, Int.natAbs_pow]; rfl
  omega

/-- The exponent that round96 finds for an integer of 96 bits: that of its highest bit, or one more. -/
theorem round96_exact {z e : Int} (hz : z ≠ 0) (h : -(2 ^ 95) ≤ z) (h' : z < 2 ^ 95) (he : -32000 ≤ e) (he' : e ≤ 32000) :
    ∃ k : Nat, k ≤ 95 ∧ -(2 ^ 95) ≤ z * 2 ^ k ∧ z * 2 ^ k ≤ 2 ^ 95 - 1 ∧ round96 z e = (A96.mk' (z * 2 ^ k) (e - k), false) := by
  have hpos := bitLen_pos (Int.natAbs_ne_zero.2 hz)
  have hle : bitLen z.natAbs ≤ 96 := bitLen_le_of_lt (by omega)
  obtain ⟨t, ht⟩ := Nat.exists_eq_add_of_le hle
  have h0 : try96 z e 0 = _ := try96_of_exact (k := 0) (t := t) ht.symm he
  by_cases hfit : -(2 ^ 95) ≤ z * 2 ^ t ∧ z * 2 ^ t ≤ 2 ^ 95 - 1
  · refine ⟨t, by omega, hfit.1, hfit.2, round96_of_try hz ?_ (by omega)⟩
    rw [if_pos hfit] at h0
    rw [h0, Option.some_or]
  · obtain ⟨t, rfl⟩ : ∃ u, t = u + 1 := by
      refine Nat.exists_eq_succ_of_ne_zero fun h => hfit ?_
      subst h
      omega
    have hfit' := fits_of_bitLen (z := z) (t := t) (by omega)
    have h1 : try96 z e 1 = _ := try96_of_exact (k := 1) (t := t) (by omega) he
    refine ⟨t, by omega, hfit'.1, hfit'.2, round96_of_try hz ?_ (by omega)⟩
    rw [if_neg hfit] at h0
    rw [if_pos hfit'] at h1
    rw [h0, Option.none_or, h1, Option.some_or]

theorem roundExactly : Piece.RoundExactly := by
  refine ⟨fun e => if_pos rfl, fun z e hz h h' he he' => ?_⟩
  obtain ⟨k, hk, hlo, hhi, hr⟩ := round96_exact hz h h' he he'
  exact ⟨k, by rw [hr, A96.int_mk' _ hlo hhi], by rw [hr, A96.exp_mk' _ (by omega) (by omega)], by rw [hr]⟩

end Sys2Proof.Machine
end

section
/-! PROOFS. The bytes that a tile command writes: what is read back after a list of bytes is written, a write cut into its
words, and the places of a sequence of pieces of one length. -/

namespace Sys2Proof.Machine

/-! ## Lists of bytes in memory -/

theorem Memory.writeBytes_append (m : Memory) (l : Nat) (a b : List Byte) :
    Memory.writeBytes m l (a ++ b) = Memory.writeBytes (Memory.writeBytes m l a) (l + a.length) b := by
  induction a generalizing m l with
  | nil => rfl
  | cons x a ih =>
    rw [List.cons_append, Memory.writeBytes, ih, Memory.writeBytes, List.length_cons, Nat.add_assoc, Nat.add_comm 1]

/-- A write of a list of bytes leaves every byte outside it. -/
theorem Memory.get_writeBytes_other {m : Memory} {l k : Nat} {b : List Byte} (h : Memory.wf m = true) (hk : k < l ∨ l + b.length ≤ k) :
    Memory.get (Memory.writeBytes m l b) k = Memory.get m k := by
  induction b generalizing m l with
  | nil => rfl
  | cons x b ih =>
    rw [List.length_cons] at hk
    rw [Memory.writeBytes, ih (Memory.wf_set h) (by omega), Memory.get_set h, if_neg (by omega)]

/-- A write of a list of bytes puts each at its place. -/
theorem Memory.get_writeBytes {m : Memory} {l j : Nat} {b : List Byte} {v : Byte} (h : Memory.wf m = true) (hj : b[j]? = some v) :
    Memory.get (Memory.writeBytes m l b) (l + j) = v := by
  induction b generalizing m l j with
  | nil => cases hj
  | cons x b ih =>
    rw [Memory.writeBytes]
    cases j with
    | zero =>
      rw [Memory.get_writeBytes_other (Memory.wf_set h) (by omega), Memory.get_set h, if_pos (by omega)]
      exact Option.some.inj hj
    | succ j =>
      rw [← Nat.add_assoc, Nat.add_right_comm]
      exact ih (Memory.wf_set h) hj

/-- A byte of a number that is read is the byte of memory. -/
theorem Memory.ofNat_read_div {m : Memory} {l n k : Nat} (hk : k < n) :
    BitVec.ofNat 8 (Memory.read m l n / 256 ^ k) = Memory.get m (l + k) := by
  induction n generalizing l k with
  | zero => omega
  | succ n ih =>
    rw [Memory.read]
    cases k with
    | zero => exact BitVec.eq_of_toNat_eq (by have := (Memory.get m l).isLt; simp; omega)
    | succ k =>
      have hdiv : ((Memory.get m l).toNat + 256 * Memory.read m (l + 1) n) / 256 = Memory.read m (l + 1) n := by
        have := (Memory.get m l).isLt; omega
      rw [Nat.pow_succ', ← Nat.div_div_eq_div_mul, hdiv, ih (by omega), Nat.add_assoc, Nat.add_comm 1]

/-- A number whose bytes stand in memory is read back. -/
theorem Memory.read_of_bytes {m : Memory} {l n w : Nat} (h : ∀ k < n, Memory.get m (l + k) = BitVec.ofNat 8 (w / 256 ^ k)) :
    Memory.read m l n = w % 256 ^ n := by
  induction n generalizing l w with
  | zero => simp [Memory.read, Nat.mod_one]
  | succ n ih =>
    have hhead : (Memory.get m l).toNat = w % 256 := by simpa using congrArg BitVec.toNat (h 0 (by omega))
    have htail : Memory.read m (l + 1) n = w / 256 % 256 ^ n := ih fun k hk => by
      rw [Nat.add_assoc, Nat.add_comm 1, h (k + 1) (by omega), Nat.pow_succ', Nat.div_div_eq_div_mul]
    rw [Memory.read, hhead, htail, Nat.pow_succ', Nat.mod_mul]

/-! ## Writes in order, by their words (R140) -/

/-- Writes of lists of bytes by offset, in order. -/
def Memory.writeParts (m : Memory) (l : Nat) (ws : List (Nat × List Byte)) : Memory :=
  ws.foldl (fun m w => Memory.writeBytes m (l + w.1) w.2) m

theorem Memory.writeParts_append (m : Memory) (l : Nat) (a b : List (Nat × List Byte)) :
    Memory.writeParts m l (a ++ b) = Memory.writeParts (Memory.writeParts m l a) l b := List.foldl_append

theorem Memory.writeParts_cons (m : Memory) (l o : Nat) (b : List Byte) (ws : List (Nat × List Byte)) :
    Memory.writeParts m l ((o, b) :: ws) = Memory.writeParts (Memory.writeBytes m (l + o) b) l ws := rfl

theorem Memory.writeParts_one (m : Memory) (l o : Nat) (b : List Byte) : Memory.writeParts m l [(o, b)] = Memory.writeBytes m (l + o) b := rfl

/-- Successive pieces of eight bytes are one write. -/
theorem Memory.writeParts_eights (m : Memory) (l o n : Nat) (b : List Byte) :
    Memory.writeParts m l ((List.range n).map fun k => (o + 8 * k, (b.drop (8 * k)).take 8)) = Memory.writeBytes m (l + o) (b.take (8 * n)) := by
  induction n with
  | zero => rfl
  | succ n ih =>
    rw [List.range_succ, List.map_append, Memory.writeParts_append, ih, Nat.mul_succ, List.take_add, Memory.writeBytes_append]
    rcases Nat.le_total (8 * n) b.length with h | h
    · rw [List.length_take_of_le h, Nat.add_assoc]; rfl
    · rw [List.drop_eq_nil_of_le h]
      simp [Memory.writeParts, Memory.writeBytes, List.drop_eq_nil_of_le h]

/-- A write cut into its words is the write. -/
theorem Memory.writeParts_wordParts (m : Memory) (l o : Nat) (b : List Byte) :
    Memory.writeParts m l (wordParts o b) = Memory.writeBytes m (l + o) b := by
  have hhead (n : Nat) : Memory.writeParts m l (if b.isEmpty then [] else [(o, b.take n)]) = Memory.writeBytes m (l + o) (b.take n) := by
    cases b <;> simp [Memory.writeParts, Memory.writeBytes]
  unfold wordParts
  dsimp only
  generalize hfirst : 8 - o % 8 = first
  have htail : (b.drop first).take (8 * ((b.length - first + 7) / 8)) = b.drop first :=
    List.take_of_length_le (by rw [List.length_drop]; omega)
  rw [Memory.writeParts_append, hhead]
  simp only [← List.drop_drop]
  rw [Memory.writeParts_eights, htail]
  rcases Nat.le_total first b.length with h | h
  · have happ := Memory.writeBytes_append m (l + o) (b.take first) (b.drop first)
    rw [List.take_append_drop, List.length_take_of_le h, Nat.add_assoc] at happ
    exact happ.symm
  · rw [List.drop_eq_nil_of_le h, List.take_of_length_le h]; rfl

/-- So are writes that are each cut into their words. -/
theorem Memory.writeParts_flatMap_wordParts (m : Memory) (l : Nat) (ws : List (Nat × List Byte)) :
    Memory.writeParts m l (ws.flatMap fun w => wordParts w.1 w.2) = Memory.writeParts m l ws := by
  induction ws generalizing m with
  | nil => rfl
  | cons w ws ih => rw [List.flatMap_cons, Memory.writeParts_append, Memory.writeParts_wordParts, ih]; rfl

/-! ## Pieces of one length -/

theorem length_flatMap_uniform {α β : Type} {l : List α} {f : α → List β} {n : Nat} (hn : ∀ a ∈ l, (f a).length = n) :
    (l.flatMap f).length = n * l.length := by
  induction l with
  | nil => rfl
  | cons a l ih =>
    obtain ⟨ha, hl⟩ := List.forall_mem_cons.1 hn
    rw [List.flatMap_cons, List.length_append, ha, ih hl, List.length_cons, Nat.mul_succ, Nat.add_comm]

/-- Where pieces of n members follow each other, member k of piece i is at n·i + k. -/
theorem getElem?_flatMap_uniform {α β : Type} {l : List α} {f : α → List β} {n i k : Nat} {a : α} {b : β} (hn : ∀ a ∈ l, (f a).length = n)
    (hi : l[i]? = some a) (hk : (f a)[k]? = some b) : (l.flatMap f)[n * i + k]? = some b := by
  induction l generalizing i with
  | nil => cases hi
  | cons c l ih =>
    obtain ⟨hc, hl⟩ := List.forall_mem_cons.1 hn
    rw [List.flatMap_cons]
    cases i with
    | zero =>
      cases Option.some.inj hi
      rw [Nat.mul_zero, Nat.zero_add, List.getElem?_append_left (List.getElem?_eq_some_iff.1 hk).1, hk]
    | succ i =>
      rw [List.getElem?_append_right (by rw [hc, Nat.mul_succ]; omega), hc, Nat.mul_succ, Nat.add_right_comm, Nat.add_sub_cancel]
      exact ih hl hi

theorem getElem?_range_map {α : Type} (f : Nat → α) {n i : Nat} (h : i < n) : ((List.range n).map f)[i]? = some (f i) := by
  rw [List.getElem?_map, List.getElem?_range h, Option.map_some]

theorem getD_range_map {α : Type} (f : Nat → α) {n i : Nat} (h : i < n) (d : α) : ((List.range n).map f).getD i d = f i := by
  rw [List.getD_eq_getElem?_getD, getElem?_range_map f h, Option.getD_some]

end Sys2Proof.Machine
end

section
/-! PROOFS. Accumulator tiles (R49, R166) that are written whole, and the arithmetic of planes (R74, R164, R165, R236). -/

namespace Sys2Proof.Machine

/-! ## Tables whose keys rise -/

theorem Table.mem_keys_set {α : Type} {t : Table α} {k n : Nat} {a : α} (h : n ∈ (Table.set t k a).map (·.1)) : n = k ∨ n ∈ t.map (·.1) := by
  induction t with
  | nil => exact .inl (by simpa [Table.set] using h)
  | cons c t ih =>
    simp only [Table.set] at h
    split at h
    · simpa using h
    · split at h
      · exact .imp_right (List.mem_cons_of_mem _) (by simpa using h)
      · rcases List.mem_cons.1 h with e | h
        · exact .inr (e ▸ List.mem_cons_self)
        · exact (ih h).imp_right (List.mem_cons_of_mem _)

theorem Table.mem_keys_erase {α : Type} {t : Table α} {k n : Nat} (h : n ∈ (Table.erase t k).map (·.1)) : n ∈ t.map (·.1) := by
  induction t with
  | nil => exact h
  | cons c t ih =>
    simp only [Table.erase] at h
    split at h
    · exact List.mem_cons_of_mem _ h
    · rcases List.mem_cons.1 h with e | h
      · exact e ▸ List.mem_cons_self
      · exact List.mem_cons_of_mem _ (ih h)

theorem Table.rising_set {α : Type} {t : Table α} (k : Nat) (a : α) (h : rising (t.map (·.1)) = true) :
    rising ((Table.set t k a).map (·.1)) = true := by
  induction t with
  | nil => rfl
  | cons c t ih =>
    obtain ⟨hc, ht⟩ := rising_cons.1 h
    simp only [Table.set]
    split
    next hk =>
      refine rising_cons.2 ⟨fun b hb => ?_, h⟩
      rcases List.mem_cons.1 hb with rfl | hb
      · exact hk
      · exact Nat.lt_trans hk (hc b hb)
    next hk =>
      split
      next e => exact rising_cons.2 ⟨fun b hb => e ▸ hc b hb, ht⟩
      next e =>
        refine rising_cons.2 ⟨fun b hb => ?_, ih ht⟩
        rcases Table.mem_keys_set hb with rfl | hb
        · exact Nat.lt_of_le_of_ne (Nat.not_lt.1 hk) e
        · exact hc b hb

theorem Table.rising_erase {α : Type} {t : Table α} (k : Nat) (h : rising (t.map (·.1)) = true) :
    rising ((Table.erase t k).map (·.1)) = true := by
  induction t with
  | nil => rfl
  | cons c t ih =>
    obtain ⟨hc, ht⟩ := rising_cons.1 h
    simp only [Table.erase]
    split
    · exact ht
    · exact rising_cons.2 ⟨fun b hb => hc b (Table.mem_keys_erase hb), ih ht⟩

/-! ## Elements of a tile -/

/-- The keys of a core's elements rise. -/
def Core.accRises (k : Core) : Prop := rising (k.acc.map (·.1)) = true

theorem Core.accRises_setElem {k : Core} (h : k.accRises) (n : Nat) (a : A96) : (k.setElem n a).accRises := by
  unfold Core.accRises Core.setElem
  dsimp only
  split
  · exact Table.rising_erase n h
  · exact Table.rising_set n a h

theorem Core.elem_setElem {k : Core} (h : k.accRises) (n : Nat) (a : A96) (t : Tile) (i c : Nat) :
    (k.setElem n a).elem t i c = if accKey t i c = n then a else k.elem t i c := by
  unfold Core.elem Core.setElem
  dsimp only
  split
  next ha => rw [Table.find_erase h, ha]; split <;> rfl
  next => rw [Table.find_set]; split <;> rfl

theorem accKey_inj {t : Tile} {i c i' c' : Nat} (hc : c < 32) (hc' : c' < 32) : accKey t i c = accKey t i' c' ↔ i = i' ∧ c = c' := by
  unfold accKey; omega

/-- The elements named by a list of places are written, and the others stay. -/
theorem Core.elem_setElems {k : Core} (h : k.accRises) (t : Tile) (f : Nat → Nat → A96) {l : List (Nat × Nat)} (hl : ∀ p ∈ l, p.2 < 32)
    {i c : Nat} (hc : c < 32) :
    (l.foldl (fun k p => k.setElem (accKey t p.1 p.2) (f p.1 p.2)) k).elem t i c = if (i, c) ∈ l then f i c else k.elem t i c := by
  induction l generalizing k with
  | nil => rfl
  | cons p l ih =>
    obtain ⟨hp, hl⟩ := List.forall_mem_cons.1 hl
    rw [List.foldl_cons, ih (Core.accRises_setElem h _ _) hl, Core.elem_setElem h]
    by_cases hm : (i, c) ∈ l
    · simp [hm]
    · by_cases hip : (i, c) = p
      · subst hip; simp
      · have hne : ¬ accKey t i c = accKey t p.1 p.2 := fun e => hip (Prod.ext_iff.2 ((accKey_inj hc hp).1 e))
        simp [hm, hip, hne]

theorem mem_cells {i c : Nat} : (i, c) ∈ cells ↔ i < 32 ∧ c < 32 := by
  simp [cells]

theorem getElem?_cells {i c : Nat} (hi : i < 32) (hc : c < 32) : cells[32 * i + c]? = some (i, c) :=
  getElem?_flatMap_uniform (by simp) (List.getElem?_range hi) (getElem?_range_map _ hc)

/-- A tile that is written holds what was written. -/
theorem Core.elem_setTile {k : Core} (h : k.accRises) (t : Tile) (f : Nat → Nat → A96) {i c : Nat} (hi : i < 32) (hc : c < 32) :
    (k.setTile t f).elem t i c = f i c := by
  rw [Core.setTile, Core.elem_setElems h t f (fun p hp => (mem_cells.1 hp).2) hc, if_pos (mem_cells.2 ⟨hi, hc⟩)]

/-- To write elements changes no queue of the core. -/
theorem Core.setElems_queues (k : Core) (t : Tile) (f : Nat → Nat → A96) (l : List (Nat × Nat)) :
    ∃ a b, l.foldl (fun k p => k.setElem (accKey t p.1 p.2) (f p.1 p.2)) k = { k with acc := a, accBad := b } := by
  induction l generalizing k with
  | nil => exact ⟨_, _, rfl⟩
  | cons p l ih =>
    obtain ⟨a, b, h⟩ := ih (k.setElem (accKey t p.1 p.2) (f p.1 p.2))
    exact ⟨a, b, h⟩

theorem Core.setTile_mdone (k : Core) (t : Tile) (f : Nat → Nat → A96) : (k.setTile t f).mdone = k.mdone := by
  obtain ⟨a, b, h⟩ := Core.setElems_queues k t f cells
  rw [Core.setTile, h]

/-! ## Sums -/

/-- The sum of f from 0 to n - 1, from the first on. -/
def sumTo (f : Nat → Int) (n : Nat) : Int := (List.range n).foldl (fun z k => z + f k) 0

theorem sumTo_succ (f : Nat → Int) (n : Nat) : sumTo f (n + 1) = sumTo f n + f n := by
  rw [sumTo, List.range_succ, List.foldl_append]; rfl

theorem sumTo_succ' (f : Nat → Int) (n : Nat) : sumTo f (n + 1) = f 0 + sumTo (fun k => f (k + 1)) n := by
  induction n with
  | zero => exact Int.add_comm 0 (f 0)
  | succ n ih => rw [sumTo_succ, ih, sumTo_succ, Int.add_assoc]

theorem sumTo_congr {f g : Nat → Int} {n : Nat} (h : ∀ k < n, f k = g k) : sumTo f n = sumTo g n := by
  induction n with
  | zero => rfl
  | succ n ih => rw [sumTo_succ, sumTo_succ, ih fun k hk => h k (by omega), h n (by omega)]

/-- The sum of products of two rows. -/
theorem dot_range (f g : Nat → Int) (n : Nat) : dot ((List.range n).map f) ((List.range n).map g) = sumTo (fun k => f k * g k) n := by
  induction n generalizing f g with
  | zero => rfl
  | succ n ih =>
    rw [List.range_succ_eq_map, List.map_cons, List.map_cons, List.map_map, List.map_map, dot, ih, sumTo_succ']
    rfl

/-! ## Planes -/

/-- The number whose bits, from the lowest, are the parities of a list. -/
def ofParities : List Nat → Nat := List.foldr (fun x n => x % 2 + 2 * n) 0

theorem ofParities_cons (a : Nat) (l : List Nat) : ofParities (a :: l) = a % 2 + 2 * ofParities l := rfl

theorem ofParities_lt (l : List Nat) : ofParities l < 2 ^ l.length := by
  induction l with
  | nil => exact Nat.one_pos
  | cons a l ih =>
    rw [ofParities_cons, List.length_cons, Nat.pow_succ']
    omega

theorem ofParities_concat (l : List Nat) (a : Nat) : ofParities (l ++ [a]) = ofParities l + 2 ^ l.length * (a % 2) := by
  induction l with
  | nil => rw [List.nil_append, ofParities_cons]; simp [ofParities]
  | cons b l ih =>
    rw [List.cons_append, ofParities_cons, ih, ofParities_cons, List.length_cons, Nat.pow_succ', Nat.mul_add, Nat.mul_assoc, Nat.add_assoc]

theorem ofParities_range_succ (f : Nat → Nat) (n : Nat) :
    ofParities ((List.range (n + 1)).map f) = ofParities ((List.range n).map f) + 2 ^ n * (f n % 2) := by
  rw [List.range_succ, List.map_append, List.map_cons, List.map_nil, ofParities_concat, List.length_map, List.length_range]

/-- Its value, as the sum of its bits. -/
theorem ofParities_range (f : Nat → Nat) (n : Nat) : (ofParities ((List.range n).map f) : Int) = sumTo (fun b => 2 ^ b * (f b % 2 : Nat)) n := by
  induction n with
  | zero => rfl
  | succ n ih =>
    rw [ofParities_range_succ, sumTo_succ, Int.natCast_add, ih, Int.natCast_mul]
    exact congrArg (_ + · * _) (Int.natCast_pow 2 n)

/-- Bit k of such a number is the parity of member k. -/
theorem testBit_ofParities (l : List Nat) (k : Nat) : (ofParities l).testBit k = decide (l.getD k 0 % 2 = 1) := by
  induction l generalizing k with
  | nil => simp [ofParities]
  | cons a l ih =>
    have he : ofParities (a :: l) = 2 * ofParities l + a % 2 := Nat.add_comm _ _
    cases k with
    | zero => rw [he, Nat.testBit_zero]; simp
    | succ k => rw [he, Nat.testBit_succ, show (2 * ofParities l + a % 2) / 2 = ofParities l by omega, ih]; simp

theorem two_pow_succ_int (q : Nat) : (2 : Int) ^ (q + 1) = ((2 * 2 ^ q : Nat) : Int) :=
  (Int.natCast_pow 2 (q + 1)).symm.trans (congrArg Nat.cast Nat.pow_succ')

theorem signed_succ {q n : Nat} (h : n < 2 * 2 ^ q) : signed (q + 1) n = if 2 ^ q ≤ n then (n : Int) - (2 * 2 ^ q : Nat) else n := by
  have hint : (n : Int) % (2 * 2 ^ q : Nat) = n := Int.emod_eq_of_lt (Int.natCast_nonneg n) (Int.ofNat_lt.2 h)
  rw [signed, two_pow_succ_int, Nat.pow_succ', Nat.mod_eq_of_lt h, hint, Nat.add_sub_cancel]

/-- An element of p planes: plane b weighs 2^b, and the last −2^(p−1) (R164). -/
theorem signed_planes {p : Nat} (hp : 1 ≤ p) (f : Nat → Nat) :
    signed p (ofParities ((List.range p).map f)) = sumTo (fun b => (if b + 1 = p then -1 else 1) * 2 ^ b * (f b % 2 : Nat)) p := by
  obtain ⟨q, rfl⟩ := Nat.exists_eq_add_of_le' hp
  have hlow := ofParities_lt ((List.range q).map f)
  rw [List.length_map, List.length_range] at hlow
  have hinner : sumTo (fun b => (if b + 1 = q + 1 then -1 else 1) * 2 ^ b * ((f b % 2 : Nat) : Int)) q = ofParities ((List.range q).map f) := by
    rw [ofParities_range]
    exact sumTo_congr fun b hb => by rw [if_neg (by omega), Int.one_mul]
  have hpow : (2 : Int) ^ q = (2 ^ q : Nat) := (Int.natCast_pow 2 q).symm
  rw [sumTo_succ, hinner, if_pos rfl, hpow, ofParities_range_succ, signed_succ]
  all_goals
    generalize 2 ^ q = t at *
    rcases Nat.mod_two_eq_zero_or_one (f q) with hbit | hbit <;> rw [hbit] <;> omega

theorem signed_eight (n : Nat) : signed 8 n = (BitVec.ofNat 8 n).toInt := by
  rw [BitVec.toInt_ofNat', signed, Int.bmod_def]
  omega

end Sys2Proof.Machine
end

section
/-! PROOFS. Tile commands at the head of the matrix queue (R140, R233, R236 to R241): the step that executes one, and what each
computes. -/

namespace Sys2Proof.Machine

/-! ## The step -/

/-- A tile command is the head of the queue and may execute at once: nothing of its thread is outstanding, nothing of it has been done, no
input is poisoned and no access waits. -/
structure State.AtHead (s : State) (j : TileJob) (q : List MJob) : Prop where
  mq : s.here.mq = .tile j :: q
  accBad : s.here.accBad = []
  poison : s.poison = []
  part : s.cur.part = []
  stores : j.stores = []
  split : j.split = false
  got : j.got = []
  out : j.out = none
  waiters : s.waiters = []
  wf : Memory.wf s.mem = true

/-- Local storage of the core. -/
def State.lsHere (s : State) : Nat := lsLoc s.cur.dev s.cur.vcn 0

theorem State.lsHere_eq (s : State) : lsLoc s.cur.dev s.cur.vcn 0 = s.lsHere := rfl
theorem State.here_eq (s : State) : s.core s.cur.dev s.cur.vcn = s.here := rfl

theorem State.serveRange_of {s : State} (h : s.waiters = []) (l n : Nat) : s.serveRange l n = s := by
  simp [State.serveRange, h]

/-- The state with another memory. -/
def State.withMem (s : State) (m : Memory) : State := { s with mem := m }

@[simp] theorem State.withMem_cur (s : State) (m : Memory) : (s.withMem m).cur = s.cur := rfl
@[simp] theorem State.withMem_core (s : State) (m : Memory) (d v : Nat) : (s.withMem m).core d v = s.core d v := rfl

theorem State.writeBytes_of {s : State} (hp : s.poison = []) (l : Nat) (b : List Byte) : s.writeBytes l b = s.withMem (Memory.writeBytes s.mem l b) := by
  have hd : dropRange s.poison l b.length = s.poison := by rw [hp]; rfl
  rw [State.writeBytes, hd]
  rfl

/-- Without waiters and poison the writes of a command change memory alone. -/
theorem State.tileWrites_of {s : State} (hw : s.waiters = []) (hp : s.poison = []) (l : Nat) (ws : List (Nat × List Byte)) :
    s.tileWrites l ws = s.withMem (Memory.writeParts s.mem l ws) := by
  induction ws generalizing s with
  | nil => rfl
  | cons w ws ih =>
    have hone : (s.writeBytes (l + w.1) w.2).serveRange (l + w.1) w.2.length = s.withMem (Memory.writeBytes s.mem (l + w.1) w.2) := by
      rw [State.writeBytes_of hp, State.serveRange_of]
      exact hw
    exact (congrArg (State.tileWrites · l ws) hone).trans (ih (s := s.withMem _) hw hp)

/-- When no part is named, every write is made now. -/
theorem tileSplit_all (i : Nat) (ws : List (Nat × List Byte)) : tileSplit (fun _ => true) i [] ws = (ws, []) := by
  induction ws generalizing i with
  | nil => rfl
  | cons w ws ih => simp [tileSplit, ih]

/-- The head leaves the matrix queue for the completions, without poison and with its counts (R233, R234). -/
def Core.headDone (k : Core) (j : TileJob) (q : List MJob) (c : Counts) : Core :=
  { k with mq := q, mdone := k.mdone ++ [⟨j.cid, j.ctrap, j.xd, j.op, 0, c⟩] }

@[simp] theorem Core.headDone_mq (k : Core) (j : TileJob) (q : List MJob) (c : Counts) : (k.headDone j q c).mq = q := rfl
@[simp] theorem Core.headDone_mdone (k : Core) (j : TileJob) (q : List MJob) (c : Counts) :
    (k.headDone j q c).mdone = k.mdone ++ [⟨j.cid, j.ctrap, j.xd, j.op, 0, c⟩] := rfl
@[simp] theorem Core.headDone_acc (k : Core) (j : TileJob) (q : List MJob) (c : Counts) : (k.headDone j q c).acc = k.acc := rfl
@[simp] theorem Core.headDone_elem (k : Core) (j : TileJob) (q : List MJob) (c : Counts) : (k.headDone j q c).elem = k.elem := rfl

theorem exec_tileCommandExecution (s : State) : exec .tileCommandExecution s = .next (s.runHead s.cur.dev s.cur.vcn) := rfl

namespace State.AtHead
variable {s : State} {j : TileJob} {q : List MJob} (h : s.AtHead j q)
include h

theorem tileComputes :
    s.tileComputes s.cur.dev s.cur.vcn j =
      (let r := runTile s s.here s.lsHere j
       (s.setCore s.cur.dev s.cur.vcn (r.1 s.here), { j with out := some (r.2.1.flatMap fun w => wordParts w.1 w.2, r.2.2) }, 0)) := by
  have hseen : s.asRead s.lsHere j = s := by rw [State.asRead, h.got]; rfl
  have hclean : j.inputs.any (fun p => s.poisoned (s.lsHere + p.1) p.2) = false := by simp [State.poisoned, h.poison]
  have htile : s.here.tileBad j.tile = false := by simp [Core.tileBad, h.accBad]
  simp only [State.tileComputes, h.out, State.lsHere_eq, State.here_eq, hseen, hclean, htile, Bool.and_false, Bool.or_false,
    Bool.false_eq_true, if_false]

/-- The command computes, its writes are made, and it moves to the completions (R233). -/
theorem runHead :
    s.runHead s.cur.dev s.cur.vcn =
      (let r := runTile s s.here s.lsHere j
       ((s.setCore s.cur.dev s.cur.vcn (r.1 s.here)).withMem (Memory.writeParts s.mem s.lsHere r.2.1)).modCore s.cur.dev s.cur.vcn
         fun k => k.headDone j q r.2.2) := by
  have hc := h.tileComputes
  generalize runTile s s.here s.lsHere j = r at hc ⊢
  have hw := State.tileWrites_of (s := s.setCore s.cur.dev s.cur.vcn (r.1 s.here)) h.waiters h.poison s.lsHere
    (r.2.1.flatMap fun w => wordParts w.1 w.2)
  rw [Memory.writeParts_flatMap_wordParts, State.setCore_mem] at hw
  simp only [State.runHead, State.here_eq, State.lsHere_eq, h.mq, h.stores, h.split, h.part, hc, hw, State.setCore_cur, List.isEmpty_nil,
    Bool.not_true, Bool.or_false, Bool.false_eq_true, if_false, ne_eq, not_true_eq_false, decide_false, Bool.false_and, Option.getD_some,
    BEq.rfl, Bool.true_or, tileSplit_all, Core.headDone]

theorem executes :
    ∃ u, exec .tileCommandExecution s = .next u
      ∧ (let r := runTile s s.here s.lsHere j
         u.here = (r.1 s.here).headDone j q r.2.2 ∧ u.mem = Memory.writeParts s.mem s.lsHere r.2.1 ∧ u.empty = s.empty) := by
  refine ⟨_, (exec_tileCommandExecution s).trans (congrArg _ h.runHead), ?_, rfl, rfl⟩
  rw [State.here, State.modCore_cur, State.withMem_cur, State.setCore_cur, State.core_modCore_self, State.withMem_core, State.core_setCore_self]

end State.AtHead

end Sys2Proof.Machine
end

section
/-! PROOFS. What each tile command computes (R236 to R241). -/

namespace Sys2Proof.Machine

/-! ## The command has executed -/

/-- The head of the queue has moved to the completions with status 0 (R233). -/
def State.completesTile (s : State) (j : TileJob) (q : List MJob) (u : State) : Prop :=
  ∃ n, exec .tileCommandExecution s = .next u ∧ u.here.mq = q ∧ u.here.mdone = s.here.mdone ++ [⟨j.cid, j.ctrap, j.xd, j.op, 0, n⟩]

section
variable {s : State} {j : TileJob} {q : List MJob} (h : s.AtHead j q)
include h

/-- A command that writes its tile and nothing else. -/
theorem State.AtHead.setsTile (hr : s.here.accRises) {f g : Nat → Nat → A96} {n : Counts}
    (hrun : runTile s s.here s.lsHere j = ((Core.setTile · j.tile f), [], n)) (hg : ∀ i < 32, ∀ c < 32, f i c = g i c) :
    ∃ u, s.completesTile j q u ∧ (∀ i < 32, ∀ c < 32, u.here.elem j.tile i c = g i c) ∧ SameMemory s u := by
  obtain ⟨u, he, hu, hm, hf⟩ := h.executes
  rw [hrun] at hu hm
  refine ⟨u, ⟨n, he, by rw [hu, Core.headDone_mq], by rw [hu, Core.headDone_mdone, Core.setTile_mdone]⟩, fun i hi c hc => ?_, fun a => ?_,
    fun a => ?_⟩
  · rw [hu, Core.headDone_elem, Core.elem_setTile hr j.tile f hi hc, hg i hi c hc]
  · rw [State.byteAt, hm]; rfl
  · rw [State.full, hf]; rfl

/-- A command that writes to local storage and leaves the accumulator. -/
theorem State.AtHead.storesParts {ws : List (Nat × List Byte)} {n : Counts} (hrun : runTile s s.here s.lsHere j = (id, ws, n)) :
    ∃ u, s.completesTile j q u ∧ u.here.acc = s.here.acc ∧ u.mem = Memory.writeParts s.mem s.lsHere ws := by
  obtain ⟨u, he, hu, hm, -⟩ := h.executes
  rw [hrun] at hu hm
  have hu : u.here = s.here.headDone j q n := hu
  exact ⟨u, ⟨n, he, by rw [hu, Core.headDone_mq], by rw [hu, Core.headDone_mdone]⟩, by rw [hu, Core.headDone_acc], hm⟩

/-- A command that writes one operand. -/
theorem State.AtHead.storesOne {o : Nat} {b : List Byte} {n : Counts} (hrun : runTile s s.here s.lsHere j = (id, [(o, b)], n)) :
    ∃ u, (s.completesTile j q u ∧ u.here.acc = s.here.acc
        ∧ ∀ a, a < s.lsHere + o ∨ s.lsHere + o + b.length ≤ a → u.byteAt a = s.byteAt a)
      ∧ ∀ k v, b[k]? = some v → u.byteAt (s.lsHere + o + k) = v := by
  obtain ⟨u, hu, ha, hm⟩ := h.storesParts hrun
  rw [Memory.writeParts_one] at hm
  refine ⟨u, ⟨hu, ha, fun a hout => ?_⟩, fun k v hv => ?_⟩ <;> rw [State.byteAt, hm]
  · exact Memory.get_writeBytes_other h.wf hout
  · exact Memory.get_writeBytes h.wf hv

end

/-! ## Products (R236) -/

/-- Element k of row r of p planes, as the sum of its planes (R164). -/
def State.planeElem (s : State) (loc p r k : Nat) : Int :=
  sumTo (fun b => (if b + 1 = p then -1 else 1) * 2 ^ b * (s.readMem (loc + 128 * b + 4 * r) 4 / 2 ^ k % 2 : Nat)) p

theorem State.planeRow_eq (s : State) (loc r : Nat) {p : Nat} (hp : 1 ≤ p) : s.planeRow loc p r = (List.range 32).map (s.planeElem loc p r) := by
  refine List.map_congr_left fun k _ => ?_
  rw [State.planeElem, ← signed_planes hp fun b => s.readMem (loc + 128 * b + 4 * r) 4 / 2 ^ k, ofParities, List.foldr_map, List.foldr_map]

/-- The product of a row of each block. -/
def State.rowProduct (s : State) (a p b q i c : Nat) : Int :=
  sumTo (fun k => s.planeElem a p i k * s.planeElem b q c k) 32

theorem State.signedByte_eq (s : State) (loc : Nat) : s.signedByte loc = (BitVec.ofNat 8 (s.readMem loc 1)).toInt := signed_eight _

/-- Over one block pair every element takes one product, at the sum of the exponents of its rows. -/
theorem State.mmaRows_oneBlock (s : State) (l : Nat) {j : TileJob} (d : Nat → Nat → A96) (hk : j.kb = 1) (ha : 1 ≤ j.pa) (hb : 1 ≤ j.pb)
    {i c : Nat} (hi : i < 32) (hc : c < 32) :
    (((s.mmaRows l j d).getD i []).getD c (A96.zero, 0)).1
      = ((d i c).addScaled (s.rowProduct (l + j.o1) j.pa (l + j.o2) j.pb i c)
          ((BitVec.ofNat 8 (s.readMem (l + j.o3 + i) 1)).toInt + (BitVec.ofNat 8 (s.readMem (l + j.o4 + c) 1)).toInt)).1 := by
  rw [State.mmaRows, hk, getD_range_map _ hi, getD_range_map _ hc]
  simp only [List.range_one, List.map_cons, List.map_nil, List.zip_cons_cons, List.zip_nil_left, List.foldl_cons, List.foldl_nil,
    getD_range_map _ hi, getD_range_map _ hc, Nat.mul_zero, Nat.add_zero, mmaStep]
  rw [State.planeRow_eq _ _ _ ha, State.planeRow_eq _ _ _ hb, dot_range, State.signedByte_eq, State.signedByte_eq]
  rfl

/-! ## What a command gives -/

section
variable {r : State} {k : Core} {l : Nat} {j : TileJob}

theorem runTile_mzero (h : j.op = .mzero) : runTile r k l j = ((Core.setTile · j.tile fun _ _ => A96.zero), [], Counts.zero) := by
  simp only [runTile, h]

theorem runTile_maccld (h : j.op = .maccld) :
    runTile r k l j = ((Core.setTile · j.tile fun i c =>
      (round96 (r.readA96 (l + j.o1 + 14 * (32 * i + c))).int (r.readA96 (l + j.o1 + 14 * (32 * i + c))).exp).1), [], Counts.zero) := by
  simp only [runTile, h]

theorem runTile_mma (h : j.op = .mma) : ∃ n, runTile r k l j
    = ((Core.setTile · j.tile fun i c => (((r.mmaRows l j (k.elem j.tile)).getD i []).getD c (A96.zero, 0)).1), [], n) := by
  simp only [runTile, h]; exact ⟨_, rfl⟩

theorem runTile_mmaz (h : j.op = .mmaz) : ∃ n, runTile r k l j
    = ((Core.setTile · j.tile fun i c => (((r.mmaRows l j fun _ _ => A96.zero).getD i []).getD c (A96.zero, 0)).1), [], n) := by
  simp only [runTile, h]; exact ⟨_, rfl⟩

theorem runTile_raw (h : j.op = .maccst) (hf : j.ofmt = 12#4) :
    runTile r k l j = (id, [(j.o1, cells.flatMap fun p => (k.elem j.tile p.1 p.2).bytes)], Counts.zero) := by
  simp only [runTile, h, hf, if_true]

theorem runTile_mxpose (h : j.op = .mxpose) : runTile r k l j = (id, [(j.o1, r.transposed (l + j.o2) j)], Counts.zero) := by
  simp only [runTile, h]

/-- Row i of MPACK: the elements, the exponent and the counts of its planes (R165, R239). -/
def State.packedRow (r : State) (l : Nat) (j : TileJob) (i : Nat) : List Int × Int × Counts :=
  planeBlock j.pa ((decodeBlock j.ifmt.toNat (r.rowCodes (l + j.o2 + i * j.s2) j.ifmt)
    (if hasScale j.ifmt then r.readMem (l + j.o4 + i) 1 else 127)).map (·.1))

theorem runTile_mpack (h : j.op = .mpack) : ∃ n, runTile r k l j
    = (id, [(j.o1, planeBytes j.pa ((List.range 32).map fun i => (r.packedRow l j i).1)),
        (j.o3, (List.range 32).map fun i => BitVec.ofNat 8 (lowBits 8 (r.packedRow l j i).2.1))], n) := by
  simp only [runTile, h, List.map_map]; exact ⟨_, rfl⟩

end

/-! ## Raw stores (R237) -/

theorem A96.length_bytes (a : A96) : a.bytes.length = 14 := rfl

theorem A96.bytes_q (a : A96) {k : Nat} (hk : k < 12) : a.bytes[k]? = some (a.q.extractLsb' (8 * k) 8) := by
  rw [A96.bytes, List.getElem?_append_left (by simpa using hk), getElem?_range_map _ hk]

theorem A96.bytes_x (a : A96) {k : Nat} (hk : k < 2) : a.bytes[12 + k]? = some (a.x.extractLsb' (8 * k) 8) := by
  rcases Nat.le_one_iff_eq_zero_or_eq_one.1 (Nat.le_of_lt_succ hk) with rfl | rfl <;> rfl

theorem length_rawTile (f : Nat → Nat → A96) : (cells.flatMap fun p => (f p.1 p.2).bytes).length = 14336 := by
  rw [length_flatMap_uniform fun _ _ => A96.length_bytes _, cells, length_flatMap_uniform (n := 32) (by simp), List.length_range]

theorem getElem?_rawTile (f : Nat → Nat → A96) {i c k : Nat} {v : Byte} (hi : i < 32) (hc : c < 32) (hk : (f i c).bytes[k]? = some v) :
    (cells.flatMap fun p => (f p.1 p.2).bytes)[14 * (32 * i + c) + k]? = some v :=
  getElem?_flatMap_uniform (fun _ _ => A96.length_bytes _) (getElem?_cells hi hc) hk

/-! ## Transposes (R240) -/

/-- The transpose of natural elements of n bytes: row r holds the elements (c, r). -/
theorem State.transposed_bytes (s : State) (loc : Nat) {j : TileJob} {n : Nat} (hp : j.ifmt ≠ 11#4) (hn : elemBits j.ifmt = 8 * n) :
    s.transposed loc j = (List.range 32).flatMap fun r => (List.range 32).flatMap fun c => (List.range n).map fun k =>
      BitVec.ofNat 8 (s.readMem (loc + (32 * c + r) * n) n / 256 ^ k) := by
  have h4 : 8 * n ≠ 4 := by omega
  simp only [State.transposed, State.tileCode, if_neg hp, hn, if_neg h4, Nat.mul_div_cancel_left n (show 0 < 8 by decide)]

theorem State.length_transposed (s : State) (loc : Nat) {j : TileJob} {n : Nat} (hp : j.ifmt ≠ 11#4) (hn : elemBits j.ifmt = 8 * n) :
    (s.transposed loc j).length = 1024 * n := by
  rw [s.transposed_bytes loc hp hn, length_flatMap_uniform (n := n * 32) fun r _ => by
    rw [length_flatMap_uniform (n := n) (by simp), List.length_range], List.length_range]
  omega

theorem State.getElem?_transposed (s : State) (loc : Nat) {j : TileJob} {n r c k : Nat} (hp : j.ifmt ≠ 11#4) (hn : elemBits j.ifmt = 8 * n)
    (hr : r < 32) (hc : c < 32) (hk : k < n) :
    (s.transposed loc j)[n * (32 * r + c) + k]? = some (s.byteAt (loc + n * (32 * c + r) + k)) := by
  have hb : BitVec.ofNat 8 (s.readMem (loc + (32 * c + r) * n) n / 256 ^ k) = s.byteAt (loc + n * (32 * c + r) + k) := by
    rw [State.readMem, Memory.ofNat_read_div hk, Nat.mul_comm n]; rfl
  rw [s.transposed_bytes loc hp hn, ← hb, Nat.mul_add, ← Nat.mul_assoc, Nat.add_assoc]
  refine getElem?_flatMap_uniform (fun r _ => ?_) (List.getElem?_range hr)
    (getElem?_flatMap_uniform (by simp) (List.getElem?_range hc) (getElem?_range_map _ hk))
  rw [length_flatMap_uniform (n := n) (by simp), List.length_range]

/-! ## Packs (R239) -/

/-- The word of plane j that a row gives: bit k is bit j of element k. -/
def planeWord (p j : Nat) (row : List Int) : Nat := ofParities (row.map fun q => lowBits p q / 2 ^ j)

/-- A remainder by a multiple of 2·t keeps the parity of the quotient by t. -/
theorem emod_ediv_parity (q : Int) {t : Int} (ht : t ≠ 0) (d : Int) : q % (t * (2 * d)) / t % 2 = q / t % 2 := by
  have hsplit : q % (t * (2 * d)) = q + t * (2 * -(d * (q / (t * (2 * d))))) := by
    rw [Int.emod_def, Int.sub_eq_add_neg, Int.mul_assoc t, Int.mul_assoc 2, Int.mul_neg, Int.mul_neg]
  rw [hsplit, Int.add_mul_ediv_left _ _ ht, Int.add_mul_emod_self_left]

/-- The low bits of an integer keep its bit j. -/
theorem lowBits_bit {p j : Nat} (hj : j < p) (q : Int) : ((lowBits p q / 2 ^ j % 2 : Nat) : Int) = q / 2 ^ j % 2 := by
  obtain ⟨d, rfl⟩ := Nat.exists_eq_add_of_lt hj
  have hj' : (2 : Int) ^ j = (2 ^ j : Nat) := (Int.natCast_pow 2 j).symm
  have hp : (2 : Int) ^ (j + d + 1) = (2 ^ j : Nat) * (2 * (2 ^ d : Nat)) := by
    rw [two_pow_succ_int, Nat.pow_add, Nat.mul_left_comm, Int.natCast_mul, Int.natCast_mul]; rfl
  have hpos : ((2 ^ j : Nat) : Int) ≠ 0 := Int.natCast_ne_zero.2 (Nat.ne_of_gt (Nat.two_pow_pos j))
  have hnat : ((lowBits (j + d + 1) q : Nat) : Int) = q % 2 ^ (j + d + 1) :=
    Int.toNat_of_nonneg (Int.emod_nonneg _ (by
      rw [hp]
      exact Int.mul_ne_zero hpos (Int.mul_ne_zero (by decide) (Int.natCast_ne_zero.2 (Nat.ne_of_gt (Nat.two_pow_pos d))))))
  rw [Int.natCast_emod, Int.natCast_ediv, hnat, hp, hj']
  exact emod_ediv_parity q hpos _

theorem testBit_planeWord {p j : Nat} (hj : j < p) (row : List Int) (k : Nat) :
    (planeWord p j row).testBit k = decide (row.getD k 0 / 2 ^ j % 2 = 1) := by
  have hzero : lowBits p 0 / 2 ^ j = 0 := by simp [lowBits]
  have hget : (row.map fun q => lowBits p q / 2 ^ j).getD k 0 = lowBits p (row.getD k 0) / 2 ^ j := by
    rw [List.getD_eq_getElem?_getD, List.getElem?_map, List.getD_eq_getElem?_getD, ← hzero]
    exact Option.getD_map _ _ _
  rw [planeWord, testBit_ofParities, hget, decide_eq_decide, ← lowBits_bit hj]
  omega

theorem planeBytes_eq (p : Nat) (rows : List (List Int)) :
    planeBytes p rows = (List.range p).flatMap fun j => rows.flatMap fun row =>
      (List.range 4).map fun k => BitVec.ofNat 8 (planeWord p j row / 256 ^ k) := by
  simp only [planeBytes, planeWord, ofParities, List.foldr_map]

theorem length_planeBytes (p : Nat) (rows : List (List Int)) : (planeBytes p rows).length = 4 * rows.length * p := by
  rw [planeBytes_eq, length_flatMap_uniform fun j _ => length_flatMap_uniform (n := 4) (by simp), List.length_range]

theorem getElem?_planeBytes {p j i k : Nat} {rows : List (List Int)} {row : List Int} (hj : j < p) (hi : rows[i]? = some row) (hk : k < 4) :
    (planeBytes p rows)[4 * rows.length * j + (4 * i + k)]? = some (BitVec.ofNat 8 (planeWord p j row / 256 ^ k)) := by
  rw [planeBytes_eq]
  exact getElem?_flatMap_uniform (fun j _ => length_flatMap_uniform (n := 4) (by simp)) (List.getElem?_range hj)
    (getElem?_flatMap_uniform (by simp) hi (getElem?_range_map _ hk))

theorem ofNat_lowBits (q : Int) : BitVec.ofNat 8 (lowBits 8 q) = BitVec.ofInt 8 q := by
  apply BitVec.eq_of_toNat_eq
  rw [BitVec.toNat_ofNat, BitVec.toNat_ofInt, lowBits]
  omega

end Sys2Proof.Machine
end

section
/-! PROOFS. What the tile commands compute, each at the head of the queue (R233, R236 to R241), and round96 (R167). -/

namespace Sys2Proof.Machine

section
variable {s : State} {j : TileJob} {q : List MJob} (h : s.AtHead j q)
include h

/-- A raw MACCST stores the 14 bytes of each element (R237). -/
theorem State.AtHead.stores_raw (hop : j.op = .maccst) (hf : j.ofmt = 12#4) :
    ∃ u, (s.completesTile j q u ∧ u.here.acc = s.here.acc ∧ ∀ a, a < s.lsHere + j.o1 ∨ s.lsHere + j.o1 + 14336 ≤ a → u.byteAt a = s.byteAt a)
      ∧ ∀ i < 32, ∀ c < 32,
        (∀ k < 12, u.byteAt (s.lsHere + j.o1 + 14 * (32 * i + c) + k) = (s.here.elem j.tile i c).q.extractLsb' (8 * k) 8)
        ∧ ∀ k < 2, u.byteAt (s.lsHere + j.o1 + 14 * (32 * i + c) + 12 + k) = (s.here.elem j.tile i c).x.extractLsb' (8 * k) 8 := by
  obtain ⟨u, hu, hb⟩ := h.storesOne (runTile_raw hop hf)
  rw [length_rawTile (s.here.elem j.tile)] at hu
  refine ⟨u, hu, fun i hi c hc => ⟨fun k hk => ?_, fun k hk => ?_⟩⟩
  · rw [Nat.add_assoc _ _ k]
    exact hb _ _ (getElem?_rawTile (s.here.elem j.tile) hi hc (A96.bytes_q _ hk))
  · rw [Nat.add_assoc _ 12, Nat.add_assoc _ _ (12 + k)]
    exact hb _ _ (getElem?_rawTile (s.here.elem j.tile) hi hc (A96.bytes_x _ hk))

/-- MXPOSE of natural elements stores element (c, r) at (r, c) (R240). -/
theorem State.AtHead.stores_transpose (hop : j.op = .mxpose) {n : Nat} (hp : j.ifmt ≠ 11#4) (hn : elemBits j.ifmt = 8 * n) :
    ∃ u, (s.completesTile j q u ∧ u.here.acc = s.here.acc ∧ ∀ a, a < s.lsHere + j.o1 ∨ s.lsHere + j.o1 + 1024 * n ≤ a → u.byteAt a = s.byteAt a)
      ∧ ∀ r < 32, ∀ c < 32, ∀ k < n,
        u.byteAt (s.lsHere + j.o1 + n * (32 * r + c) + k) = s.byteAt (s.lsHere + j.o2 + n * (32 * c + r) + k) := by
  obtain ⟨u, hu, hb⟩ := h.storesOne (runTile_mxpose hop)
  rw [s.length_transposed _ hp hn] at hu
  refine ⟨u, hu, fun r hr c hc k hk => ?_⟩
  rw [Nat.add_assoc _ _ k]
  exact hb _ _ (s.getElem?_transposed _ hp hn hr hc hk)

/-- MPACK stores the planes and the exponent of each row (R239). -/
theorem State.AtHead.stores_pack (hop : j.op = .mpack) (ho : j.o1 + 128 * j.pa ≤ j.o3) :
    ∃ u, s.completesTile j q u ∧ u.here.acc = s.here.acc ∧ ∀ i < 32,
      (∀ p < j.pa, ∀ k < 32, (u.readMem (s.lsHere + j.o1 + 128 * p + 4 * i) 4).testBit k
        = decide (((s.packedRow s.lsHere j i).1.getD k 0 / 2 ^ p) % 2 = 1))
      ∧ u.byteAt (s.lsHere + j.o3 + i) = BitVec.ofInt 8 (s.packedRow s.lsHere j i).2.1 := by
  obtain ⟨n, hrun⟩ := runTile_mpack (r := s) (k := s.here) (l := s.lsHere) hop
  obtain ⟨u, hu, ha, hm⟩ := h.storesParts hrun
  rw [Memory.writeParts_cons, Memory.writeParts_one] at hm
  generalize hplanes : planeBytes j.pa _ = planes at hm
  generalize hexps : (List.range 32).map _ = exps at hm
  have hlen : planes.length = 128 * j.pa := by rw [← hplanes, length_planeBytes, List.length_map, List.length_range]
  have hread {i p : Nat} (hi : i < 32) (hp : p < j.pa) :
      u.readMem (s.lsHere + j.o1 + 128 * p + 4 * i) 4 = planeWord j.pa p (s.packedRow s.lsHere j i).1 % 256 ^ 4 := by
    refine Memory.read_of_bytes fun b hb => ?_
    have hget := getElem?_planeBytes hp (getElem?_range_map (fun i => (s.packedRow s.lsHere j i).1) hi) hb
    rw [hplanes, List.length_map, List.length_range] at hget
    rw [hm, Memory.get_writeBytes_other (Memory.wf_writeBytes h.wf) (.inl (by omega)), Nat.add_assoc _ (4 * i), Nat.add_assoc _ (128 * p)]
    exact Memory.get_writeBytes h.wf hget
  refine ⟨u, hu, ha, fun i hi => ⟨fun p hp k hk => ?_, ?_⟩⟩
  · rw [hread hi hp, ← testBit_planeWord hp, show 256 ^ 4 = 2 ^ 32 by decide, Nat.testBit_mod_two_pow, decide_eq_true hk, Bool.true_and]
  · rw [State.byteAt, hm, ← ofNat_lowBits]
    exact Memory.get_writeBytes (Memory.wf_writeBytes h.wf) (hexps ▸ getElem?_range_map _ hi)

end

theorem tileExecutions : Piece.TileExecutions := by
  intro s j q hmq hbad hpoison hrise hpart hstores hsplit hgot hout hwait hcan _ l row ex product completes stores done
  have h : s.AtHead j q := ⟨hmq, hbad, hpoison, hpart, hstores, hsplit, hgot, hout, hwait, (State.canonical_iff.1 hcan).1⟩
  refine ⟨fun hop => ?mzero, fun hop => ?maccld, fun ha hb hk => ⟨fun hop => ?mmaz, fun hop => ?mma⟩, fun hop hf => ?maccst,
    fun n hop hp hn => ?mxpose, fun hop ho => ?mpack⟩
  case mzero => exact h.setsTile hrise (runTile_mzero hop) fun _ _ _ _ => rfl
  case maccld => exact h.setsTile hrise (runTile_maccld hop) fun _ _ _ _ => rfl
  case mmaz =>
    obtain ⟨n, hrun⟩ := runTile_mmaz (r := s) (k := s.here) (l := s.lsHere) hop
    exact h.setsTile hrise hrun fun i hi c hc => s.mmaRows_oneBlock s.lsHere _ hk ha hb hi hc
  case mma =>
    obtain ⟨n, hrun⟩ := runTile_mma (r := s) (k := s.here) (l := s.lsHere) hop
    exact h.setsTile hrise hrun fun i hi c hc => s.mmaRows_oneBlock s.lsHere _ hk ha hb hi hc
  case maccst => exact h.stores_raw hop hf
  case mxpose => exact h.stores_transpose hop hp hn
  case mpack => exact h.stores_pack hop ho

/-- Settles O34: each command by what it computes at the head of the queue, and round96 by the exponent that it finds. -/
theorem matrixArithmetic : Obligations.MatrixArithmetic := ⟨tileExecutions, roundExactly⟩

end Sys2Proof.Machine
end

section
/-! PROOFS. The events of a view hart (R182, R183, R189): a commit leaves the queue, and the hart takes, begins or ends a block. -/

namespace Sys2Proof.Machine

/-! ## What an update of a view hart leaves -/

@[simp] theorem State.viewHart_modView_self (s : State) (d h : Nat) (f : ViewHart → ViewHart) :
    ((s.modView d h f).dev d).viewHart h = f ((s.dev d).viewHart h) := by
  simp [State.modView, Device.viewHart, Table.find_set]

@[simp] theorem State.pooled_modView_self (s : State) (d h : Nat) (f : ViewHart → ViewHart) :
    ((s.modView d h f).dev d).pooled = (s.dev d).pooled := by
  rw [State.modView, State.dev_modDev_self]
  rfl

@[simp] theorem Got.else_ok {α : Type} (a : α) (s bad : State) (k : α → State) : (Got.ok a).else s bad k = k a := rfl

/-! ## The header of a block (R110) -/

theorem ofNat_hdrVersion (w : Word) : BitVec.ofNat 40 (hdrVersion w) = w.extractLsb' 0 40 := by
  rw [hdrVersion, BitVec.ofNat_toNat, BitVec.setWidth_eq]

theorem hdrVersion_eq_zero (w : Word) : hdrVersion w = 0 ↔ w.extractLsb' 0 40 = 0#40 := BitVec.toNat_inj (y := 0#40)

theorem hdrState_eq (w : Word) {n : Nat} (h : n < 16) : hdrState w = n ↔ w.extractLsb' 44 4 = BitVec.ofNat 4 n := by
  rw [← BitVec.toNat_inj, BitVec.toNat_ofNat, Nat.mod_eq_of_lt h]
  rfl

/-- The buffer that a build goes to, by the header: BUF of a POISONED one or of one without a version, else the other (R182). -/
def targetBuffer (hd : Word) : Bool := if hdrState hd = 3 ∨ hdrVersion hd = 0 then hd.getLsbD 40 else !hd.getLsbD 40

theorem targetBuffer_eq (hd : Word) :
    targetBuffer hd = if hd.extractLsb' 44 4 = 3#4 ∨ hd.extractLsb' 0 40 = 0#40 then hd.getLsbD 40 else !hd.getLsbD 40 := by
  simp only [targetBuffer, hdrState_eq hd (show 3 < 16 by decide), hdrVersion_eq_zero]

/-- OTHER still names a version in the buffer that the build goes to (R182). -/
def Build.otherKept (b : Build) (hd o : Word) : Bool := targetBuffer hd != hd.getLsbD 40 && o.getLsbD 63 && !b.cleared

theorem Build.otherKept_iff (b : Build) (hd o : Word) :
    b.otherKept hd o = true ↔ targetBuffer hd ≠ hd.getLsbD 40 ∧ o.getLsbD 63 = true ∧ b.cleared = false := by
  simp only [Build.otherKept, Bool.and_eq_true, bne_iff_ne, Bool.not_eq_true', and_assoc]

/-! ## The block that a hart has taken -/

/-- The view of a block. -/
def State.blockView (s : State) (d : Nat) (b : Build) : Entry := s.entry d (b.key / 2 ^ 40)

/-- The issuer of the hart's accesses for a block. -/
def State.blockIssuer (s : State) (d h : Nat) (b : Build) : Issuer := viewIssuer d h (s.blockView d b).tenant

/-- The VA of a block's header; OTHER follows it. -/
def State.blockHeader (s : State) (d : Nat) (b : Build) : VA := vaAdd (s.blockView d b).hdr (16 * (b.key % 2 ^ 40))

/-- The reclaim floor of a block's group (R114). -/
def State.blockFloor (s : State) (d : Nat) (b : Build) : Nat := ((s.viewWord d (s.blockView d b).leader 27).extractLsb' 0 40).toNat

/-- The build of version v into buffer tb has begun, and nothing is pending for the block. -/
def State.buildBegun (s : State) (d h : Nat) (b : Build) (v : Nat) (tb : Bool) : State :=
  s.modView d h fun q => { q with pend := Table.erase q.pend b.key, work := some { b with cleared := false, begun := some (v, tb) } }

/-- The header of a block is marked BUILDING, if it is FRESH, and the build of the pending version v into the target buffer begins. -/
def State.startBuild (s : State) (d h : Nat) (b : Build) (hd : Word) (v : Nat) : State :=
  let who := s.blockIssuer d h b
  let hva := s.blockHeader d b
  (if hdrState hd = 1 then s.engWrite d who hva 8 (headerWord 0 2 (s.blockView d b).pol (hd.getLsbD 40) (hdrVersion hd)).toNat else .ok s).else
    s (s.haltView d (b.key / 2 ^ 40)) fun s1 => (s1.pairTrip d who hva).buildBegun d h b v (targetBuffer hd)

/-- OTHER of a block is cleared, once the floor has passed its version. -/
def State.clearOther (s : State) (d h : Nat) (b : Build) : State :=
  let who := s.blockIssuer d h b
  let hva := s.blockHeader d b
  (s.engWrite d who (vaAdd hva 8) 8 0).else s (s.haltView d (b.key / 2 ^ 40)) fun s1 =>
    (s1.pairTrip d who hva).modWork d h fun b => { b with cleared := true }

section
variable {s s1 : State} {d h hw ow v : Nat} {b : Build} {tb : Bool}

theorem State.clearOther_of_write
    (hwrite : s.engWrite d (s.blockIssuer d h b) (vaAdd (s.blockHeader d b) 8) 8 0 = .ok s1) :
    s.clearOther d h b = (s1.pairTrip d (s.blockIssuer d h b) (s.blockHeader d b)).modWork d h fun b => { b with cleared := true } := by
  simp only [State.clearOther, hwrite, Got.else_ok]

theorem State.startBuild_of_notFresh {hd : Word} (hst : hdrState hd ≠ 1) :
    s.startBuild d h b hd v
      = (s.pairTrip d (s.blockIssuer d h b) (s.blockHeader d b)).buildBegun d h b v (targetBuffer hd) := by
  simp only [State.startBuild, if_neg hst, Got.else_ok]

theorem State.startBuild_of_fresh {hd : Word} (hst : hdrState hd = 1)
    (hwrite : s.engWrite d (s.blockIssuer d h b) (s.blockHeader d b) 8
      (headerWord 0 2 (s.blockView d b).pol (hd.getLsbD 40) (hdrVersion hd)).toNat = .ok s1) :
    s.startBuild d h b hd v
      = (s1.pairTrip d (s.blockIssuer d h b) (s.blockHeader d b)).buildBegun d h b v (targetBuffer hd) := by
  simp only [State.startBuild, if_pos hst, hwrite, Got.else_ok]

/-- What follows the two reads of a header pair: OTHER holds the block back, or a POOL does, or it starts. -/
theorem State.beginBuild_of_reads (hhd : s.engRead d (s.blockIssuer d h b) (s.blockHeader d b) 8 = .ok hw)
    (hother : s.engRead d (s.blockIssuer d h b) (vaAdd (s.blockHeader d b) 8) 8 = .ok ow) :
    s.beginBuild d h b =
      (if b.otherKept (.ofNat 64 hw) (.ofNat 64 ow) then
        if s.blockFloor d b ≤ hdrVersion (.ofNat 64 ow) then s else s.clearOther d h b
      else if (s.dev d).pooled (s.blockView d b).hdr (targetBuffer (.ofNat 64 hw)) then s
      else (Table.find ((s.dev d).viewHart h).pend b.key).elim (s.modView d h fun q => { q with work := none })
        (s.startBuild d h b (.ofNat 64 hw))) := by
  simp only [State.blockIssuer, State.blockHeader, State.blockView] at hhd hother
  simp only [State.beginBuild, hhd, hother, Got.else_ok, Build.otherKept, ← and_assoc, bne_iff_ne, Bool.and_eq_true]
  rcases Table.find ((s.dev d).viewHart h).pend b.key with _ | v <;> rfl

/-- BUILDS of a block's view counts one more build, up to 2^40 - 1, and the hart has no block. -/
def State.buildEnded (s : State) (d h : Nat) (b : Build) : State :=
  let e := b.key / 2 ^ 40
  (s.setView d e 30 (BitVec.ofNat 64 (min (2 ^ 40 - 1) (((s.viewWord d e 30).extractLsb' 0 40).toNat + 1)))).modView d h
    fun q => { q with work := none }

/-- The header that a block ends with: POISONED with its fault, or FRESH. -/
def State.endHeader (s : State) (d : Nat) (b : Build) (v : Nat) (tb : Bool) : Word :=
  if b.fault = 0 then headerWord 0 1 (s.blockView d b).pol tb v else headerWord b.fault 3 (s.blockView d b).pol tb v

/-- A block whose OTHER is as it is to be ends by its header and BUILDS. -/
theorem State.endBuild_of_write (hhd : s.engRead d (s.blockIssuer d h b) (s.blockHeader d b) 8 = .ok hw)
    (ho : tb = (BitVec.ofNat 64 hw : Word).getLsbD 40 ∨ b.cleared = true)
    (hwrite : s.engWrite d (s.blockIssuer d h b) (s.blockHeader d b) 8 (s.endHeader d b v tb).toNat = .ok s1) :
    s.endBuild d h b v tb = s1.buildEnded d h b := by
  have ho' : ¬ (tb ≠ (BitVec.ofNat 64 hw : Word).getLsbD 40 ∧ (!b.cleared) = true) := by
    rcases ho with h | h <;> simp [h]
  simp only [State.blockIssuer, State.blockHeader, State.blockView, State.endHeader] at hhd hwrite
  simp only [State.endBuild, hhd, Got.else_ok, if_neg ho', hwrite]
  rfl

theorem State.buildStep_of_fault (h0 : b.fault ≠ 0) : s.buildStep d h b v tb = s.endBuild d h b v tb := if_pos h0

/-- A block whose words have all been written goes on to its end. -/
theorem State.buildStep_of_written {img : List Word} (h0 : b.fault = 0) (hi : b.img = some img)
    (hgot : ∀ i < img.length, (Table.find b.got i).isSome = true) : s.buildStep d h b v tb = s.endBuild d h b v tb := by
  have hleft : (List.range img.length).filter (fun i => (Table.find b.got i).isNone) = [] :=
    List.filter_eq_nil_iff.2 fun i hi => by simp [← Option.not_isSome, hgot i (List.mem_range.1 hi)]
  simp only [State.buildStep, h0, hi, hleft, ne_eq, not_true_eq_false, if_false, if_true]

end

/-! ## The event -/

/-- One commit has left the queue of a hart. -/
def State.commitTaken (s : State) (d h : Nat) : State := s.modView d h fun q => { q with queued := q.queued - 1 }

/-- What a hart does once a commit has left. -/
def State.viewTurn (s : State) (d h : Nat) : State :=
  let q := (s.dev d).viewHart h
  match q.work with
  | some b => match b.begun with
    | some (v, tb) => s.buildStep d h b v tb
    | none => s.beginBuild d h b
  | none => match q.pend with
    | (k, _) :: _ => s.modView d h fun q => { q with work := some ⟨k, false, none, [], 0, none⟩ }
    | [] => s

section
variable {s : State} {d h k v : Nat} {b : Build} {tb : Bool}

theorem State.viewTurn_of_idle (hw : ((s.dev d).viewHart h).work = none) (hp : ((s.dev d).viewHart h).pend = []) : s.viewTurn d h = s := by
  simp only [State.viewTurn, hw, hp]

theorem State.viewTurn_of_pending {l : Table Nat} (hw : ((s.dev d).viewHart h).work = none) (hp : ((s.dev d).viewHart h).pend = (k, v) :: l) :
    s.viewTurn d h = s.modView d h fun q => { q with work := some ⟨k, false, none, [], 0, none⟩ } := by
  simp only [State.viewTurn, hw, hp]

theorem State.viewTurn_of_taken (hw : ((s.dev d).viewHart h).work = some b) (hb : b.begun = none) : s.viewTurn d h = s.beginBuild d h b := by
  simp only [State.viewTurn, hw, hb]

theorem State.viewTurn_of_begun (hw : ((s.dev d).viewHart h).work = some b) (hb : b.begun = some (v, tb)) :
    s.viewTurn d h = s.buildStep d h b v tb := by
  simp only [State.viewTurn, hw, hb]

@[simp] theorem State.viewHart_commitTaken (s : State) (d h : Nat) :
    ((s.commitTaken d h).dev d).viewHart h = { (s.dev d).viewHart h with queued := ((s.dev d).viewHart h).queued - 1 } :=
  State.viewHart_modView_self ..

@[simp] theorem State.pooled_commitTaken (s : State) (d h : Nat) : ((s.commitTaken d h).dev d).pooled = (s.dev d).pooled :=
  State.pooled_modView_self ..

end

section
variable {s : State} {hart : Nat} (hh : hart < 24) (hfail : (s.core s.cur.dev (4704 + hart)).failed = false)
  (hfull : (s.device.viewHart hart).full = [])
include hh hfail hfull

/-- While no commit waits for a place, an event takes one from the queue and has one turn. -/
theorem exec_viewBlockBuild : exec (.viewBlockBuild hart) s = .next ((s.commitTaken s.cur.dev hart).viewTurn s.cur.dev hart) := by
  have hon : ¬ (24 ≤ hart ∨ (s.core s.cur.dev (viewVcn hart)).failed = true) := by simp [viewVcn, hfail, hh]
  show execViewBlockBuild hart s = _
  rw [execViewBlockBuild, if_neg hon, hfull]
  rfl

end

/-- Settles O45: the turn by what the hart has taken, a start by the header pair, and an end by the block's fault. -/
theorem viewBuilds : Obligations.ViewBuilds := by
  unfold Obligations.ViewBuilds
  intro s s1 hart key v hw ow l b d q s0 e x who hva hd o buf tb floor word hh hfail hfull
  have hexec : exec (.viewBlockBuild hart) s = .next (s0.viewTurn d hart) := exec_viewBlockBuild hh hfail hfull
  have hq : (s0.dev d).viewHart hart = { q with queued := q.queued - 1 } := s.viewHart_commitTaken d hart
  have hpool : (s0.dev d).pooled = s.device.pooled := s.pooled_commitTaken d hart
  have htb : targetBuffer hd = tb := targetBuffer_eq hd
  rw [hexec]
  refine ⟨fun hwork hpend => ?idle, fun hwork hpend => ?takes, fun hwork hb hhd hother => ?begins, fun target hwork hb hhd ho => ?ends⟩
  case idle => rw [State.viewTurn_of_idle (by rw [hq, hwork]) (by rw [hq, hpend])]
  case takes => rw [State.viewTurn_of_pending (by rw [hq, hwork]) (by rw [hq, hpend])]
  case begins =>
    have hturn := (State.viewTurn_of_taken (by rw [hq, hwork]) hb).trans (State.beginBuild_of_reads hhd hother)
    have hkeeps := htb ▸ b.otherKept_iff hd o
    intro keeps
    refine ⟨fun hk hfloor => ?waitsForFloor, fun hk hfloor hwrite => ?clears, fun hk hp => ?waitsForPool, fun hk hp hv => ?starts⟩
    case waitsForFloor => rw [hturn, if_pos (hkeeps.2 hk), if_pos (by exact hfloor)]
    case clears =>
      rw [hturn, if_pos (hkeeps.2 hk), if_neg (by exact Nat.not_le.2 hfloor), State.clearOther_of_write hwrite]
      rfl
    case waitsForPool => rw [hturn, if_neg (mt hkeeps.1 hk), if_pos (by rw [hpool, htb]; exact hp)]
    case starts =>
      have hv' : Table.find ((s0.dev d).viewHart hart).pend b.key = some v := by rw [hq]; exact hv
      have hnp : ¬ (s0.dev d).pooled (s0.blockView d b).hdr (targetBuffer hd) = true := by
        rw [hpool, htb]
        exact Bool.eq_false_iff.1 hp
      have hfresh := hdrState_eq hd (show 1 < 16 by decide)
      rw [hturn, if_neg (mt hkeeps.1 hk), if_neg hnp, hv', Option.elim_some]
      refine ⟨fun hst => ?notFresh, fun hst hwrite => ?fresh⟩
      case notFresh =>
        rw [State.startBuild_of_notFresh (mt hfresh.1 hst), htb]
        rfl
      case fresh =>
        have hword : headerWord 0 2 x.pol buf (hdrVersion hd) = word 0 2 buf (hd.extractLsb' 0 40) := by
          rw [headerWord, ofNat_hdrVersion]
          rfl
        rw [State.startBuild_of_fresh (hfresh.2 hst) (by rw [← hwrite, ← hword]; rfl), htb]
        rfl
  case ends =>
    have hturn := State.viewTurn_of_begun (by rw [hq, hwork]) hb
    intro done
    refine ⟨fun hf hwrite => ?faulty, fun img hf hi hgot hwrite => ?whole⟩
    case faulty =>
      rw [hturn, State.buildStep_of_fault hf, State.endBuild_of_write hhd ho (by rw [State.endHeader, if_neg hf]; exact hwrite)]
      rfl
    case whole =>
      rw [hturn, State.buildStep_of_written hf hi hgot, State.endBuild_of_write hhd ho (by rw [State.endHeader, if_pos hf]; exact hwrite)]
      rfl

end Sys2Proof.Machine
end
